-- ==== Sys2Proof/Word.lean ====
section
/-! DEFINITION. The word types of the Ilunov D16 and the plainest helpers over lists keyed by numbers. -/

namespace Sys2Proof

/-- A 32-bit register value, a predicate over the lanes, or a lane mask. -/
abbrev W32 := BitVec 32
/-- A 64-bit word: an instruction word, a header, a value of a register pair. -/
abbrev W64 := BitVec 64
/-- One byte of memory. -/
abbrev Byte := BitVec 8
/-- A set of lanes: bit l is lane l (Table 0.3, `Lanes(mask)`). -/
abbrev Mask := BitVec 32

/-- The lanes of a mask in ascending order (Table 0.3). -/
def lanes (m : Mask) : List Nat := (List.range 32).filter m.getLsbD

/-- The mask that holds exactly the lanes for which `p` holds. -/
def maskOf (p : Nat → Bool) : Mask :=
  (List.range 32).foldl (fun m l => if p l then m ||| (1#32 <<< l) else m) 0#32

/-- The number of lanes of a mask. -/
def popcount (m : Mask) : Nat := (lanes m).length

/-- Bits [lo+w-1:lo] of a natural number (R2). -/
def bits (x lo w : Nat) : Nat := x / 2 ^ lo % 2 ^ w

/-- A natural number read as a two's complement number of w bits. -/
def toSigned (w x : Nat) : Int :=
  let y := x % 2 ^ w
  if y < 2 ^ (w - 1) then (y : Int) else (y : Int) - (2 ^ w : Nat)

/-- The w-bit two's complement pattern of an integer. -/
def ofSigned (w : Nat) (x : Int) : Nat := (x % (2 ^ w : Nat)).toNat

/-! ### Tables: lists of key and value, at most one entry for a key, in rising order of an encoded key. -/

/-- The value stored under a key, or the given default. -/
def tget {κ β : Type} [DecidableEq κ] (dflt : β) : List (κ × β) → κ → β
  | [], _ => dflt
  | (a, v) :: t, k => if a = k then v else tget dflt t k

/-- The value stored under a key, if there is one. -/
def tfind {κ β : Type} [DecidableEq κ] : List (κ × β) → κ → Option β
  | [], _ => none
  | (a, v) :: t, k => if a = k then some v else tfind t k

/-- Store a value under a key: in place where the key stands, else at the end. -/
def tset {κ β : Type} [DecidableEq κ] : List (κ × β) → κ → β → List (κ × β)
  | [], k, v => [(k, v)]
  | (a, w) :: t, k, v => if a = k then (k, v) :: t else (a, w) :: tset t k v

/-- Drop every entry of a key. -/
def tdel {κ β : Type} [DecidableEq κ] (m : List (κ × β)) (k : κ) : List (κ × β) :=
  m.filter (fun e => !decide (e.1 = k))

/-- Change the value of a key that is there. -/
def tupd {κ β : Type} [DecidableEq κ] (m : List (κ × β)) (k : κ) (f : β → β) : List (κ × β) :=
  match tfind m k with
  | some v => tset m k (f v)
  | none => m

/-- Entry i of a list, or the default. -/
def lget {β : Type} (dflt : β) (l : List β) (i : Nat) : β := l.getD i dflt

/-- A list with entry i replaced; a list shorter than i keeps its value. -/
def lset {β : Type} (l : List β) (i : Nat) (v : β) : List β := l.set i v

/-- Little-endian value of a list of bytes (R3). -/
def leVal : List Byte → Nat
  | [] => 0
  | b :: t => b.toNat + 256 * leVal t

/-- The n low bytes of a number, lowest first (R3). -/
def leBytes : Nat → Nat → List Byte
  | 0, _ => []
  | n + 1, x => BitVec.ofNat 8 x :: leBytes n (x / 256)

/-- A list of the 32 lane values of a function. -/
def perLane {β : Type} (f : Nat → β) : List β := (List.range 32).map f

end Sys2Proof
end

