-- ==== Sys2Proof/Syntax.lean ====
section
/-! DEFINITION. The syntax of one instruction or event: operand forms, modifiers, and `Instr`, one constructor per row of the
opcode table (rows 0 to 190 are instructions, rows 191 to 279 events of the package's engines and of the outside). -/

namespace Sys2Proof

/-- The fields every instruction word has beside its opcode (Table 2.3): settle, guard predicate, guard negation. -/
structure Cm where
  s : Bool
  pg : BitVec 3
  pn : Bool
deriving DecidableEq, Repr

/-- A scalar register s0 to s63. -/
abbrev SReg := BitVec 6
/-- A vector register v0 to v255. -/
abbrev VReg := BitVec 8
/-- A predicate p0 to p7. -/
abbrev PReg := BitVec 3

/-- A vector source field, all four modes of Table 2.4. -/
inductive VSrc where
  /-- mode 00: a vector register -/
  | reg (n : VReg)
  /-- mode 01: X[x] + off -/
  | ind (x : BitVec 2) (off : BitVec 6)
  /-- mode 10: a scalar register, broadcast -/
  | sc (n : SReg)
  /-- mode 11: a constant code of Table 2.5 -/
  | const (k : BitVec 8)
deriving DecidableEq, Repr

/-- A vector destination field (modes 00 and 01, R49). -/
inductive VDst where
  | reg (n : VReg)
  | ind (x : BitVec 2) (off : BitVec 6)
deriving DecidableEq, Repr

/-- A scalar source field (modes 10 and 11, R49). -/
inductive SSrc where
  | reg (n : SReg)
  | const (k : BitVec 8)
deriving DecidableEq, Repr

/-- A 64-bit scalar source: an even pair, or a constant sign-extended to 64 bits (R49, Table 2.5a). -/
inductive SPair where
  | reg (n : SReg)
  | const (k : BitVec 8)
deriving DecidableEq, Repr

/-- A global address field (R260): a vector pair or an even scalar pair. -/
inductive GAddr where
  | vec (d : VDst)
  | sc (n : SReg)
deriving DecidableEq, Repr

/-- The address of sld and sst: an even scalar pair, or with `.sp` one scalar offset (R260). -/
inductive SAddr where
  | glob (n : SReg)
  | spad (a : SSrc)
deriving DecidableEq, Repr

/-- One end of a cp.lin: an address pair, or an offset value (R319). -/
inductive CpEnd where
  | glob (n : SReg)
  | off (a : SSrc)
deriving DecidableEq, Repr

/-- Integer types of Table 4.1. -/
inductive ITy where
  | b | s | n
deriving DecidableEq, Repr

/-- FUNC of the integer format-A instructions (Table 4.1). -/
structure IntF where
  pq : PReg
  var : BitVec 3
  sat : Bool
  ty : ITy
deriving DecidableEq, Repr

/-- FUNC3 of vaddi, vmuli, saddi and smuli (Table 4.4). -/
structure ArithI where
  sat : Bool
  ty : ITy
deriving DecidableEq, Repr

/-- Conditions of vcmpi and scmpi (Table 4.4). -/
inductive CmpI where
  | eq | ne | ltS | leS | gtS | geS | ltN | geN
deriving DecidableEq, Repr

/-- Rounding modes (Table 3.2). -/
inductive Rnd where
  | rn | rz | rm | rp
deriving DecidableEq, Repr

/-- FUNC of the FP32 instructions (Table 5.1). -/
structure FpF where
  pq : PReg
  var : BitVec 3
  sat : Bool
  rnd : Rnd
deriving DecidableEq, Repr

/-- FUNC of the packed instructions (Table 5.4). -/
structure PkF where
  var : BitVec 3
  sat : Bool
  rnd : Rnd
  bf : Bool
deriving DecidableEq, Repr

/-- Types of cvt (Table 5.6). -/
inductive CvtTy where
  | f32 | f16 | bf16 | s32 | n32 | s16 | n16
deriving DecidableEq, Repr

/-- FUNC of cvt (R123). -/
structure CvtF where
  st : CvtTy
  dt : CvtTy
  sat : Bool
  rnd : Rnd
  sh : Bool
deriving DecidableEq, Repr

/-- Narrow formats of cvtn (Table 5.7) and of the matrix array (Table 3.9). -/
inductive NFmt where
  | e4m3 | e5m2 | e2m1 | i8 | i4
deriving DecidableEq, Repr

/-- FUNC of cvtn (Table 5.7) without SC. -/
structure CvtnF where
  fmt : NFmt
  q : BitVec 2
  rnd : Rnd
deriving DecidableEq, Repr

/-- FUNC of pack (R128). -/
structure PackF where
  var : BitVec 3
  sat : Bool
  rnd : Rnd
  hb : Bool
  ha : Bool
deriving DecidableEq, Repr

/-- FUNC of shfl (R130). -/
structure ShflF where
  pq : PReg
  m : BitVec 3
deriving DecidableEq, Repr

/-- Types of vred and vscan (Table 5.10). -/
inductive RTy where
  | b | s | n | f
deriving DecidableEq, Repr

/-- FUNC of vred and vscan (Table 5.10). -/
structure RedF where
  opr : BitVec 3
  excl : Bool
  rnd : Rnd
  ty : RTy
deriving DecidableEq, Repr

/-- FUNC of pand, por and pxor (Table 5.9): the `.not` modifier. -/
structure NotF where
  inv : Bool
deriving DecidableEq, Repr

/-- The forms of pmov (Table 5.9). -/
inductive PmovK where
  | p (d a : PReg)
  | set (d : PReg) (a : VSrc)
  | nz (d : PReg) (a : VSrc)
  | v (d : VDst) (a : PReg)
deriving DecidableEq, Repr

/-- The forms of vote (Table 9.3). -/
inductive VoteK where
  | or (d : PReg) | and (d : PReg) | eq (d : PReg) | bits (d : SReg) | cnt (d : SReg)
deriving DecidableEq, Repr

/-- Selectors of vread (Table 9.3). -/
inductive VReadSel where
  | laneId | tidX | tidY | tidZ
deriving DecidableEq, Repr

/-- System registers (Table 6.8a). -/
inductive SysReg where
  | waveId | blockX | blockY | blockZ | nBlockX | nBlockY | nBlockZ | groupId | gRank | cluster | core | die
  | splitId | splitMask | allot | preq | clkLo | clkHi | ctxId | splOvf | nanDrop | xidx0 | xidx1 | xidx2 | xidx3
deriving DecidableEq, Repr

/-- States that frag.list selects (Table 10.7). -/
inductive FragSel where
  | parked | resumable | any
deriving DecidableEq, Repr

/-- Access sizes (Table 12.2). -/
inductive Sz where
  | n8 | s8 | n16 | s16 | b32 | b64 | b128
deriving DecidableEq, Repr

/-- FUNC of loads and stores (Table 12.2). -/
structure LdF where
  scp : BitVec 3
  spc : Bool
  sz : Sz
deriving DecidableEq, Repr

/-- FUNC of atomics (Table 12.3). -/
structure AtF where
  opr : BitVec 4
  w64 : Bool
  cls : Bool
  opn : Bool
deriving DecidableEq, Repr

/-- Conditions of wait and of launch dependences (Table 11.5, R175). -/
inductive WCond where
  | eq | ne | geS | ltS | geN | ltN
deriving DecidableEq, Repr

/-- Directions of cp.lin (Table 15.3). -/
inductive LinDir where
  | gs | sg | gg | sc | cs | gc
deriving DecidableEq, Repr

/-- Element formats that mx.st writes (Table 16.5). -/
inductive MxCv where
  | f32 | bf16 | f16 | e4m3
deriving DecidableEq, Repr

/-- A wave slot of a core (physical compute die). -/
structure WaveRef where
  die : Nat
  core : Nat
  slot : Nat
deriving DecidableEq, Repr

/-- An entry of a wave's split table. -/
structure SplitRef where
  w : WaveRef
  k : Nat
deriving DecidableEq, Repr

/-- A UCIe module: chiplet, router, module in router (R357, chiplet numbers of R361). -/
structure LinkRef where
  chiplet : Nat
  router : Nat
  mdl : Nat
deriving DecidableEq, Repr

/-- Link rates (R357). -/
inductive LinkRate where
  | g32 | g24 | g16 | g12 | g8
deriving DecidableEq, Repr

/-- Units of I/O die 0 that can fail (R371). -/
inductive IoUnit where
  | scheduler | arbiter | port | queueEngine | root
deriving DecidableEq, Repr

/-- A RoCEv2 SEND as it arrives: its PSN and its bytes (R365, R366). -/
structure SendMsg where
  psn : Nat
  data : List Byte
deriving DecidableEq, Repr

/-- One step of the machine's instruction set: an instruction word (two for brm), or an event of an engine or of the
outside with the object it names and what the outside supplies. -/
inductive Instr where
  /-- Does nothing except apply its settle bit. (R62) -/
  | nop (c : Cm)
  /-- Sends the lanes of E to the target and the rest of MASK to the next header, dividing the split if they differ. (R216) -/
  | bra (c : Cm) (tgt : BitVec 24) (rpc : BitVec 24)
  /-- Sends each lane to the target of its first true predicate pair, with up to four pairs over two words. (R216) -/
  | brm (c : Cm) (pairs : List (PReg × BitVec 16)) (rpc : BitVec 24)
  /-- Sends each lane of E to the code offset held in its vector operand. (R216) -/
  | brx (c : Cm) (a : VSrc) (rpc : BitVec 24)
  /-- Writes the return offset to each lane of E and sends those lanes to the relative target, with the return point as rpc. (R217) -/
  | call (c : Cm) (d : VDst) (tgt : BitVec 24)
  /-- Writes the return offset to each lane of E and sends those lanes to a per-lane code offset. (R217) -/
  | callx (c : Cm) (d : VDst) (a : VSrc)
  /-- Acts as brx with no reconvergence point, sending the lanes of E to their link offsets. (R217) -/
  | ret (c : Cm) (a : VSrc)
  /-- Retires the lanes of E, and exits the wave when it has no lane left. (R218) -/
  | exit (c : Cm)
  /-- Gathers the issuing split's lanes into WSM until every live lane of the wave has arrived. (R214) -/
  | wsync (c : Cm)
  /-- With PREQ set, brings the split to rest and optionally sets the wave's live register count. (R161) -/
  | yield (c : Cm) (lve : Bool) (live : BitVec 6)
  /-- Puts the whole split into SLEEP for a count of cycles. (R199) -/
  | sleep (c : Cm) (a : SSrc)
  /-- Sets the predicate true in the lowest lane of E only. (R196) -/
  | elect (c : Cm) (d : PReg)
  /-- Combines a predicate over E as or, and, eq, a bit mask or a count. (R197) -/
  | vote (c : Cm) (k : VoteK) (a : PReg)
  /-- Raises a software wave-level trap with cause 0x040 + n. (R159) -/
  | trap (c : Cm) (n : BitVec 6)
  /-- Raises a breakpoint trap, cause 0x011, with the tag in INFO. (R159) -/
  | brk (c : Cm) (tag : BitVec 16)
  /-- Returns from handler mode: restores s0–s3, re-injects or drops the replay queue and resumes the splits. (R160) -/
  | tret (c : Cm)
  /-- Writes a selected piece of the wave's split, stack, WSM or fragment state to a scalar. (R223) -/
  | splInfo (c : Cm) (d : SReg) (sel : BitVec 8)
  /-- Returns the fragment-table entries of a context on a core that are in the states named. (R224) -/
  | fragList (c : Cm) (d : SReg) (a : SPair) (st : FragSel)
  /-- Returns one word of a fragment's view. (R225) -/
  | fragRead (c : Cm) (d : SReg) (a : SPair) (b : SSrc)
  /-- Closes the wave's stores, then makes a parked fragment a split or RESUMABLE and returns its permit. (R225) -/
  | fragResume (c : Cm) (d : SReg) (a : SPair)
  /-- Exits a fragment's lanes and withdraws them from every barrier slot of the block. (R221) -/
  | fragKill (c : Cm) (d : SReg) (a : SPair)
  /-- Writes a captured address, data or compare word of a parked fragment and clears its poison bit. (R225) -/
  | fragPatch (c : Cm) (d : SReg) (a : SPair) (b : SSrc) (e : SSrc)
  /-- Reads a system register into a scalar. (R162) -/
  | sread (c : Cm) (d : SReg) (sys : SysReg)
  /-- Writes a system register, including the index registers, SPLOVF and NANDROP. (R162) -/
  | swrite (c : Cm) (a : SSrc) (sys : SysReg)
  /-- Reads one 32-bit word of the capacity record. (R377) -/
  | capRd (c : Cm) (d : SReg) (a : SSrc)
  /-- Writes a per-lane identity value (LANEID, TIDX, TIDY or TIDZ) to a vector register. (R198) -/
  | vread (c : Cm) (d : VDst) (sel : VReadSel)
  /-- Scalar add. (R102) -/
  | sadd (c : Cm) (d : SReg) (a : SSrc) (b : SSrc) (f : IntF)
  /-- Scalar subtract. (R102) -/
  | ssub (c : Cm) (d : SReg) (a : SSrc) (b : SSrc) (f : IntF)
  /-- Scalar multiply, low or high half. (R102) -/
  | smul (c : Cm) (d : SReg) (a : SSrc) (b : SSrc) (f : IntF)
  /-- Scalar multiply-add. (R102) -/
  | smad (c : Cm) (d : SReg) (a : SSrc) (b : SSrc) (e : SSrc) (f : IntF)
  /-- Scalar bitwise and, optionally with B inverted. (R102) -/
  | sand (c : Cm) (d : SReg) (a : SSrc) (b : SSrc) (f : IntF)
  /-- Scalar bitwise or. (R102) -/
  | sor (c : Cm) (d : SReg) (a : SSrc) (b : SSrc) (f : IntF)
  /-- Scalar bitwise xor. (R102) -/
  | sxor (c : Cm) (d : SReg) (a : SSrc) (b : SSrc) (f : IntF)
  /-- Scalar shift left. (R102) -/
  | sshl (c : Cm) (d : SReg) (a : SSrc) (b : SSrc) (f : IntF)
  /-- Scalar logical or arithmetic shift right. (R102) -/
  | sshr (c : Cm) (d : SReg) (a : SSrc) (b : SSrc) (f : IntF)
  /-- Scalar minimum. (R102) -/
  | smin (c : Cm) (d : SReg) (a : SSrc) (b : SSrc) (f : IntF)
  /-- Scalar maximum. (R102) -/
  | smax (c : Cm) (d : SReg) (a : SSrc) (b : SSrc) (f : IntF)
  /-- Scalar compare, written to a predicate in every lane of E. (R105) -/
  | scmp (c : Cm) (a : SSrc) (b : SSrc) (f : IntF)
  /-- Scalar select on a nonzero condition. (R104) -/
  | ssel (c : Cm) (d : SReg) (a : SSrc) (b : SSrc) (e : SSrc) (f : IntF)
  /-- Scalar move. (R104) -/
  | smov (c : Cm) (d : SReg) (a : SSrc) (f : IntF)
  /-- Scalar bit operation: popc, clz, ctz, brev or bswap. (R104) -/
  | sbit (c : Cm) (d : SReg) (a : SSrc) (f : IntF)
  /-- Scalar divide giving the truncated quotient or the remainder, on a divider that is not pipelined. (R106) -/
  | sdiv (c : Cm) (d : SReg) (a : SSrc) (b : SSrc) (f : IntF)
  /-- Writes a 32-bit immediate to a scalar. (R112) -/
  | sli (c : Cm) (d : SReg) (imm : W32)
  /-- Scalar add of an immediate. (R111) -/
  | saddi (c : Cm) (d : SReg) (a : SReg) (imm : W32) (f : ArithI)
  /-- Scalar and with an immediate. (R111) -/
  | sandi (c : Cm) (d : SReg) (a : SReg) (imm : W32)
  /-- Scalar or with an immediate. (R111) -/
  | sori (c : Cm) (d : SReg) (a : SReg) (imm : W32)
  /-- Scalar xor with an immediate. (R111) -/
  | sxori (c : Cm) (d : SReg) (a : SReg) (imm : W32)
  /-- Scalar shift left by an immediate. (R111) -/
  | sshli (c : Cm) (d : SReg) (a : SReg) (imm : W32)
  /-- Scalar shift right by an immediate. (R111) -/
  | sshri (c : Cm) (d : SReg) (a : SReg) (imm : W32) (f : Bool)
  /-- Scalar compare with an immediate, written to a predicate. (R111) -/
  | scmpi (c : Cm) (d : PReg) (a : SReg) (imm : W32) (f : CmpI)
  /-- Scalar multiply by an immediate. (R111) -/
  | smuli (c : Cm) (d : SReg) (a : SReg) (imm : W32) (f : ArithI)
  /-- 64-bit add of scalar pairs. (R110) -/
  | sadd64 (c : Cm) (d : SReg) (a : SPair) (b : SPair) (f : IntF)
  /-- 64-bit subtract of scalar pairs. (R110) -/
  | ssub64 (c : Cm) (d : SReg) (a : SPair) (b : SPair) (f : IntF)
  /-- Forms a scaled 64-bit address from a base pair and an index. (R110) -/
  | sla (c : Cm) (d : SReg) (a : SPair) (b : SSrc) (f : IntF)
  /-- Per-lane add. (R102) -/
  | vadd (c : Cm) (d : VDst) (a : VSrc) (b : VSrc) (f : IntF)
  /-- Per-lane subtract. (R102) -/
  | vsub (c : Cm) (d : VDst) (a : VSrc) (b : VSrc) (f : IntF)
  /-- Per-lane multiply, low or high half. (R102) -/
  | vmul (c : Cm) (d : VDst) (a : VSrc) (b : VSrc) (f : IntF)
  /-- Per-lane multiply-add. (R102) -/
  | vmad (c : Cm) (d : VDst) (a : VSrc) (b : VSrc) (e : VSrc) (f : IntF)
  /-- Per-lane bitwise and. (R102) -/
  | vand (c : Cm) (d : VDst) (a : VSrc) (b : VSrc) (f : IntF)
  /-- Per-lane bitwise or. (R102) -/
  | vor (c : Cm) (d : VDst) (a : VSrc) (b : VSrc) (f : IntF)
  /-- Per-lane bitwise xor. (R102) -/
  | vxor (c : Cm) (d : VDst) (a : VSrc) (b : VSrc) (f : IntF)
  /-- Per-lane shift left. (R102) -/
  | vshl (c : Cm) (d : VDst) (a : VSrc) (b : VSrc) (f : IntF)
  /-- Per-lane shift right. (R102) -/
  | vshr (c : Cm) (d : VDst) (a : VSrc) (b : VSrc) (f : IntF)
  /-- Per-lane minimum. (R102) -/
  | vmin (c : Cm) (d : VDst) (a : VSrc) (b : VSrc) (f : IntF)
  /-- Per-lane maximum. (R102) -/
  | vmax (c : Cm) (d : VDst) (a : VSrc) (b : VSrc) (f : IntF)
  /-- Per-lane absolute value. (R104) -/
  | vabs (c : Cm) (d : VDst) (a : VSrc) (f : IntF)
  /-- Per-lane compare written to a predicate. (R105) -/
  | vcmp (c : Cm) (a : VSrc) (b : VSrc) (f : IntF)
  /-- Per-lane select by a predicate. (R104) -/
  | vsel (c : Cm) (d : VDst) (a : VSrc) (b : VSrc) (f : IntF)
  /-- Per-lane move. (R104) -/
  | vmov (c : Cm) (d : VDst) (a : VSrc) (f : IntF)
  /-- Per-lane bit operation. (R104) -/
  | vbit (c : Cm) (d : VDst) (a : VSrc) (f : IntF)
  /-- Per-lane bit-field extract. (R107) -/
  | vbfe (c : Cm) (d : VDst) (a : VSrc) (b : VSrc) (f : IntF)
  /-- Per-lane bit-field insert. (R107) -/
  | vbfi (c : Cm) (d : VDst) (a : VSrc) (b : VSrc) (e : VSrc) (f : IntF)
  /-- Per-lane add with carry in and carry out in a predicate. (R108) -/
  | vaddc (c : Cm) (d : VDst) (a : VSrc) (b : VSrc) (f : IntF)
  /-- Per-lane subtract with borrow in a predicate. (R108) -/
  | vsubb (c : Cm) (d : VDst) (a : VSrc) (b : VSrc) (f : IntF)
  /-- Per-lane four-byte dot product with accumulate. (R109) -/
  | vdp4 (c : Cm) (d : VDst) (a : VSrc) (b : VSrc) (e : VSrc) (f : IntF)
  /-- Per-lane two-half dot product with accumulate. (R109) -/
  | vdp2 (c : Cm) (d : VDst) (a : VSrc) (b : VSrc) (e : VSrc) (f : IntF)
  /-- Per-lane sum of absolute differences. (R109) -/
  | vsad (c : Cm) (d : VDst) (a : VSrc) (b : VSrc) (e : VSrc) (f : IntF)
  /-- Per-lane add of an immediate. (R111) -/
  | vaddi (c : Cm) (d : VReg) (a : VReg) (imm : W32) (f : ArithI)
  /-- Per-lane and with an immediate. (R111) -/
  | vandi (c : Cm) (d : VReg) (a : VReg) (imm : W32)
  /-- Per-lane or with an immediate. (R111) -/
  | vori (c : Cm) (d : VReg) (a : VReg) (imm : W32)
  /-- Per-lane xor with an immediate. (R111) -/
  | vxori (c : Cm) (d : VReg) (a : VReg) (imm : W32)
  /-- Per-lane shift left by an immediate. (R111) -/
  | vshli (c : Cm) (d : VReg) (a : VReg) (imm : W32)
  /-- Per-lane shift right by an immediate. (R111) -/
  | vshri (c : Cm) (d : VReg) (a : VReg) (imm : W32) (f : Bool)
  /-- Per-lane compare with an immediate. (R111) -/
  | vcmpi (c : Cm) (d : PReg) (a : VReg) (imm : W32) (f : CmpI)
  /-- Per-lane multiply by an immediate. (R111) -/
  | vmuli (c : Cm) (d : VReg) (a : VReg) (imm : W32) (f : ArithI)
  /-- Writes a 32-bit immediate to every lane of E. (R112) -/
  | vli (c : Cm) (d : VReg) (imm : W32)
  /-- FP32 add. (R117) -/
  | fadd (c : Cm) (d : VDst) (a : VSrc) (b : VSrc) (f : FpF)
  /-- FP32 subtract. (R117) -/
  | fsub (c : Cm) (d : VDst) (a : VSrc) (b : VSrc) (f : FpF)
  /-- FP32 multiply. (R117) -/
  | fmul (c : Cm) (d : VDst) (a : VSrc) (b : VSrc) (f : FpF)
  /-- FP32 fused multiply-add. (R117) -/
  | ffma (c : Cm) (d : VDst) (a : VSrc) (b : VSrc) (e : VSrc) (f : FpF)
  /-- FP32 minimum. (R74) -/
  | fmin (c : Cm) (d : VDst) (a : VSrc) (b : VSrc) (f : FpF)
  /-- FP32 maximum. (R74) -/
  | fmax (c : Cm) (d : VDst) (a : VSrc) (b : VSrc) (f : FpF)
  /-- FP32 compare written to a predicate. (R118) -/
  | fcmp (c : Cm) (a : VSrc) (b : VSrc) (f : FpF)
  /-- FP32 class test written to a predicate. (R119) -/
  | fcls (c : Cm) (a : VSrc) (b : VSrc) (f : FpF)
  /-- Rounds an FP32 value to an integral value. (R120) -/
  | frnd (c : Cm) (d : VDst) (a : VSrc) (f : FpF)
  /-- Correctly rounded FP32 square root on the slice's divide unit. (R76) -/
  | fsqrt (c : Cm) (d : VDst) (a : VSrc) (f : FpF)
  /-- Correctly rounded FP32 divide on the slice's divide unit. (R76) -/
  | fdiv (c : Cm) (d : VDst) (a : VSrc) (b : VSrc) (f : FpF)
  /-- Reduced-precision reciprocal. (R91) -/
  | frcp (c : Cm) (d : VDst) (a : VSrc) (f : FpF)
  /-- Reduced-precision reciprocal square root. (R91) -/
  | frsq (c : Cm) (d : VDst) (a : VSrc) (f : FpF)
  /-- Reduced-precision 2^x. (R91) -/
  | fex2 (c : Cm) (d : VDst) (a : VSrc) (f : FpF)
  /-- Reduced-precision log2. (R91) -/
  | flg2 (c : Cm) (d : VDst) (a : VSrc) (f : FpF)
  /-- Scales an FP32 value by 2^n. (R117) -/
  | fscl (c : Cm) (d : VDst) (a : VSrc) (b : VSrc) (f : FpF)
  /-- Packed FP16 or BF16 add. (R121) -/
  | hadd2 (c : Cm) (d : VDst) (a : VSrc) (b : VSrc) (f : PkF)
  /-- Packed multiply. (R121) -/
  | hmul2 (c : Cm) (d : VDst) (a : VSrc) (b : VSrc) (f : PkF)
  /-- Packed fused multiply-add. (R121) -/
  | hfma2 (c : Cm) (d : VDst) (a : VSrc) (b : VSrc) (e : VSrc) (f : PkF)
  /-- Packed minimum. (R121) -/
  | hmin2 (c : Cm) (d : VDst) (a : VSrc) (b : VSrc) (f : PkF)
  /-- Packed maximum. (R121) -/
  | hmax2 (c : Cm) (d : VDst) (a : VSrc) (b : VSrc) (f : PkF)
  /-- Packed compare giving a mask per half. (R121) -/
  | hcmp2 (c : Cm) (d : VDst) (a : VSrc) (b : VSrc) (f : PkF)
  /-- Packed two-term dot product accumulated into FP32 with one rounding. (R122) -/
  | hdot2 (c : Cm) (d : VDst) (a : VSrc) (b : VSrc) (e : VSrc) (f : PkF)
  /-- Converts one value per lane between float and integer types. (R124) -/
  | cvt (c : Cm) (d : VDst) (a : VSrc) (f : CvtF)
  /-- Converts FP32 values into narrow codes, optionally producing a BS20 block scale. (R126) -/
  | cvtn (c : Cm) (d : VDst) (a : VSrc) (b : VSrc) (sc : Option VDst) (f : CvtnF)
  /-- Packs two halves into one 32-bit word. (R128) -/
  | pack (c : Cm) (d : VDst) (a : VSrc) (b : VSrc) (f : PackF)
  /-- Gives each lane the value of a computed source lane of E, or its fallback value. (R130) -/
  | shfl (c : Cm) (d : VDst) (a : VSrc) (b : VSrc) (e : VSrc) (f : ShflF)
  /-- Reduces the lanes of E in a fixed tree and writes the result to every lane of E. (R132) -/
  | vred (c : Cm) (d : VDst) (a : VSrc) (f : RedF)
  /-- Inclusive or exclusive scan over the lanes. (R132) -/
  | vscan (c : Cm) (d : VDst) (a : VSrc) (f : RedF)
  /-- Predicate and. (R129) -/
  | pand (c : Cm) (d : PReg) (a : PReg) (b : PReg) (f : NotF)
  /-- Predicate or. (R129) -/
  | por (c : Cm) (d : PReg) (a : PReg) (b : PReg) (f : NotF)
  /-- Predicate xor. (R129) -/
  | pxor (c : Cm) (d : PReg) (a : PReg) (b : PReg) (f : NotF)
  /-- Predicate not. (R129) -/
  | pnot (c : Cm) (d : PReg) (a : PReg)
  /-- Moves between predicates, and between predicates and vectors. (R129) -/
  | pmov (c : Cm) (k : PmovK)
  /-- Copies one lane's value into a scalar. (R133) -/
  | v2s (c : Cm) (d : SReg) (a : VSrc) (b : Option SSrc)
  /-- Writes one lane of a vector register. (R134) -/
  | vins (c : Cm) (d : VDst) (a : VSrc) (b : SSrc)
  /-- Per-lane global load through L1, with an optional open. (R263) -/
  | ld (c : Cm) (d : VDst) (a : GAddr) (f : LdF) (off : BitVec 24)
  /-- Per-lane global store, with an optional close. (R264) -/
  | st (c : Cm) (d : VSrc) (a : GAddr) (f : LdF) (off : BitVec 24)
  /-- Per-lane scratchpad load. (R263) -/
  | lds (c : Cm) (d : VDst) (a : VSrc) (f : LdF) (off : BitVec 24)
  /-- Per-lane scratchpad store. (R264) -/
  | sts (c : Cm) (d : VSrc) (a : VSrc) (f : LdF) (off : BitVec 24)
  /-- Per-lane cluster-window load. (R263) -/
  | ldc (c : Cm) (d : VDst) (a : VSrc) (f : LdF) (off : BitVec 24)
  /-- Per-lane cluster-window store. (R264) -/
  | stc (c : Cm) (d : VSrc) (a : VSrc) (f : LdF) (off : BitVec 24)
  /-- Split-scalar load from global memory or scratchpad. (R265) -/
  | sld (c : Cm) (d : SReg) (a : SAddr) (f : LdF) (off : BitVec 24)
  /-- Split-scalar store to global memory or scratchpad. (R265) -/
  | sst (c : Cm) (d : SSrc) (a : SAddr) (f : LdF) (off : BitVec 24)
  /-- Prefetches a line into L1 or the home slice without faulting. (R266) -/
  | pf (c : Cm) (a : GAddr) (sl : Bool) (off : BitVec 24)
  /-- Sets SEAL on each distinct page at its home channel. (R301) -/
  | seal (c : Cm) (a : GAddr) (off : BitVec 24)
  /-- Closes the wave's stores, clears SEAL and has every L1 drop its sealed lines of the page. (R302) -/
  | unseal (c : Cm) (a : GAddr) (off : BitVec 24)
  /-- Per-lane atomic at the home slice, returning the old value. (R267) -/
  | atom (c : Cm) (d : VDst) (a : GAddr) (f : AtF) (off : BitVec 24)
  /-- Per-lane compare-and-swap. (R267) -/
  | acas (c : Cm) (d : VDst) (a : GAddr) (f : AtF) (off : BitVec 24)
  /-- Per-lane reduction without a return value. (R268) -/
  | red (c : Cm) (d : VSrc) (a : GAddr) (f : AtF) (off : BitVec 24)
  /-- Combines the lanes that target one address, then sends one reduction per address. (R268) -/
  | redb (c : Cm) (d : VSrc) (a : GAddr) (f : AtF) (off : BitVec 24)
  /-- Split-scalar atomic. (R271) -/
  | satom (c : Cm) (d : SReg) (a : SReg) (f : AtF) (off : BitVec 24)
  /-- Close and/or open at a scope. (R283) -/
  | phase (c : Cm) (scp : BitVec 3) (cls : Bool) (opn : Bool)
  /-- Reads a global word at its home slice and parks the split on a watch entry until a condition holds or a timeout expires. (R247) -/
  | wait (c : Cm) (pq : PReg) (d : SReg) (a : SReg) (b : SSrc) (t : SSrc) (cond : WCond) (opn : Bool)
  /-- Load performed at the home slice after the core's earlier accesses to that location. (R271) -/
  | lda (c : Cm) (d : VDst) (a : GAddr) (f : AtF) (off : BitVec 24)
  /-- Makes a slot a LANE slot with the given wave mask. (R229) -/
  | barInitLane (c : Cm) (a : SSrc) (b : SSrc)
  /-- Makes a slot a BYTE slot naming its producers. (R233) -/
  | barInitByte (c : Cm) (a : SSrc) (b : SSrc)
  /-- Makes a slot a CHUNK slot with an empty map. (R234) -/
  | barInitChunk (c : Cm) (a : SSrc)
  /-- Arrives the lanes of E at a LANE slot and returns the phase token. (R238) -/
  | barArrLane (c : Cm) (d : SReg) (a : SSrc)
  /-- Credits bytes to a producer of a slot in a block of the group, after the wave's scratchpad and window stores are performed. (R238) -/
  | barArrByte (c : Cm) (a : SSrc) (b : SSrc) (e : SSrc)
  /-- Waits until a slot's phase differs from the token. (R239) -/
  | barWait (c : Cm) (a : SSrc) (b : SSrc) (gl : Bool)
  /-- Arrives at a LANE slot and waits for that phase to end. (R239) -/
  | barSync (c : Cm) (a : SSrc) (gl : Bool)
  /-- Posts a producer's byte expectation on a BYTE slot. (R240) -/
  | barExp (c : Cm) (d : SReg) (a : SSrc) (b : SSrc) (e : SSrc)
  /-- Withdraws the lanes of E from every LANE and CLUSTER slot of the block. (R241) -/
  | barWd (c : Cm)
  /-- Reads a word of a slot's state. (R242) -/
  | barRd (c : Cm) (d : SReg) (a : SSrc) (b : SSrc)
  /-- Waits until the given bits of a chunk map are set. (R243) -/
  | cmapWait (c : Cm) (a : SSrc) (b : SPair)
  /-- Tests chunk-map bits into a predicate. (R243) -/
  | cmapTest (c : Cm) (pq : PReg) (a : SSrc) (b : SPair)
  /-- Clears chunk-map bits. (R243) -/
  | cmapClr (c : Cm) (a : SSrc) (b : SPair)
  /-- Arrives at a CLUSTER slot after WS and waits for the group's phase. (R239) -/
  | cbar (c : Cm) (a : SSrc) (gl : Bool)
  /-- Copies a tensor box from global memory into scratchpad. (R322) -/
  | cpTile (c : Cm) (rec : SReg) (crd : SReg) (spo : SSrc) (slot : SSrc)
  /-- cp.tile issued together with a following mx or mx.ldb that runs after the copy's last completion event. (R324) -/
  | cpTileThen (c : Cm) (rec : SReg) (crd : SReg) (spo : SSrc) (slot : SSrc)
  /-- Copies a tensor box from scratchpad into global memory. (R322) -/
  | cpTilest (c : Cm) (rec : SReg) (crd : SReg) (spo : SSrc) (slot : SSrc)
  /-- Gathers the masked rows of a box into packed scratchpad rows. (R322) -/
  | cpGat (c : Cm) (rec : SReg) (crd : SReg) (spo : SSrc) (slot : SSrc) (msk : SReg)
  /-- Scatters packed scratchpad rows to the masked rows of a box. (R322) -/
  | cpSca (c : Cm) (rec : SReg) (crd : SReg) (spo : SSrc) (slot : SSrc) (msk : SReg)
  /-- Copies a linear range in one of six directions. (R322) -/
  | cpLin (c : Cm) (dst : CpEnd) (src : CpEnd) (len : SSrc) (slot : SSrc) (dir : LinDir)
  /-- Closes the wave's stores and drops a record from every sluice's record cache. (R318) -/
  | recFence (c : Cm) (a : SReg)
  /-- Accepts a matrix multiply-accumulate into a tile. (R341) -/
  | mx (c : Cm) (t : BitVec 4) (fda : BitVec 3) (spa : SSrc) (m0 : BitVec 3) (mc : BitVec 2) (tag : BitVec 16) (tc : Bool) (z : Bool)
  /-- Accepts a load of a B block into a macro or macro pair. (R332) -/
  | mxLdb (c : Cm) (m : BitVec 3) (fdb : BitVec 3) (spb : SSrc) (tag : BitVec 16)
  /-- Zeroes a tile. (R342) -/
  | mxZero (c : Cm) (t : BitVec 4)
  /-- Reads a committed tile row into two vector registers. (R343) -/
  | mxRd (c : Cm) (d : VDst) (t : BitVec 4) (row : SSrc)
  /-- Writes a tile row from two vector registers. (R343) -/
  | mxWr (c : Cm) (t : BitVec 4) (row : SSrc) (a : VDst)
  /-- Accepts a store of the committed tile to scratchpad with conversion. (R344) -/
  | mxSt (c : Cm) (t : BitVec 4) (spd : SSrc) (str : SSrc) (sco : Option SSrc) (cv : MxCv) (rnd : Rnd)
  /-- Closes the open batch and returns its number. (R339) -/
  | mxBatch (c : Cm) (d : SReg)
  /-- Waits for a batch and every batch closed before it. (R339) -/
  | mxWait (c : Cm) (n : BitVec 5)
  /-- Checks and loads a format descriptor register. (R329) -/
  | fdl (c : Cm) (n : BitVec 3) (a : SPair)
  /-- Reads tile, macro or batch state. (R345) -/
  | mxStat (c : Cm) (d : SReg) (sel : BitVec 8)
  /-- Closes the wave's stores, reads and checks a launch record, and appends it to its queue. (R179) -/
  | klaunch (c : Cm) (d : SReg) (a : SReg)
  /-- Records an idempotent region entry when the split holds every live lane. (R348) -/
  | rgn (c : Cm) (q : PReg)
  /-- Folds one value per lane into the checksum pair. (R350) -/
  | ckacc (c : Cm) (a : VSrc)
  /-- Clears the checksum pair and CKP. (R350) -/
  | ckaccClr (c : Cm)
  /-- Compares the checksum with an expected value, then restarts or traps on mismatch. (R351) -/
  | chk (c : Cm) (a : SPair) (rst : Bool)
  /-- Asks the context's channels to bank refreshes ahead for a window. (R379) -/
  | memhintCompute (c : Cm) (a : SSrc)
  /-- Drops the translations and lines of one page and waits for accesses that used them. (R304) -/
  | pgInvalPage (c : Cm) (d : SReg) (a : SPair) (b : SSrc)
  /-- Drops the translations and lines of every page of an ASID. (R304) -/
  | pgInvalAsid (c : Cm) (d : SReg) (b : SSrc)
  /-- Drops every translation and line. (R304) -/
  | pgInvalAll (c : Cm) (d : SReg)
  /-- CREATE: reads and checks a context record, installs the key and loads the stripe map. (R141) -/
  | psyswCreate (c : Cm) (d : SReg) (a : SSrc) (b : SPair)
  /-- PREEMPT: stops dispatch, sets PREQ and starts the deadline counts. (R153) -/
  | psyswPreempt (c : Cm) (d : SReg) (a : SSrc) (b : SPair)
  /-- RESTORE: places the core images back, opens, re-arms watches and re-injects replay queues. (R157) -/
  | psyswRestore (c : Cm) (d : SReg) (a : SSrc) (b : SPair)
  /-- DESTROY: aborts the kernels, stops and drains the context's waves. (R141) -/
  | psyswDestroy (c : Cm) (d : SReg) (a : SSrc) (b : SPair)
  /-- SETDL: reads DEADLINE into the device's copy. (R141) -/
  | psyswSetdl (c : Cm) (d : SReg) (a : SSrc) (b : SPair)
  /-- OPEN: reads a queue record and opens the queue. (R167) -/
  | qctlOpen (c : Cm) (d : SReg) (a : SSrc) (b : SPair)
  /-- PAUSE: starts no further kernel of the queue. (R167) -/
  | qctlPause (c : Cm) (d : SReg) (a : SSrc) (b : SPair)
  /-- RESUME: returns a PAUSED or FAULTED queue to OPEN. (R167) -/
  | qctlResume (c : Cm) (d : SReg) (a : SSrc) (b : SPair)
  /-- DRAIN: accepts no further launch. (R167) -/
  | qctlDrain (c : Cm) (d : SReg) (a : SSrc) (b : SPair)
  /-- FLUSH: aborts every pending or ready launch. (R167) -/
  | qctlFlush (c : Cm) (d : SReg) (a : SSrc) (b : SPair)
  /-- Event: A split enters a clause; its header is checked and its waits are evaluated. (R36) -/
  | clauseEntry (u : SplitRef)
  /-- Event: A split held by header waits becomes able to issue once they are satisfied. (R38) -/
  | clauseWaitRelease (u : SplitRef)
  /-- Event: A header or word cannot be fetched, and the split leaves as a CAP 0 fragment. (R39) -/
  | codeFetchFault (u : SplitRef)
  /-- Event: A settled split resumes once the results it waits for are written. (R43) -/
  | settleRelease (u : SplitRef)
  /-- Event: A variable-latency register result arrives from outside the slice and is written. (R42) -/
  | variableResultWrite (o : Nat)
  /-- Event: The last line status of an instruction returns; the fault mask is merged and the faulted lanes are parked. (R298) -/
  | accessStatusReturn (o : Nat)
  /-- Event: The back-off wait expires and the split re-issues the faulting instruction. (R152) -/
  | backoffRetry (u : SplitRef)
  /-- Event: After the drain, the trap frame is written and the handler starts. (R146) -/
  | handlerEntry (w : WaveRef)
  /-- Event: A resumed split opens and replays its faulted instruction. (R220) -/
  | fragmentReplay (u : SplitRef)
  /-- Event: A wave's exit close completes and its slot and registers are freed. (R187) -/
  | exitCloseComplete (w : WaveRef)
  /-- Event: A block retires and the central retire counter counts it. (R181) -/
  | blockRetire (b : Nat)
  /-- Event: The signal word is performed or its write is dropped. (R183) -/
  | kernelSignalPerformed (k : Nat)
  /-- Event: The completion word is sent to the host as an RDMA WRITE. (R367) -/
  | hostCompletionSend (k : Nat)
  /-- Event: The host acknowledges the completion WRITE and the kernel reaches DONE. (R367) -/
  | hostCompletionAck (k : Nat)
  /-- Event: A completion send held by a DOWN port for more than 1 s is dropped. (R367) -/
  | hostSendTimeout (k : Nat)
  /-- Event: A RoCEv2 SEND carrying a launch message arrives. (R366) -/
  | launchMessage (q : Nat) (m : SendMsg) (poison : Bool)
  /-- Event: A watch wake meets a launch dependence; the head may become READY. (R171) -/
  | dependenceWake (q : Nat) (d : Nat)
  /-- Event: A signal word is read again after 1 µs. (R171) -/
  | dependencePoll (q : Nat)
  /-- Event: The queue engine moves one READY head to DISPATCHING. (R172) -/
  | kernelSelect
  /-- Event: The scheduler offers the next block group to the dies of the set. (R177) -/
  | groupHandout
  /-- Event: PEND, ACCEPTED and REJECTS are written at least every 100 µs. (R166) -/
  | queueStatusRefresh (q : Nat)
  /-- Event: A DRAINING queue with nothing left reaches CLOSED. (R167) -/
  | queueDrainComplete (q : Nat)
  /-- Event: A block that comes to rest is saved. (R154) -/
  | blockRestSave (b : Nat)
  /-- Event: A core's deadline count expires and the core forces a save. (R155) -/
  | preemptDeadlineExpiry (asid : Nat)
  /-- Event: Every core image is written and closed; the context is SAVED, or DEAD on a save-area fault. (R141) -/
  | contextSaved (asid : Nat)
  /-- Event: A DRAINING context has no wave or operation left and becomes FREE. (R141) -/
  | contextDrainComplete (asid : Nat)
  /-- Event: A split in WAIT_BAR becomes RUNNABLE after its phase ends. (R236) -/
  | barWake (u : SplitRef)
  /-- Event: A byte credit reaches a slot and the BYTE completion check runs. (R232) -/
  | byteCredit (m : Nat)
  /-- Event: A peer block's phase signal reaches a CLUSTER slot. (R235) -/
  | clusterSignal (m : Nat)
  /-- Event: A copy chunk lands in scratchpad and its completion event is delivered. (R234) -/
  | chunkLand (cp : Nat) (n : Nat)
  /-- Event: A wake reaches the waiting split. (R247) -/
  | watchWake (u : SplitRef)
  /-- Event: A wait's timeout expires and the word is read again. (R247) -/
  | waitTimeout (u : SplitRef)
  /-- Event: A polling wait reads the word every 1024 cycles. (R249) -/
  | watchPoll (u : SplitRef)
  /-- Event: A sleeping split returns to RUNNABLE. (R199) -/
  | sleepExpiry (u : SplitRef)
  /-- Event: A store, or a copy or peer write, is performed at its home slice. (R254) -/
  | homeSliceStore (o : Nat) (line : Nat)
  /-- Event: The bank ALU performs an atomic or reduction in arrival order. (R269) -/
  | homeSliceAtomic (o : Nat) (line : Nat)
  /-- Event: A load miss is served at the home slice, with a walk and HBM read if needed. (R253) -/
  | lineFill (o : Nat) (line : Nat) (ecc : Nat)
  /-- Event: The last acknowledgment of a close arrives. (R279) -/
  | closeComplete (o : Nat)
  /-- Event: Earlier loads are satisfied; the open invalidates non-sealed L1 lines of the context. (R280) -/
  | openBegin (o : Nat)
  /-- Event: Every L1 has dropped its sealed lines and the unseal completes. (R302) -/
  | unsealComplete (o : Nat)
  /-- Event: Every access that used a dropped entry is done, and the status is written. (R304) -/
  | pgInvalComplete (o : Nat)
  /-- Event: The sluice takes a QUEUED command into ACTIVE and returns its credit. (R311) -/
  | copyStart (cp : Nat)
  /-- Event: A copy access returns; on 0x101 the copy stalls, on another cause it fails. (R322) -/
  | copyAccessReply (cp : Nat) (n : Nat)
  /-- Event: A STALLED copy resumes after a covering pg.inval and a free ACTIVE place. (R325) -/
  | copyRelease (cp : Nat)
  /-- Event: The last access is performed, the global writes are closed, COUNT is written and the event is delivered. (R323) -/
  | copyComplete (cp : Nat)
  /-- Event: An accepted mx starts once its macros and tile order allow. (R334) -/
  | mxStart (o : Nat)
  /-- Event: An mx replaces the committed tile with its shadow. (R335) -/
  | mxCommit (o : Nat)
  /-- Event: A waiting macro load starts and the macro becomes LOADING. (R331) -/
  | mxLdbStart (o : Nat)
  /-- Event: A macro load completes and the macro is READY. (R331) -/
  | mxLdbComplete (o : Nat)
  /-- Event: An mx.st finishes writing its rows into scratchpad. (R344) -/
  | mxStFinish (o : Nat)
  /-- Event: The second entry of a key arrives at the compare buffer and is matched. (R353) -/
  | twinCompare (o : Nat)
  /-- Event: Every 1 ms the eye monitor measures and predicts lane margins. (R358) -/
  | eyeMeasure (l : LinkRef) (low : Bool)
  /-- Event: A link returns to service after a rate step or lane repair, and retries its flits. (R359) -/
  | linkReturn (l : LinkRef)
  /-- Event: A lane fails; it is repaired from a spare or the link goes DOWN. (R359) -/
  | laneFail (l : LinkRef) (tx : Bool)
  /-- Event: Sixteen successive retries of one flit fail and the link goes DOWN. (R360) -/
  | flitRetryExhausted (l : LinkRef)
  /-- Event: Training ends ACTIVE, STEPPED or DOWN. (R360) -/
  | linkTrainDone (l : LinkRef) (rate : Option LinkRate)
  /-- Event: A frame arrives on a port and is dropped without a valid SecTAG. (R363) -/
  | ethFrameReceive (port : Nat) (secure : Bool) (eapol : Bool)
  /-- Event: A connection request to an endpoint arrives with its completion window. (R364) -/
  | roceConnectRequest (port : Nat) (qpn : Nat) (psn : Nat) (priv : List Byte)
  /-- Event: A peer WRITE is performed at the home slices and acknowledged in PSN order. (R365) -/
  | rdmaWrite (qpn : Nat) (psn : Nat) (va : W64) (data : List Byte)
  /-- Event: A peer READ is satisfied at the home slice. (R365) -/
  | rdmaRead (qpn : Nat) (psn : Nat) (va : W64) (n : Nat)
  /-- Event: A peer Fetch-and-Add is performed as atom.add.b64. (R365) -/
  | fetchAndAdd (qpn : Nat) (psn : Nat) (va : W64) (v : W64)
  /-- Event: A peer Compare-and-Swap is performed as acas.b64. (R365) -/
  | compareAndSwap (qpn : Nat) (psn : Nat) (va : W64) (cmp : W64) (v : W64)
  /-- Event: An unsupported RoCEv2 operation is answered with Invalid Request NAK. (R364) -/
  | invalidRequestOp (qpn : Nat)
  /-- Event: FENCE: raises the levee on a die, abandons its groups and stops issue. (R369) -/
  | fence
  /-- Event: RESET: warm reset of a QUIESCED die. (R369) -/
  | reset
  /-- Event: POWEROFF: turns off a QUIESCED die. (R369) -/
  | poweroff
  /-- Event: ADMIT: powers on an OFF or FAILED die. (R369) -/
  | admitDie
  /-- Event: TAKEOVER: a spare takes the logical id of a FAILED or OFF die. (R369) -/
  | takeover
  /-- Event: RETIRE: starts retirement of a channel, or supplies a new frame pool. (R372) -/
  | retire
  /-- Event: GETKEY: writes the device public key. (R380) -/
  | getkey
  /-- Event: READMIT: clears, tests and returns a RETIRED channel. (R375) -/
  | readmit
  /-- Event: An uncorrectable logic error or thermal excess fences a compute die. (R369) -/
  | dieErrorFence (die : Nat)
  /-- Event: A fencing die's operations are performed and its links quiesced; it goes to QUIESCED, or to FAILED. (R369) -/
  | fencingQuiesced (ch : Nat)
  /-- Event: Training and self-test finish, and the die is ACTIVE or FAILED. (R369) -/
  | dieAdmitResult (ch : Nat) (pass : Bool)
  /-- Event: A warm reset completes and the die begins ADMITTING. (R369) -/
  | dieResetComplete (ch : Nat)
  /-- Event: A fault in a cache die starts the retirement of its channels. (R371) -/
  | cacheDieFault (n : Nat)
  /-- Event: A fault in I/O die 1 fences it. (R371) -/
  | ioDie1Fault
  /-- Event: A unit of I/O die 0 fails: handover to a mirror, port DOWN, or package reset. (R371) -/
  | ioDie0UnitFault (unit : IoUnit)
  /-- Event: Cold reset of a chiplet initialises its fields. (R8) -/
  | coldReset
  /-- Event: A row exceeds 64 corrected errors in an hour and its channel enters RETIRING. (R372) -/
  | channelAutoRetire (ch : Nat)
  /-- Event: The migration engine moves the next affected page and advances BP. (R373) -/
  | pageMove (n : Nat)
  /-- Event: GEN is written to each context's capacity signal word, at most once per 100 µs. (R376) -/
  | capsigWrite
  /-- Event: CLKMHZ is refreshed every millisecond. (R376) -/
  | clkmhzRefresh
  /-- Event: Every 8 µs the arbiter grants core-rail current shares. (R378) -/
  | arbiterGrant (demand : List Nat)
  /-- Event: A die steps its clock by 25 MHz each microsecond according to its grant. (R378) -/
  | clockStep (ch : Nat) (draw : Nat)
  /-- Event: Grants stop for 16 µs and the mirror on I/O die 1 takes over. (R378) -/
  | arbiterTakeover
  /-- Event: An Ethernet port loses its link and enters DOWN, which affects the connections made through it. (R363) -/
  | ethPortDown (port : Nat)
  /-- Event: An Ethernet port completes TRAINING and becomes ACTIVE. (R363) -/
  | ethPortActive (port : Nat)
  /-- Event: An HBM4 refresh interval falls due at a channel controller, which issues, banks ahead or defers a refresh according to any memhint window. (R379) -/
  | hbmRefresh (ch : Nat)
deriving DecidableEq, Repr

end Sys2Proof
end

