-- ==== Sys2Proof/WellFormed.lean ====
section
/-! DEFINITION. Which instructions are well formed: those that some word (or pair of words) encodes. -/

namespace Sys2Proof

/-- Constant codes 0x00 to 0x57 exist (R51). -/
def constOk (k : BitVec 8) : Bool := decide (k.toNat < 0x58)
/-- A scalar pair is named by its even register (R49). -/
def evenReg (n : SReg) : Bool := n.getLsbD 0 == false

def VSrc.wf : VSrc → Bool
  | .const k => constOk k
  | _ => true

/-- A vector source that does not allow constants (Table 10.3). -/
def VSrc.wfReg : VSrc → Bool
  | .const _ => false
  | _ => true

/-- A vector source holding one element of a size (R260). -/
def VSrc.wfData (v : VSrc) (z : Sz) : Bool :=
  match z, v with
  | .b64, .sc n => evenReg n
  | .b128, .sc _ => false
  | .b128, .const _ => false
  | _, v => v.wf

def SSrc.wf : SSrc → Bool
  | .const k => constOk k
  | .reg _ => true

/-- A scalar source of 32 or 64 bits (R260). -/
def SSrc.wfSized (v : SSrc) (w64 : Bool) : Bool :=
  match v with
  | .const k => constOk k
  | .reg n => !w64 || evenReg n

def SPair.wf : SPair → Bool
  | .const k => constOk k
  | .reg n => evenReg n

def GAddr.wf : GAddr → Bool
  | .vec _ => true
  | .sc n => evenReg n

def SAddr.wf (a : SAddr) (spad : Bool) : Bool :=
  match a with
  | .glob n => !spad && evenReg n
  | .spad s => spad && s.wf

def CpEnd.wf (e : CpEnd) (glob : Bool) : Bool :=
  match e with
  | .glob n => glob && evenReg n
  | .off s => !glob && s.wf

def optSWf : Option SSrc → Bool
  | none => true
  | some s => s.wf

def IntF.plain (f : IntF) : Bool := f.pq == 0
def IntF.isB (f : IntF) : Bool := f.ty == .b
def ArithI.ok (f : ArithI) : Bool := !f.sat || f.ty != .b
def FpF.plain (f : FpF) : Bool := f.pq == 0 && f.var == 0

def CvtTy.isInt : CvtTy → Bool
  | .s32 | .n32 | .s16 | .n16 => true
  | _ => false
def CvtTy.is32 : CvtTy → Bool
  | .f32 | .s32 | .n32 => true
  | _ => false

/-- The combinations of R123. -/
def CvtF.ok (f : CvtF) : Bool :=
  f.st != f.dt && !(f.sh && f.st.is32) && !(f.sat && !f.st.isInt && f.dt.isInt)
    && (!(f.st.isInt && f.dt.isInt) || f.rnd == .rn)

def NFmt.is4 : NFmt → Bool
  | .e2m1 | .i4 => true
  | _ => false

def CvtnF.ok (f : CvtnF) : Bool := f.fmt.is4 || decide (f.q.toNat ≤ 1)

def PackF.ok (f : PackF) : Bool :=
  (decide (f.var.toNat ≤ 1) && !f.hb && !f.ha) || (f.var == 2 && !f.sat && f.rnd == .rn)

def ShflF.ok (f : ShflF) : Bool := decide (f.m.toNat ≤ 4)

/-- The combinations of R131. -/
def RedF.ok (f : RedF) : Bool :=
  (match f.ty with
   | .b => decide (3 ≤ f.opr.toNat ∧ f.opr.toNat ≤ 5)
   | _ => decide (f.opr.toNat ≤ 2)) && (f.rnd == .rn || (f.ty == .f && f.opr == 0))

def PmovK.wf : PmovK → Bool
  | .set _ a => a.wf
  | .nz _ a => a.wf
  | _ => true

def SysReg.writable : SysReg → Bool
  | .splOvf | .nanDrop | .xidx0 | .xidx1 | .xidx2 | .xidx3 => true
  | _ => false

def Sz.storeOk : Sz → Bool
  | .s8 | .s16 => false
  | _ => true

def LdF.scpOk (f : LdF) : Bool := decide (f.scp.toNat ≤ 5)

/-- Operations that Table 12.5 allows for the width. -/
def AtF.oprOk (f : AtF) : Bool := !f.w64 || decide (f.opr.toNat ≤ 8)
/-- Operations that redb allows (Table 12.6). -/
def AtF.combinable (f : AtF) : Bool := decide (f.opr.toNat ≤ 7) || decide (11 ≤ f.opr.toNat)

/-- Scopes 1 to 5 (Table 13.1). -/
def scopeOk (s : BitVec 3) : Bool := decide (1 ≤ s.toNat ∧ s.toNat ≤ 5)

/-- Directions whose destination is global (Table 15.3). -/
def LinDir.dstGlobal : LinDir → Bool
  | .sg | .gg => true
  | _ => false
/-- Directions whose source is global (Table 15.3). -/
def LinDir.srcGlobal : LinDir → Bool
  | .gs | .gg | .gc => true
  | _ => false

/-- A well-formed instruction is one that words of the spec's encoding tables stand for. Events have no words and are
all well formed. -/
def Instr.wf : Instr → Bool
  | .nop _ => true
  | .bra _ _ _ => true
  | .brm _ pairs _ => decide (1 ≤ pairs.length) && decide (pairs.length ≤ 4)
  | .brx _ a _ => a.wfReg
  | .call _ _ _ => true
  | .callx _ _ a => a.wfReg
  | .ret _ a => a.wfReg
  | .exit _ => true
  | .wsync _ => true
  | .yield _ _ _ => true
  | .sleep _ a => a.wf
  | .elect _ _ => true
  | .vote _ _ _ => true
  | .trap _ _ => true
  | .brk _ _ => true
  | .tret c => c.pg == 7 && !c.pn
  | .splInfo _ _ sel => decide (sel.toNat ≤ 12)
  | .fragList _ d a _ => evenReg d && a.wf
  | .fragRead _ d a b => evenReg d && a.wf && b.wf
  | .fragResume _ _ a => a.wf
  | .fragKill _ _ a => a.wf
  | .fragPatch _ _ a b e => a.wf && b.wf && e.wf
  | .sread _ _ _ => true
  | .swrite _ a sys => a.wf && sys.writable
  | .capRd _ _ a => a.wf
  | .vread _ _ _ => true
  | .sadd _ _ a b f => f.plain && f.var == 0 && (!f.sat || f.ty != .b) && a.wf && b.wf
  | .ssub _ _ a b f => f.plain && f.var == 0 && (!f.sat || f.ty != .b) && a.wf && b.wf
  | .smul _ _ a b f => f.plain && ((f.var == 0 && (!f.sat || f.ty != .b)) || (f.var == 1 && !f.sat && f.ty != .b)) && a.wf && b.wf
  | .smad _ _ a b e f => f.plain && f.var == 0 && (!f.sat || f.ty != .b) && a.wf && b.wf && e.wf
  | .sand _ _ a b f => f.plain && f.isB && !f.sat && decide (f.var.toNat ≤ 1) && a.wf && b.wf
  | .sor _ _ a b f => f.plain && f.isB && !f.sat && decide (f.var.toNat ≤ 1) && a.wf && b.wf
  | .sxor _ _ a b f => f.plain && f.isB && !f.sat && decide (f.var.toNat ≤ 1) && a.wf && b.wf
  | .sshl _ _ a b f => f.plain && f.isB && !f.sat && f.var == 0 && a.wf && b.wf
  | .sshr _ _ a b f => f.plain && !f.sat && f.var == 0 && a.wf && b.wf
  | .smin _ _ a b f => f.plain && !f.isB && !f.sat && f.var == 0 && a.wf && b.wf
  | .smax _ _ a b f => f.plain && !f.isB && !f.sat && f.var == 0 && a.wf && b.wf
  | .scmp _ a b f => !f.sat && ((!f.isB && decide (f.var.toNat ≤ 5)) || (f.isB && decide (f.var.toNat ≤ 1))) && a.wf && b.wf
  | .ssel _ _ a b e f => f.plain && f.isB && !f.sat && f.var == 0 && a.wf && b.wf && e.wf
  | .smov _ _ a f => f.plain && f.isB && !f.sat && f.var == 0 && a.wf
  | .sbit _ _ a f => f.plain && f.isB && !f.sat && decide (f.var.toNat ≤ 4) && a.wf
  | .sdiv _ _ a b f => f.plain && !f.isB && !f.sat && decide (f.var.toNat ≤ 1) && a.wf && b.wf
  | .sli _ _ _ => true
  | .saddi _ _ _ _ f => f.ok
  | .sandi _ _ _ _ => true
  | .sori _ _ _ _ => true
  | .sxori _ _ _ _ => true
  | .sshli _ _ _ _ => true
  | .sshri _ _ _ _ _ => true
  | .scmpi _ _ _ _ _ => true
  | .smuli _ _ _ _ f => f.ok
  | .sadd64 _ d a b f => f.plain && f.isB && !f.sat && f.var == 0 && evenReg d && a.wf && b.wf
  | .ssub64 _ d a b f => f.plain && f.isB && !f.sat && f.var == 0 && evenReg d && a.wf && b.wf
  | .sla _ d a b f => f.plain && !f.isB && !f.sat && evenReg d && a.wf && b.wf
  | .vadd _ _ a b f => f.plain && f.var == 0 && (!f.sat || f.ty != .b) && a.wf && b.wf
  | .vsub _ _ a b f => f.plain && f.var == 0 && (!f.sat || f.ty != .b) && a.wf && b.wf
  | .vmul _ _ a b f => f.plain && ((f.var == 0 && (!f.sat || f.ty != .b)) || (f.var == 1 && !f.sat && f.ty != .b)) && a.wf && b.wf
  | .vmad _ _ a b e f => f.plain && f.var == 0 && (!f.sat || f.ty != .b) && a.wf && b.wf && e.wf
  | .vand _ _ a b f => f.plain && f.isB && !f.sat && decide (f.var.toNat ≤ 1) && a.wf && b.wf
  | .vor _ _ a b f => f.plain && f.isB && !f.sat && decide (f.var.toNat ≤ 1) && a.wf && b.wf
  | .vxor _ _ a b f => f.plain && f.isB && !f.sat && decide (f.var.toNat ≤ 1) && a.wf && b.wf
  | .vshl _ _ a b f => f.plain && f.isB && !f.sat && f.var == 0 && a.wf && b.wf
  | .vshr _ _ a b f => f.plain && !f.sat && f.var == 0 && a.wf && b.wf
  | .vmin _ _ a b f => f.plain && !f.isB && !f.sat && f.var == 0 && a.wf && b.wf
  | .vmax _ _ a b f => f.plain && !f.isB && !f.sat && f.var == 0 && a.wf && b.wf
  | .vabs _ _ a f => f.plain && f.ty == .s && f.var == 0 && a.wf
  | .vcmp _ a b f => !f.sat && ((!f.isB && decide (f.var.toNat ≤ 5)) || (f.isB && decide (f.var.toNat ≤ 1))) && a.wf && b.wf
  | .vsel _ _ a b f => f.isB && !f.sat && f.var == 0 && a.wf && b.wf
  | .vmov _ _ a f => f.plain && f.isB && !f.sat && f.var == 0 && a.wf
  | .vbit _ _ a f => f.plain && f.isB && !f.sat && decide (f.var.toNat ≤ 4) && a.wf
  | .vbfe _ _ a b f => f.plain && !f.isB && !f.sat && f.var == 0 && a.wf && b.wf
  | .vbfi _ _ a b e f => f.plain && f.isB && !f.sat && f.var == 0 && a.wf && b.wf && e.wf
  | .vaddc _ _ a b f => f.isB && !f.sat && decide (f.var.toNat ≤ 1) && a.wf && b.wf
  | .vsubb _ _ a b f => f.isB && !f.sat && decide (f.var.toNat ≤ 1) && a.wf && b.wf
  | .vdp4 _ _ a b e f => f.plain && f.ty != .n && decide (f.var.toNat ≤ 3) && (!f.sat || f.ty == .s) && a.wf && b.wf && e.wf
  | .vdp2 _ _ a b e f => f.plain && f.ty != .n && decide (f.var.toNat ≤ 3) && (!f.sat || f.ty == .s) && a.wf && b.wf && e.wf
  | .vsad _ _ a b e f => f.plain && f.isB && !f.sat && decide (f.var.toNat ≤ 1) && a.wf && b.wf && e.wf
  | .vaddi _ _ _ _ f => f.ok
  | .vandi _ _ _ _ => true
  | .vori _ _ _ _ => true
  | .vxori _ _ _ _ => true
  | .vshli _ _ _ _ => true
  | .vshri _ _ _ _ _ => true
  | .vcmpi _ _ _ _ _ => true
  | .vmuli _ _ _ _ f => f.ok
  | .vli _ _ _ => true
  | .fadd _ _ a b f => f.plain && a.wf && b.wf
  | .fsub _ _ a b f => f.plain && a.wf && b.wf
  | .fmul _ _ a b f => f.plain && a.wf && b.wf
  | .ffma _ _ a b e f => f.plain && a.wf && b.wf && e.wf
  | .fmin _ _ a b f => f.plain && !f.sat && f.rnd == .rn && a.wf && b.wf
  | .fmax _ _ a b f => f.plain && !f.sat && f.rnd == .rn && a.wf && b.wf
  | .fcmp _ a b f => !f.sat && f.rnd == .rn && a.wf && b.wf
  | .fcls _ a b f => f.var == 0 && !f.sat && f.rnd == .rn && a.wf && b.wf
  | .frnd _ _ a f => f.plain && !f.sat && a.wf
  | .fsqrt _ _ a f => f.plain && a.wf
  | .fdiv _ _ a b f => f.plain && a.wf && b.wf
  | .frcp _ _ a f => f.plain && !f.sat && f.rnd == .rn && a.wf
  | .frsq _ _ a f => f.plain && !f.sat && f.rnd == .rn && a.wf
  | .fex2 _ _ a f => f.plain && !f.sat && f.rnd == .rn && a.wf
  | .flg2 _ _ a f => f.plain && !f.sat && f.rnd == .rn && a.wf
  | .fscl _ _ a b f => f.plain && a.wf && b.wf
  | .hadd2 _ _ a b f => f.var == 0 && a.wf && b.wf
  | .hmul2 _ _ a b f => f.var == 0 && a.wf && b.wf
  | .hfma2 _ _ a b e f => f.var == 0 && a.wf && b.wf && e.wf
  | .hmin2 _ _ a b f => f.var == 0 && !f.sat && f.rnd == .rn && a.wf && b.wf
  | .hmax2 _ _ a b f => f.var == 0 && !f.sat && f.rnd == .rn && a.wf && b.wf
  | .hcmp2 _ _ a b f => !f.sat && f.rnd == .rn && a.wf && b.wf
  | .hdot2 _ _ a b e f => f.var == 0 && !f.sat && a.wf && b.wf && e.wf
  | .cvt _ _ a f => f.ok && a.wf
  | .cvtn _ _ a b _ f => a.wf && b.wf && f.ok
  | .pack _ _ a b f => f.ok && a.wf && b.wf
  | .shfl _ _ a b e f => f.ok && a.wf && b.wf && e.wf
  | .vred _ _ a f => f.ok && !f.excl && a.wf
  | .vscan _ _ a f => f.ok && a.wf
  | .pand _ _ _ _ _ => true
  | .por _ _ _ _ _ => true
  | .pxor _ _ _ _ _ => true
  | .pnot _ _ _ => true
  | .pmov _ k => k.wf
  | .v2s _ _ a b => a.wf && optSWf b
  | .vins _ _ a b => a.wf && b.wf
  | .ld _ _ a f _ => f.scpOk && a.wf
  | .st _ d a f _ => f.scpOk && f.sz.storeOk && d.wfData f.sz && a.wf
  | .lds _ _ a f _ => f.scp == 0 && !f.spc && a.wf
  | .sts _ d a f _ => f.scp == 0 && !f.spc && f.sz.storeOk && d.wfData f.sz && a.wf
  | .ldc _ _ a f _ => f.scpOk && !f.spc && a.wf
  | .stc _ d a f _ => f.scpOk && !f.spc && f.sz.storeOk && d.wfData f.sz && a.wf
  | .sld _ d a f _ => f.scpOk && f.sz != .b128 && (!f.spc || f.scp == 0) && (f.sz != .b64 || evenReg d) && a.wf f.spc
  | .sst _ d a f _ => f.scpOk && f.sz.storeOk && f.sz != .b128 && (!f.spc || f.scp == 0) && d.wfSized (f.sz == .b64) && a.wf f.spc
  | .pf _ a _ _ => a.wf
  | .seal _ a _ => a.wf
  | .unseal _ a _ => a.wf
  | .atom _ _ a f _ => f.oprOk && a.wf
  | .acas _ _ a f _ => f.opr == 0 && a.wf
  | .red _ d a f _ => f.oprOk && !f.opn && d.wfData (if f.w64 then .b64 else .b32) && a.wf
  | .redb _ d a f _ => f.oprOk && f.combinable && !f.opn && d.wfData (if f.w64 then .b64 else .b32) && a.wf
  | .satom _ d a f _ => f.oprOk && (!f.w64 || evenReg d) && evenReg a
  | .phase _ scp cls opn => scopeOk scp && (cls || opn)
  | .wait _ _ _ a b t _ _ => evenReg a && b.wf && t.wf
  | .lda _ _ a f _ => f.opr == 0 && !f.cls && a.wf
  | .barInitLane _ a b => a.wf && b.wf
  | .barInitByte _ a b => a.wf && b.wf
  | .barInitChunk _ a => a.wf
  | .barArrLane _ _ a => a.wf
  | .barArrByte _ a b e => a.wf && b.wf && e.wf
  | .barWait _ a b _ => a.wf && b.wf
  | .barSync _ a _ => a.wf
  | .barExp _ _ a b e => a.wf && b.wf && e.wf
  | .barWd _ => true
  | .barRd _ _ a b => a.wf && b.wf
  | .cmapWait _ a b => a.wf && b.wf
  | .cmapTest _ _ a b => a.wf && b.wf
  | .cmapClr _ a b => a.wf && b.wf
  | .cbar _ a _ => a.wf
  | .cpTile _ rec crd spo slot => evenReg rec && decide (crd.toNat ≤ 59) && spo.wf && slot.wf
  | .cpTileThen _ rec crd spo slot => evenReg rec && decide (crd.toNat ≤ 59) && spo.wf && slot.wf
  | .cpTilest _ rec crd spo slot => evenReg rec && decide (crd.toNat ≤ 59) && spo.wf && slot.wf
  | .cpGat _ rec crd spo slot msk => evenReg rec && decide (crd.toNat ≤ 59) && spo.wf && slot.wf && evenReg msk
  | .cpSca _ rec crd spo slot msk => evenReg rec && decide (crd.toNat ≤ 59) && spo.wf && slot.wf && evenReg msk
  | .cpLin _ dst src len slot dir => dst.wf dir.dstGlobal && src.wf dir.srcGlobal && len.wf && slot.wf
  | .recFence _ a => evenReg a
  | .mx _ _ _ spa _ _ _ _ _ => spa.wf
  | .mxLdb _ _ _ spb _ => spb.wf
  | .mxZero _ _ => true
  | .mxRd _ _ _ row => row.wf
  | .mxWr _ _ row _ => row.wf
  | .mxSt _ _ spd str sco cv rnd => spd.wf && str.wf && optSWf sco && (!sco.isSome || cv == .e4m3) && (rnd == .rn || cv != .f32)
  | .mxBatch _ _ => true
  | .mxWait _ _ => true
  | .fdl _ _ a => a.wf
  | .mxStat _ _ sel => decide (sel.toNat ≤ 24)
  | .klaunch _ _ a => evenReg a
  | .rgn _ _ => true
  | .ckacc _ a => a.wf
  | .ckaccClr _ => true
  | .chk _ a _ => a.wf
  | .memhintCompute _ a => a.wf
  | .pgInvalPage _ _ a b => a.wf && b.wf
  | .pgInvalAsid _ _ b => b.wf
  | .pgInvalAll _ _ => true
  | .psyswCreate _ _ a b => a.wf && b.wf
  | .psyswPreempt _ _ a b => a.wf && b.wf
  | .psyswRestore _ _ a b => a.wf && b.wf
  | .psyswDestroy _ _ a b => a.wf && b.wf
  | .psyswSetdl _ _ a b => a.wf && b.wf
  | .qctlOpen _ _ a b => a.wf && b.wf
  | .qctlPause _ _ a b => a.wf && b.wf
  | .qctlResume _ _ a b => a.wf && b.wf
  | .qctlDrain _ _ a b => a.wf && b.wf
  | .qctlFlush _ _ a b => a.wf && b.wf
  | .clauseEntry _ => true
  | .clauseWaitRelease _ => true
  | .codeFetchFault _ => true
  | .settleRelease _ => true
  | .variableResultWrite _ => true
  | .accessStatusReturn _ => true
  | .backoffRetry _ => true
  | .handlerEntry _ => true
  | .fragmentReplay _ => true
  | .exitCloseComplete _ => true
  | .blockRetire _ => true
  | .kernelSignalPerformed _ => true
  | .hostCompletionSend _ => true
  | .hostCompletionAck _ => true
  | .hostSendTimeout _ => true
  | .launchMessage _ _ _ => true
  | .dependenceWake _ _ => true
  | .dependencePoll _ => true
  | .kernelSelect => true
  | .groupHandout => true
  | .queueStatusRefresh _ => true
  | .queueDrainComplete _ => true
  | .blockRestSave _ => true
  | .preemptDeadlineExpiry _ => true
  | .contextSaved _ => true
  | .contextDrainComplete _ => true
  | .barWake _ => true
  | .byteCredit _ => true
  | .clusterSignal _ => true
  | .chunkLand _ _ => true
  | .watchWake _ => true
  | .waitTimeout _ => true
  | .watchPoll _ => true
  | .sleepExpiry _ => true
  | .homeSliceStore _ _ => true
  | .homeSliceAtomic _ _ => true
  | .lineFill _ _ _ => true
  | .closeComplete _ => true
  | .openBegin _ => true
  | .unsealComplete _ => true
  | .pgInvalComplete _ => true
  | .copyStart _ => true
  | .copyAccessReply _ _ => true
  | .copyRelease _ => true
  | .copyComplete _ => true
  | .mxStart _ => true
  | .mxCommit _ => true
  | .mxLdbStart _ => true
  | .mxLdbComplete _ => true
  | .mxStFinish _ => true
  | .twinCompare _ => true
  | .eyeMeasure _ _ => true
  | .linkReturn _ => true
  | .laneFail _ _ => true
  | .flitRetryExhausted _ => true
  | .linkTrainDone _ _ => true
  | .ethFrameReceive _ _ _ => true
  | .roceConnectRequest _ _ _ _ => true
  | .rdmaWrite _ _ _ _ => true
  | .rdmaRead _ _ _ _ => true
  | .fetchAndAdd _ _ _ _ => true
  | .compareAndSwap _ _ _ _ _ => true
  | .invalidRequestOp _ => true
  | .fence => true
  | .reset => true
  | .poweroff => true
  | .admitDie => true
  | .takeover => true
  | .retire => true
  | .getkey => true
  | .readmit => true
  | .dieErrorFence _ => true
  | .fencingQuiesced _ => true
  | .dieAdmitResult _ _ => true
  | .dieResetComplete _ => true
  | .cacheDieFault _ => true
  | .ioDie1Fault => true
  | .ioDie0UnitFault _ => true
  | .coldReset => true
  | .channelAutoRetire _ => true
  | .pageMove _ => true
  | .capsigWrite => true
  | .clkmhzRefresh => true
  | .arbiterGrant _ => true
  | .clockStep _ _ => true
  | .arbiterTakeover => true
  | .ethPortDown _ => true
  | .ethPortActive _ => true
  | .hbmRefresh _ => true

end Sys2Proof
end

