-- ==== Sys2Proof/Decode.lean ====
section
/-! DEFINITION. The decoder (R49 to R61) and the encoder, both written from the encoding tables. -/

namespace Sys2Proof

/-- Why a word is not an instruction. The order of the checks is R61's: a bad FUNC or sub-field (check 6), then a reserved
bit, a mode, a constant or an odd pair (check 7), then a register number that no register has (check 8). -/
inductive DecErr where
  /-- OP unassigned: trap 0x001 (check 3) -/
  | badOp
  /-- undefined FUNC or sub-field value: trap 0x001 (check 6) -/
  | badFunc
  /-- reserved bit, mode, constant code, odd pair: trap 0x002 (check 7) -/
  | reserved
  /-- register number out of bounds: trap 0x003 (check 8) -/
  | bounds
  /-- word 1 of brm is missing: trap 0x004 (check 4) -/
  | placement
deriving DecidableEq, Repr

/-- Stop with an error where the condition holds. -/
def need (bad : Bool) (e : DecErr) : Except DecErr Unit := if bad then .error e else .ok ()

/-! ### Building words -/

def b1 (b : Bool) : BitVec 1 := BitVec.ofBool b

/-- Bits [63:51] (Table 2.3). -/
def wordHead (op : BitVec 8) (c : Cm) : BitVec 13 := op ++ b1 c.s ++ c.pg ++ b1 c.pn
/-- Format A (Table 2.6), and formats C and S in the same five fields. -/
def wordA (op : BitVec 8) (c : Cm) (d a b e : BitVec 10) (f : BitVec 11) : W64 := wordHead op c ++ d ++ a ++ b ++ e ++ f
/-- Format I (Table 2.7). -/
def wordI (op : BitVec 8) (c : Cm) (d a : BitVec 8) (f : BitVec 3) (imm : W32) : W64 := wordHead op c ++ d ++ a ++ f ++ imm
/-- Format M (Table 2.8). -/
def wordM (op : BitVec 8) (c : Cm) (d a : BitVec 10) (off : BitVec 24) (f : BitVec 7) : W64 :=
  wordHead op c ++ d ++ a ++ off ++ f
/-- Format B (Table 2.9). -/
def wordB (op : BitVec 8) (c : Cm) (t r : BitVec 24) (f : BitVec 3) : W64 := wordHead op c ++ t ++ r ++ f
/-- Formats S and C with fields [50:41], [40:31] and the rest. -/
def wordR (op : BitVec 8) (c : Cm) (d a : BitVec 10) (rest : BitVec 31) : W64 := wordHead op c ++ d ++ a ++ rest
/-- Formats S and C with bits [50:0] whole. -/
def wordLow (op : BitVec 8) (c : Cm) (low : BitVec 51) : W64 := wordHead op c ++ low
/-- call: [50:41] D, [34:11] TGT24 (Table 10.3). -/
def wordCall (op : BitVec 8) (c : Cm) (d : BitVec 10) (tgt : BitVec 24) : W64 :=
  wordHead op c ++ d ++ 0#6 ++ tgt ++ 0#11
/-- brx: RPC24 in [26:3] (Table 10.3). -/
def restR24 (r : BitVec 24) : BitVec 31 := 0#4 ++ r ++ 0#3
/-- yield: LVE in [6], LIVE in [5:0] (Table 6.7). -/
def restYield (lve : Bool) (live : BitVec 6) : BitVec 31 := 0#24 ++ b1 lve ++ live

/-- brm word 0 (Table 2.10). -/
def wordBM0 (c : Cm) (ps : List (PReg × BitVec 16)) (rpc : BitVec 24) : W64 :=
  let q := fun i => (ps.getD i (0, 0)).1
  wordHead 0x02 c ++ q 0 ++ q 1 ++ q 2 ++ q 3 ++ BitVec.ofNat 2 (ps.length - 1) ++ 0#2 ++ rpc ++ 0#11
/-- brm word 1 (Table 2.11). -/
def wordBM1 (ps : List (PReg × BitVec 16)) : W64 :=
  let t := fun i => (ps.getD i (0, 0)).2
  t 3 ++ t 2 ++ t 1 ++ t 0

/-! ### Fields of a word -/

def fOp (w : W64) : BitVec 8 := w.extractLsb' 56 8
def decCm (w : W64) : Cm := ⟨w.getLsbD 55, w.extractLsb' 52 3, w.getLsbD 51⟩
def fD (w : W64) : BitVec 10 := w.extractLsb' 41 10
def fA (w : W64) : BitVec 10 := w.extractLsb' 31 10
def fB (w : W64) : BitVec 10 := w.extractLsb' 21 10
def fC (w : W64) : BitVec 10 := w.extractLsb' 11 10
def fF (w : W64) : BitVec 11 := w.extractLsb' 0 11
def fVar (w : W64) : BitVec 3 := w.extractLsb' 5 3
def fSys (w : W64) : BitVec 8 := w.extractLsb' 23 8
def fRest (w : W64) : BitVec 31 := w.extractLsb' 0 31
def fI8D (w : W64) : BitVec 8 := w.extractLsb' 43 8
def fI8A (w : W64) : BitVec 8 := w.extractLsb' 35 8
def fF3 (w : W64) : BitVec 3 := w.extractLsb' 32 3
def fImm (w : W64) : W32 := w.extractLsb' 0 32
def fOff (w : W64) : BitVec 24 := w.extractLsb' 7 24
def fF7 (w : W64) : BitVec 7 := w.extractLsb' 0 7
def fT24 (w : W64) : BitVec 24 := w.extractLsb' 27 24
def fR24 (w : W64) : BitVec 24 := w.extractLsb' 3 24
def fB3 (w : W64) : BitVec 3 := w.extractLsb' 0 3

/-! ### Operand fields (Table 2.4, R49) -/

def encSReg (n : SReg) : BitVec 10 := 2#2 ++ 0#2 ++ n
def encPReg (p : PReg) : BitVec 10 := 0#7 ++ p
def encSReg8 (n : SReg) : BitVec 8 := 0#2 ++ n
def encPReg8 (p : PReg) : BitVec 8 := 0#5 ++ p

def VDst.enc : VDst → BitVec 10
  | .reg n => 0#2 ++ n
  | .ind x o => 1#2 ++ x ++ o
def VSrc.enc : VSrc → BitVec 10
  | .reg n => 0#2 ++ n
  | .ind x o => 1#2 ++ x ++ o
  | .sc n => encSReg n
  | .const k => 3#2 ++ k
def SSrc.enc : SSrc → BitVec 10
  | .reg n => encSReg n
  | .const k => 3#2 ++ k
def SPair.enc : SPair → BitVec 10
  | .reg n => encSReg n
  | .const k => 3#2 ++ k
def GAddr.enc : GAddr → BitVec 10
  | .vec d => d.enc
  | .sc n => encSReg n
def SAddr.enc : SAddr → BitVec 10
  | .glob n => encSReg n
  | .spad a => a.enc
def CpEnd.enc : CpEnd → BitVec 10
  | .glob n => encSReg n
  | .off a => a.enc
def encOptV : Option VDst → BitVec 10
  | none => 0
  | some d => d.enc
def encOptS : Option SSrc → BitVec 10
  | none => 0
  | some s => s.enc

def fMode (x : BitVec 10) : BitVec 2 := x.extractLsb' 8 2
def fLow8 (x : BitVec 10) : BitVec 8 := x.extractLsb' 0 8
def fLow6 (x : BitVec 10) : BitVec 6 := x.extractLsb' 0 6
def fHi2 (x : BitVec 10) : BitVec 2 := x.extractLsb' 6 2

/-- A field in mode 10 with [7:6] zero. -/
def decSReg (x : BitVec 10) : Except DecErr SReg := do
  need (fMode x != 2 || fHi2 x != 0) .reserved
  pure (fLow6 x)
/-- A field in mode 10 that names an even pair. -/
def decSEven (x : BitVec 10) : Except DecErr SReg := do
  need (fMode x != 2 || fHi2 x != 0 || x.getLsbD 0) .reserved
  pure (fLow6 x)
/-- A scalar destination of 32 or 64 bits. -/
def decSSized (w64 : Bool) (x : BitVec 10) : Except DecErr SReg := if w64 then decSEven x else decSReg x
/-- CRD names s(k) to s(k+4); k above 59 is out of bounds (R319). -/
def decCrd (x : BitVec 10) : Except DecErr SReg := do
  let n ← decSReg x
  need (decide (59 < n.toNat)) .bounds
  pure n
/-- A predicate field (R115). -/
def decPReg (x : BitVec 10) : Except DecErr PReg := do
  need (x.extractLsb' 3 7 != 0) .reserved
  pure (x.extractLsb' 0 3)
/-- The predicate in D of vcmpi and scmpi (R111). -/
def decPReg8 (x : BitVec 8) : Except DecErr PReg := do
  need (x.extractLsb' 3 5 != 0) .reserved
  pure (x.extractLsb' 0 3)
/-- A scalar register number of format I (R54). -/
def decSReg8 (x : BitVec 8) : Except DecErr SReg := do
  need (x.extractLsb' 6 2 != 0) .bounds
  pure (x.extractLsb' 0 6)

def VDst.dec (x : BitVec 10) : Except DecErr VDst :=
  if fMode x = 0 then pure (.reg (fLow8 x))
  else if fMode x = 1 then pure (.ind (fHi2 x) (fLow6 x))
  else .error .reserved
def VSrc.dec (x : BitVec 10) : Except DecErr VSrc :=
  if fMode x = 0 then pure (.reg (fLow8 x))
  else if fMode x = 1 then pure (.ind (fHi2 x) (fLow6 x))
  else if fMode x = 2 then (if fHi2 x = 0 then pure (.sc (fLow6 x)) else .error .reserved)
  else if constOk (fLow8 x) then pure (.const (fLow8 x)) else .error .reserved
def VSrc.decReg (x : BitVec 10) : Except DecErr VSrc := do
  need (fMode x == 3) .reserved
  VSrc.dec x
def VSrc.decData (z : Sz) (x : BitVec 10) : Except DecErr VSrc := do
  let v ← VSrc.dec x
  need (!v.wfData z) .reserved
  pure v
def SSrc.dec (x : BitVec 10) : Except DecErr SSrc :=
  if fMode x = 2 then (if fHi2 x = 0 then pure (.reg (fLow6 x)) else .error .reserved)
  else if fMode x = 3 then (if constOk (fLow8 x) then pure (.const (fLow8 x)) else .error .reserved)
  else .error .reserved
def SSrc.decSized (w64 : Bool) (x : BitVec 10) : Except DecErr SSrc := do
  let v ← SSrc.dec x
  need (!v.wfSized w64) .reserved
  pure v
def SPair.dec (x : BitVec 10) : Except DecErr SPair :=
  if fMode x = 2 then (if fHi2 x = 0 && !x.getLsbD 0 then pure (.reg (fLow6 x)) else .error .reserved)
  else if fMode x = 3 then (if constOk (fLow8 x) then pure (.const (fLow8 x)) else .error .reserved)
  else .error .reserved
def GAddr.dec (x : BitVec 10) : Except DecErr GAddr :=
  if fMode x = 0 then pure (.vec (.reg (fLow8 x)))
  else if fMode x = 1 then pure (.vec (.ind (fHi2 x) (fLow6 x)))
  else if fMode x = 2 then (if fHi2 x = 0 && !x.getLsbD 0 then pure (.sc (fLow6 x)) else .error .reserved)
  else .error .reserved
def SAddr.dec (spad : Bool) (x : BitVec 10) : Except DecErr SAddr :=
  if spad then (SSrc.dec x).map .spad else (decSEven x).map .glob
def CpEnd.dec (glob : Bool) (x : BitVec 10) : Except DecErr CpEnd :=
  if glob then (decSEven x).map .glob else (SSrc.dec x).map .off
def decOptV (sc : Bool) (x : BitVec 10) : Except DecErr (Option VDst) :=
  if sc then (VDst.dec x).map some else if x = 0 then pure none else .error .reserved
def decOptS (present : Bool) (x : BitVec 10) : Except DecErr (Option SSrc) :=
  if present then (SSrc.dec x).map some else if x = 0 then pure none else .error .reserved

/-! ### FUNC values -/

def ITy.enc : ITy → BitVec 2
  | .b => 0 | .s => 1 | .n => 2
def ITy.dec (x : BitVec 2) : Except DecErr ITy :=
  if x = 0 then pure .b else if x = 1 then pure .s else if x = 2 then pure .n else .error .badFunc
def IntF.enc (f : IntF) : BitVec 11 := f.pq ++ f.var ++ b1 f.sat ++ 0#2 ++ f.ty.enc
def IntF.dec (x : BitVec 11) : Except DecErr IntF := do
  need (x.extractLsb' 2 2 != 0) .badFunc
  let ty ← ITy.dec (x.extractLsb' 0 2)
  pure ⟨x.extractLsb' 8 3, x.extractLsb' 5 3, x.getLsbD 4, ty⟩
def ArithI.enc (f : ArithI) : BitVec 3 := b1 f.sat ++ f.ty.enc
def ArithI.dec (x : BitVec 3) : Except DecErr ArithI := do
  let ty ← ITy.dec (x.extractLsb' 0 2)
  need (x.getLsbD 2 && ty == .b) .badFunc
  pure ⟨x.getLsbD 2, ty⟩
def decShrI (x : BitVec 3) : Except DecErr Bool :=
  if x = 0 then pure false else if x = 1 then pure true else .error .badFunc
def CmpI.enc : CmpI → BitVec 3
  | .eq => 0 | .ne => 1 | .ltS => 2 | .leS => 3 | .gtS => 4 | .geS => 5 | .ltN => 6 | .geN => 7
def CmpI.dec (x : BitVec 3) : CmpI :=
  if x = 0 then .eq else if x = 1 then .ne else if x = 2 then .ltS else if x = 3 then .leS
  else if x = 4 then .gtS else if x = 5 then .geS else if x = 6 then .ltN else .geN
def Rnd.enc : Rnd → BitVec 2
  | .rn => 0 | .rz => 1 | .rm => 2 | .rp => 3
def Rnd.dec (x : BitVec 2) : Rnd := if x = 0 then .rn else if x = 1 then .rz else if x = 2 then .rm else .rp
def FpF.enc (f : FpF) : BitVec 11 := f.pq ++ f.var ++ b1 f.sat ++ f.rnd.enc ++ 0#2
def FpF.dec (x : BitVec 11) : Except DecErr FpF := do
  need (x.extractLsb' 0 2 != 0) .badFunc
  pure ⟨x.extractLsb' 8 3, x.extractLsb' 5 3, x.getLsbD 4, Rnd.dec (x.extractLsb' 2 2)⟩
def PkF.enc (f : PkF) : BitVec 11 := 0#3 ++ f.var ++ b1 f.sat ++ f.rnd.enc ++ 0#1 ++ b1 f.bf
def PkF.dec (x : BitVec 11) : Except DecErr PkF := do
  need (x.extractLsb' 8 3 != 0 || x.getLsbD 1) .badFunc
  pure ⟨x.extractLsb' 5 3, x.getLsbD 4, Rnd.dec (x.extractLsb' 2 2), x.getLsbD 0⟩
def CvtTy.enc : CvtTy → BitVec 3
  | .f32 => 0 | .f16 => 1 | .bf16 => 2 | .s32 => 3 | .n32 => 4 | .s16 => 5 | .n16 => 6
def CvtTy.dec (x : BitVec 3) : Except DecErr CvtTy :=
  if x = 0 then pure .f32 else if x = 1 then pure .f16 else if x = 2 then pure .bf16 else if x = 3 then pure .s32
  else if x = 4 then pure .n32 else if x = 5 then pure .s16 else if x = 6 then pure .n16 else .error .badFunc
def CvtF.enc (f : CvtF) : BitVec 11 := f.st.enc ++ f.dt.enc ++ b1 f.sat ++ f.rnd.enc ++ 0#1 ++ b1 f.sh
def CvtF.dec (x : BitVec 11) : Except DecErr CvtF := do
  let st ← CvtTy.dec (x.extractLsb' 8 3)
  let dt ← CvtTy.dec (x.extractLsb' 5 3)
  need (x.getLsbD 1) .badFunc
  pure ⟨st, dt, x.getLsbD 4, Rnd.dec (x.extractLsb' 2 2), x.getLsbD 0⟩
def NFmt.enc : NFmt → BitVec 4
  | .e4m3 => 3 | .e5m2 => 4 | .e2m1 => 5 | .i8 => 6 | .i4 => 7
def NFmt.dec (x : BitVec 4) : Except DecErr NFmt :=
  if x = 3 then pure .e4m3 else if x = 4 then pure .e5m2 else if x = 5 then pure .e2m1 else if x = 6 then pure .i8
  else if x = 7 then pure .i4 else .error .badFunc
def CvtnF.enc (f : CvtnF) (sc : Bool) : BitVec 11 := f.fmt.enc ++ f.q ++ b1 sc ++ f.rnd.enc ++ 0#2
def CvtnF.dec (x : BitVec 11) : Except DecErr CvtnF := do
  let fmt ← NFmt.dec (x.extractLsb' 7 4)
  need (x.extractLsb' 0 2 != 0) .badFunc
  let f : CvtnF := ⟨fmt, x.extractLsb' 5 2, Rnd.dec (x.extractLsb' 2 2)⟩
  need (!f.ok) .badFunc
  pure f
def PackF.enc (f : PackF) : BitVec 11 := 0#3 ++ f.var ++ b1 f.sat ++ f.rnd.enc ++ b1 f.hb ++ b1 f.ha
def PackF.dec (x : BitVec 11) : Except DecErr PackF := do
  need (x.extractLsb' 8 3 != 0) .badFunc
  pure ⟨x.extractLsb' 5 3, x.getLsbD 4, Rnd.dec (x.extractLsb' 2 2), x.getLsbD 1, x.getLsbD 0⟩
def ShflF.enc (f : ShflF) : BitVec 11 := f.pq ++ f.m ++ 0#5
def ShflF.dec (x : BitVec 11) : Except DecErr ShflF := do
  need (x.extractLsb' 0 5 != 0) .badFunc
  pure ⟨x.extractLsb' 8 3, x.extractLsb' 5 3⟩
def RTy.enc : RTy → BitVec 2
  | .b => 0 | .s => 1 | .n => 2 | .f => 3
def RTy.dec (x : BitVec 2) : RTy := if x = 0 then .b else if x = 1 then .s else if x = 2 then .n else .f
def RedF.enc (f : RedF) : BitVec 11 := 0#3 ++ f.opr ++ b1 f.excl ++ f.rnd.enc ++ f.ty.enc
def RedF.dec (x : BitVec 11) : Except DecErr RedF := do
  need (x.extractLsb' 8 3 != 0) .badFunc
  pure ⟨x.extractLsb' 5 3, x.getLsbD 4, Rnd.dec (x.extractLsb' 2 2), RTy.dec (x.extractLsb' 0 2)⟩
def NotF.enc (f : NotF) : BitVec 11 := if f.inv then 0x20 else 0
def NotF.dec (x : BitVec 11) : Except DecErr NotF :=
  if x = 0 then pure ⟨false⟩ else if x = 0x20 then pure ⟨true⟩ else .error .badFunc
def PmovK.encD : PmovK → BitVec 10
  | .p d _ => encPReg d | .set d _ => encPReg d | .nz d _ => encPReg d | .v d _ => d.enc
def PmovK.encA : PmovK → BitVec 10
  | .p _ a => encPReg a | .set _ a => a.enc | .nz _ a => a.enc | .v _ a => encPReg a
def PmovK.encF : PmovK → BitVec 11
  | .p _ _ => 0 | .set _ _ => 0x20 | .nz _ _ => 0x40 | .v _ _ => 0x60
def PmovK.dec (v : BitVec 3) (d a : BitVec 10) : Except DecErr PmovK :=
  if v = 0 then do pure (.p (← decPReg d) (← decPReg a))
  else if v = 1 then do pure (.set (← decPReg d) (← VSrc.dec a))
  else if v = 2 then do pure (.nz (← decPReg d) (← VSrc.dec a))
  else do pure (.v (← VDst.dec d) (← decPReg a))
def VoteK.encD : VoteK → BitVec 10
  | .or d => encPReg d | .and d => encPReg d | .eq d => encPReg d | .bits d => encSReg d | .cnt d => encSReg d
def VoteK.encF : VoteK → BitVec 11
  | .or _ => 0 | .and _ => 1 | .eq _ => 2 | .bits _ => 3 | .cnt _ => 4
def VoteK.dec (v : BitVec 3) (d : BitVec 10) : Except DecErr VoteK :=
  if v = 0 then (decPReg d).map .or else if v = 1 then (decPReg d).map .and else if v = 2 then (decPReg d).map .eq
  else if v = 3 then (decSReg d).map .bits else (decSReg d).map .cnt
def VReadSel.enc : VReadSel → BitVec 8
  | .laneId => 0 | .tidX => 1 | .tidY => 2 | .tidZ => 3
def VReadSel.dec (x : BitVec 8) : Except DecErr VReadSel :=
  if x = 0 then pure .laneId else if x = 1 then pure .tidX else if x = 2 then pure .tidY
  else if x = 3 then pure .tidZ else .error .badFunc
def FragSel.enc : FragSel → BitVec 3
  | .parked => 0 | .resumable => 1 | .any => 2
def FragSel.dec (x : BitVec 3) : Except DecErr FragSel :=
  if x = 0 then pure .parked else if x = 1 then pure .resumable else if x = 2 then pure .any else .error .badFunc
def SysReg.enc : SysReg → BitVec 8
  | .waveId => 0x00 | .blockX => 0x01 | .blockY => 0x02 | .blockZ => 0x03 | .nBlockX => 0x04 | .nBlockY => 0x05
  | .nBlockZ => 0x06 | .groupId => 0x07 | .gRank => 0x08 | .cluster => 0x09 | .core => 0x0A | .die => 0x0B
  | .splitId => 0x0C | .splitMask => 0x0D | .allot => 0x0E | .preq => 0x0F | .clkLo => 0x10 | .clkHi => 0x11
  | .ctxId => 0x12 | .splOvf => 0x13 | .nanDrop => 0x14 | .xidx0 => 0x15 | .xidx1 => 0x16 | .xidx2 => 0x17
  | .xidx3 => 0x18
def sysRegs : List SysReg :=
  [.waveId, .blockX, .blockY, .blockZ, .nBlockX, .nBlockY, .nBlockZ, .groupId, .gRank, .cluster, .core, .die,
   .splitId, .splitMask, .allot, .preq, .clkLo, .clkHi, .ctxId, .splOvf, .nanDrop, .xidx0, .xidx1, .xidx2, .xidx3]
def SysReg.dec (x : BitVec 8) : Except DecErr SysReg :=
  match sysRegs[x.toNat]? with
  | some r => pure r
  | none => .error .badFunc
def Sz.enc : Sz → BitVec 3
  | .n8 => 0 | .s8 => 1 | .n16 => 2 | .s16 => 3 | .b32 => 4 | .b64 => 5 | .b128 => 6
def Sz.dec (x : BitVec 3) : Except DecErr Sz :=
  if x = 0 then pure .n8 else if x = 1 then pure .s8 else if x = 2 then pure .n16 else if x = 3 then pure .s16
  else if x = 4 then pure .b32 else if x = 5 then pure .b64 else if x = 6 then pure .b128 else .error .badFunc
def LdF.enc (f : LdF) : BitVec 7 := f.scp ++ b1 f.spc ++ f.sz.enc
def LdF.dec (x : BitVec 7) : Except DecErr LdF := do
  let sz ← Sz.dec (x.extractLsb' 0 3)
  pure ⟨x.extractLsb' 4 3, x.getLsbD 3, sz⟩
def AtF.enc (f : AtF) : BitVec 7 := f.opr ++ b1 f.w64 ++ b1 f.cls ++ b1 f.opn
def AtF.dec (x : BitVec 7) : Except DecErr AtF :=
  pure ⟨x.extractLsb' 3 4, x.getLsbD 2, x.getLsbD 1, x.getLsbD 0⟩
def WCond.enc : WCond → BitVec 3
  | .eq => 1 | .ne => 2 | .geS => 3 | .ltS => 4 | .geN => 5 | .ltN => 6
def WCond.dec (x : BitVec 3) : Except DecErr WCond :=
  if x = 1 then pure .eq else if x = 2 then pure .ne else if x = 3 then pure .geS else if x = 4 then pure .ltS
  else if x = 5 then pure .geN else if x = 6 then pure .ltN else .error .badFunc
/-- FUNC of the barrier instructions (R237). -/
structure BarF where
  pq : PReg
  var : BitVec 3
  gl : Bool
deriving DecidableEq, Repr
def BarF.enc (f : BarF) : BitVec 11 := f.pq ++ f.var ++ b1 f.gl ++ 0#4
def BarF.dec (x : BitVec 11) : Except DecErr BarF := do
  need (x.extractLsb' 0 4 != 0) .badFunc
  pure ⟨x.extractLsb' 8 3, x.extractLsb' 5 3, x.getLsbD 4⟩
def LinDir.enc : LinDir → BitVec 3
  | .gs => 0 | .sg => 1 | .gg => 2 | .sc => 3 | .cs => 4 | .gc => 5
def LinDir.dec (x : BitVec 3) : Except DecErr LinDir :=
  if x = 0 then pure .gs else if x = 1 then pure .sg else if x = 2 then pure .gg else if x = 3 then pure .sc
  else if x = 4 then pure .cs else if x = 5 then pure .gc else .error .badFunc
def MxCv.enc : MxCv → BitVec 2
  | .f32 => 0 | .bf16 => 1 | .f16 => 2 | .e4m3 => 3
def MxCv.dec (x : BitVec 2) : MxCv := if x = 0 then .f32 else if x = 1 then .bf16 else if x = 2 then .f16 else .e4m3

/-- The pairs of brm (R57): fields beyond NPAIR and the reserved fields must be zero. -/
def decBrmFields (c : Cm) (w : W64) (w1 : Option W64) : Except DecErr Instr :=
  match w1 with
  | none => .error .placement
  | some v => do
    let n := (w.extractLsb' 37 2).toNat + 1
    let q : List PReg := [w.extractLsb' 48 3, w.extractLsb' 45 3, w.extractLsb' 42 3, w.extractLsb' 39 3]
    let t : List (BitVec 16) := [v.extractLsb' 0 16, v.extractLsb' 16 16, v.extractLsb' 32 16, v.extractLsb' 48 16]
    need (w.extractLsb' 35 2 != 0 || w.extractLsb' 0 11 != 0) .reserved
    need ((q.drop n).any (· != 0) || (t.drop n).any (· != 0)) .reserved
    pure (.brm c ((q.zip t).take n) (w.extractLsb' 11 24))

/-! ### One decoder per instruction -/

/-- The fields of `nop` in their check order (R61). -/
def decNop (c : Cm) (w : W64) : Except DecErr Instr := do
  need (fF w != 0) .reserved
  need (fD w != 0) .reserved
  need (fA w != 0) .reserved
  need (fB w != 0) .reserved
  need (fC w != 0) .reserved
  pure (.nop c)

/-- The fields of `bra` in their check order (R61). -/
def decBra (c : Cm) (w : W64) : Except DecErr Instr := do
  need (fB3 w != 0) .badFunc
  pure (.bra c (fT24 w) (fR24 w))

/-- The fields of `brm` in their check order (R61). -/
def decBrm (c : Cm) (w : W64) (w1 : Option W64) : Except DecErr Instr := do
  decBrmFields c w w1

/-- The fields of `brx` in their check order (R61). -/
def decBrx (c : Cm) (w : W64) : Except DecErr Instr := do
  need (fD w != 0) .reserved
  need (fRest w != restR24 (fR24 w)) .reserved
  let a ← VSrc.decReg (fA w)
  pure (.brx c a (fR24 w))

/-- The fields of `call` in their check order (R61). -/
def decCall (c : Cm) (w : W64) : Except DecErr Instr := do
  need ((w.extractLsb' 35 6) != 0) .reserved
  need (fF w != 0) .reserved
  let d ← VDst.dec (fD w)
  pure (.call c d (w.extractLsb' 11 24))

/-- The fields of `callx` in their check order (R61). -/
def decCallx (c : Cm) (w : W64) : Except DecErr Instr := do
  need (fF w != 0) .reserved
  let d ← VDst.dec (fD w)
  let a ← VSrc.decReg (fA w)
  need (fB w != 0) .reserved
  need (fC w != 0) .reserved
  pure (.callx c d a)

/-- The fields of `ret` in their check order (R61). -/
def decRet (c : Cm) (w : W64) : Except DecErr Instr := do
  need (fF w != 0) .reserved
  need (fD w != 0) .reserved
  let a ← VSrc.decReg (fA w)
  need (fB w != 0) .reserved
  need (fC w != 0) .reserved
  pure (.ret c a)

/-- The fields of `exit` in their check order (R61). -/
def decExit (c : Cm) (w : W64) : Except DecErr Instr := do
  need (fF w != 0) .reserved
  need (fD w != 0) .reserved
  need (fA w != 0) .reserved
  need (fB w != 0) .reserved
  need (fC w != 0) .reserved
  pure (.exit c)

/-- The fields of `wsync` in their check order (R61). -/
def decWsync (c : Cm) (w : W64) : Except DecErr Instr := do
  need (fF w != 0) .reserved
  need (fD w != 0) .reserved
  need (fA w != 0) .reserved
  need (fB w != 0) .reserved
  need (fC w != 0) .reserved
  pure (.wsync c)

/-- The fields of `yield` in their check order (R61). -/
def decYield (c : Cm) (w : W64) : Except DecErr Instr := do
  need ((w.extractLsb' 7 44) != 0) .reserved
  pure (.yield c (w.getLsbD 6) (w.extractLsb' 0 6))

/-- The fields of `sleep` in their check order (R61). -/
def decSleep (c : Cm) (w : W64) : Except DecErr Instr := do
  need (fF w != 0) .reserved
  need (fD w != 0) .reserved
  let a ← SSrc.dec (fA w)
  need (fB w != 0) .reserved
  need (fC w != 0) .reserved
  pure (.sleep c a)

/-- The fields of `elect` in their check order (R61). -/
def decElect (c : Cm) (w : W64) : Except DecErr Instr := do
  need (fF w != 0) .reserved
  let d ← decPReg (fD w)
  need (fA w != 0) .reserved
  need (fB w != 0) .reserved
  need (fC w != 0) .reserved
  pure (.elect c d)

/-- The fields of `vote` in their check order (R61). -/
def decVote (c : Cm) (w : W64) : Except DecErr Instr := do
  need (decide (4 < (w.extractLsb' 0 3).toNat)) .badFunc
  need (fB w != 0 || fC w != 0 || (w.extractLsb' 3 8) != 0) .reserved
  let k ← VoteK.dec (w.extractLsb' 0 3) (fD w)
  let a ← decPReg (fA w)
  pure (.vote c k a)

/-- The fields of `trap` in their check order (R61). -/
def decTrap (c : Cm) (w : W64) : Except DecErr Instr := do
  need ((w.extractLsb' 6 45) != 0) .reserved
  pure (.trap c (w.extractLsb' 0 6))

/-- The fields of `brk` in their check order (R61). -/
def decBrk (c : Cm) (w : W64) : Except DecErr Instr := do
  need ((w.extractLsb' 16 35) != 0) .reserved
  pure (.brk c (w.extractLsb' 0 16))

/-- The fields of `tret` in their check order (R61). -/
def decTret (c : Cm) (w : W64) : Except DecErr Instr := do
  need ((w.extractLsb' 0 51) != 0) .reserved
  need (c.pg != 7 || c.pn) .reserved
  pure (.tret c)

/-- The fields of `splInfo` in their check order (R61). -/
def decSplInfo (c : Cm) (w : W64) : Except DecErr Instr := do
  need (decide (12 < (fSys w).toNat)) .badFunc
  need (fA w != 0 || (w.extractLsb' 0 23) != 0) .reserved
  let d ← decSReg (fD w)
  pure (.splInfo c d (fSys w))

/-- The fields of `fragList` in their check order (R61). -/
def decFragList (c : Cm) (w : W64) : Except DecErr Instr := do
  let st ← FragSel.dec (w.extractLsb' 0 3)
  need (fB w != 0 || fC w != 0 || (w.extractLsb' 3 8) != 0) .reserved
  let d ← decSEven (fD w)
  let a ← SPair.dec (fA w)
  pure (.fragList c d a st)

/-- The fields of `fragRead` in their check order (R61). -/
def decFragRead (c : Cm) (w : W64) : Except DecErr Instr := do
  need (fF w != 0) .reserved
  let d ← decSEven (fD w)
  let a ← SPair.dec (fA w)
  let b ← SSrc.dec (fB w)
  need (fC w != 0) .reserved
  pure (.fragRead c d a b)

/-- The fields of `fragResume` in their check order (R61). -/
def decFragResume (c : Cm) (w : W64) : Except DecErr Instr := do
  need (fF w != 0) .reserved
  let d ← decSReg (fD w)
  let a ← SPair.dec (fA w)
  need (fB w != 0) .reserved
  need (fC w != 0) .reserved
  pure (.fragResume c d a)

/-- The fields of `fragKill` in their check order (R61). -/
def decFragKill (c : Cm) (w : W64) : Except DecErr Instr := do
  need (fF w != 0) .reserved
  let d ← decSReg (fD w)
  let a ← SPair.dec (fA w)
  need (fB w != 0) .reserved
  need (fC w != 0) .reserved
  pure (.fragKill c d a)

/-- The fields of `fragPatch` in their check order (R61). -/
def decFragPatch (c : Cm) (w : W64) : Except DecErr Instr := do
  need (fF w != 0) .reserved
  let d ← decSReg (fD w)
  let a ← SPair.dec (fA w)
  let b ← SSrc.dec (fB w)
  let e ← SSrc.dec (fC w)
  pure (.fragPatch c d a b e)

/-- The fields of `sread` in their check order (R61). -/
def decSread (c : Cm) (w : W64) : Except DecErr Instr := do
  let sys ← SysReg.dec (fSys w)
  need (fA w != 0 || (w.extractLsb' 0 23) != 0) .reserved
  let d ← decSReg (fD w)
  pure (.sread c d sys)

/-- The fields of `swrite` in their check order (R61). -/
def decSwrite (c : Cm) (w : W64) : Except DecErr Instr := do
  let sys ← SysReg.dec (fSys w)
  need (!sys.writable) .badFunc
  need (fD w != 0 || (w.extractLsb' 0 23) != 0) .reserved
  let a ← SSrc.dec (fA w)
  pure (.swrite c a sys)

/-- The fields of `capRd` in their check order (R61). -/
def decCapRd (c : Cm) (w : W64) : Except DecErr Instr := do
  need (fF w != 0) .reserved
  let d ← decSReg (fD w)
  let a ← SSrc.dec (fA w)
  need (fB w != 0) .reserved
  need (fC w != 0) .reserved
  pure (.capRd c d a)

/-- The fields of `vread` in their check order (R61). -/
def decVread (c : Cm) (w : W64) : Except DecErr Instr := do
  let sel ← VReadSel.dec (fSys w)
  need (fA w != 0 || (w.extractLsb' 0 23) != 0) .reserved
  let d ← VDst.dec (fD w)
  pure (.vread c d sel)

/-- The fields of `sadd` in their check order (R61). -/
def decSadd (c : Cm) (w : W64) : Except DecErr Instr := do
  let f ← IntF.dec (fF w)
  need (!(f.plain && f.var == 0 && (!f.sat || f.ty != .b))) .badFunc
  let d ← decSReg (fD w)
  let a ← SSrc.dec (fA w)
  let b ← SSrc.dec (fB w)
  need (fC w != 0) .reserved
  pure (.sadd c d a b f)

/-- The fields of `ssub` in their check order (R61). -/
def decSsub (c : Cm) (w : W64) : Except DecErr Instr := do
  let f ← IntF.dec (fF w)
  need (!(f.plain && f.var == 0 && (!f.sat || f.ty != .b))) .badFunc
  let d ← decSReg (fD w)
  let a ← SSrc.dec (fA w)
  let b ← SSrc.dec (fB w)
  need (fC w != 0) .reserved
  pure (.ssub c d a b f)

/-- The fields of `smul` in their check order (R61). -/
def decSmul (c : Cm) (w : W64) : Except DecErr Instr := do
  let f ← IntF.dec (fF w)
  need (!(f.plain && ((f.var == 0 && (!f.sat || f.ty != .b)) || (f.var == 1 && !f.sat && f.ty != .b)))) .badFunc
  let d ← decSReg (fD w)
  let a ← SSrc.dec (fA w)
  let b ← SSrc.dec (fB w)
  need (fC w != 0) .reserved
  pure (.smul c d a b f)

/-- The fields of `smad` in their check order (R61). -/
def decSmad (c : Cm) (w : W64) : Except DecErr Instr := do
  let f ← IntF.dec (fF w)
  need (!(f.plain && f.var == 0 && (!f.sat || f.ty != .b))) .badFunc
  let d ← decSReg (fD w)
  let a ← SSrc.dec (fA w)
  let b ← SSrc.dec (fB w)
  let e ← SSrc.dec (fC w)
  pure (.smad c d a b e f)

/-- The fields of `sand` in their check order (R61). -/
def decSand (c : Cm) (w : W64) : Except DecErr Instr := do
  let f ← IntF.dec (fF w)
  need (!(f.plain && f.isB && !f.sat && decide (f.var.toNat ≤ 1))) .badFunc
  let d ← decSReg (fD w)
  let a ← SSrc.dec (fA w)
  let b ← SSrc.dec (fB w)
  need (fC w != 0) .reserved
  pure (.sand c d a b f)

/-- The fields of `sor` in their check order (R61). -/
def decSor (c : Cm) (w : W64) : Except DecErr Instr := do
  let f ← IntF.dec (fF w)
  need (!(f.plain && f.isB && !f.sat && decide (f.var.toNat ≤ 1))) .badFunc
  let d ← decSReg (fD w)
  let a ← SSrc.dec (fA w)
  let b ← SSrc.dec (fB w)
  need (fC w != 0) .reserved
  pure (.sor c d a b f)

/-- The fields of `sxor` in their check order (R61). -/
def decSxor (c : Cm) (w : W64) : Except DecErr Instr := do
  let f ← IntF.dec (fF w)
  need (!(f.plain && f.isB && !f.sat && decide (f.var.toNat ≤ 1))) .badFunc
  let d ← decSReg (fD w)
  let a ← SSrc.dec (fA w)
  let b ← SSrc.dec (fB w)
  need (fC w != 0) .reserved
  pure (.sxor c d a b f)

/-- The fields of `sshl` in their check order (R61). -/
def decSshl (c : Cm) (w : W64) : Except DecErr Instr := do
  let f ← IntF.dec (fF w)
  need (!(f.plain && f.isB && !f.sat && f.var == 0)) .badFunc
  let d ← decSReg (fD w)
  let a ← SSrc.dec (fA w)
  let b ← SSrc.dec (fB w)
  need (fC w != 0) .reserved
  pure (.sshl c d a b f)

/-- The fields of `sshr` in their check order (R61). -/
def decSshr (c : Cm) (w : W64) : Except DecErr Instr := do
  let f ← IntF.dec (fF w)
  need (!(f.plain && !f.sat && f.var == 0)) .badFunc
  let d ← decSReg (fD w)
  let a ← SSrc.dec (fA w)
  let b ← SSrc.dec (fB w)
  need (fC w != 0) .reserved
  pure (.sshr c d a b f)

/-- The fields of `smin` in their check order (R61). -/
def decSmin (c : Cm) (w : W64) : Except DecErr Instr := do
  let f ← IntF.dec (fF w)
  need (!(f.plain && !f.isB && !f.sat && f.var == 0)) .badFunc
  let d ← decSReg (fD w)
  let a ← SSrc.dec (fA w)
  let b ← SSrc.dec (fB w)
  need (fC w != 0) .reserved
  pure (.smin c d a b f)

/-- The fields of `smax` in their check order (R61). -/
def decSmax (c : Cm) (w : W64) : Except DecErr Instr := do
  let f ← IntF.dec (fF w)
  need (!(f.plain && !f.isB && !f.sat && f.var == 0)) .badFunc
  let d ← decSReg (fD w)
  let a ← SSrc.dec (fA w)
  let b ← SSrc.dec (fB w)
  need (fC w != 0) .reserved
  pure (.smax c d a b f)

/-- The fields of `scmp` in their check order (R61). -/
def decScmp (c : Cm) (w : W64) : Except DecErr Instr := do
  let f ← IntF.dec (fF w)
  need (!(!f.sat && ((!f.isB && decide (f.var.toNat ≤ 5)) || (f.isB && decide (f.var.toNat ≤ 1))))) .badFunc
  need (fD w != 0) .reserved
  let a ← SSrc.dec (fA w)
  let b ← SSrc.dec (fB w)
  need (fC w != 0) .reserved
  pure (.scmp c a b f)

/-- The fields of `ssel` in their check order (R61). -/
def decSsel (c : Cm) (w : W64) : Except DecErr Instr := do
  let f ← IntF.dec (fF w)
  need (!(f.plain && f.isB && !f.sat && f.var == 0)) .badFunc
  let d ← decSReg (fD w)
  let a ← SSrc.dec (fA w)
  let b ← SSrc.dec (fB w)
  let e ← SSrc.dec (fC w)
  pure (.ssel c d a b e f)

/-- The fields of `smov` in their check order (R61). -/
def decSmov (c : Cm) (w : W64) : Except DecErr Instr := do
  let f ← IntF.dec (fF w)
  need (!(f.plain && f.isB && !f.sat && f.var == 0)) .badFunc
  let d ← decSReg (fD w)
  let a ← SSrc.dec (fA w)
  need (fB w != 0) .reserved
  need (fC w != 0) .reserved
  pure (.smov c d a f)

/-- The fields of `sbit` in their check order (R61). -/
def decSbit (c : Cm) (w : W64) : Except DecErr Instr := do
  let f ← IntF.dec (fF w)
  need (!(f.plain && f.isB && !f.sat && decide (f.var.toNat ≤ 4))) .badFunc
  let d ← decSReg (fD w)
  let a ← SSrc.dec (fA w)
  need (fB w != 0) .reserved
  need (fC w != 0) .reserved
  pure (.sbit c d a f)

/-- The fields of `sdiv` in their check order (R61). -/
def decSdiv (c : Cm) (w : W64) : Except DecErr Instr := do
  let f ← IntF.dec (fF w)
  need (!(f.plain && !f.isB && !f.sat && decide (f.var.toNat ≤ 1))) .badFunc
  let d ← decSReg (fD w)
  let a ← SSrc.dec (fA w)
  let b ← SSrc.dec (fB w)
  need (fC w != 0) .reserved
  pure (.sdiv c d a b f)

/-- The fields of `sli` in their check order (R61). -/
def decSli (c : Cm) (w : W64) : Except DecErr Instr := do
  need (fF3 w != 0) .badFunc
  need (fI8A w != 0) .reserved
  let d ← decSReg8 (fI8D w)
  let imm := fImm w
  pure (.sli c d imm)

/-- The fields of `saddi` in their check order (R61). -/
def decSaddi (c : Cm) (w : W64) : Except DecErr Instr := do
  let f ← ArithI.dec (fF3 w)
  let d ← decSReg8 (fI8D w)
  let a ← decSReg8 (fI8A w)
  let imm := fImm w
  pure (.saddi c d a imm f)

/-- The fields of `sandi` in their check order (R61). -/
def decSandi (c : Cm) (w : W64) : Except DecErr Instr := do
  need (fF3 w != 0) .badFunc
  let d ← decSReg8 (fI8D w)
  let a ← decSReg8 (fI8A w)
  let imm := fImm w
  pure (.sandi c d a imm)

/-- The fields of `sori` in their check order (R61). -/
def decSori (c : Cm) (w : W64) : Except DecErr Instr := do
  need (fF3 w != 0) .badFunc
  let d ← decSReg8 (fI8D w)
  let a ← decSReg8 (fI8A w)
  let imm := fImm w
  pure (.sori c d a imm)

/-- The fields of `sxori` in their check order (R61). -/
def decSxori (c : Cm) (w : W64) : Except DecErr Instr := do
  need (fF3 w != 0) .badFunc
  let d ← decSReg8 (fI8D w)
  let a ← decSReg8 (fI8A w)
  let imm := fImm w
  pure (.sxori c d a imm)

/-- The fields of `sshli` in their check order (R61). -/
def decSshli (c : Cm) (w : W64) : Except DecErr Instr := do
  need (fF3 w != 0) .badFunc
  let d ← decSReg8 (fI8D w)
  let a ← decSReg8 (fI8A w)
  let imm := fImm w
  pure (.sshli c d a imm)

/-- The fields of `sshri` in their check order (R61). -/
def decSshri (c : Cm) (w : W64) : Except DecErr Instr := do
  let f ← decShrI (fF3 w)
  let d ← decSReg8 (fI8D w)
  let a ← decSReg8 (fI8A w)
  let imm := fImm w
  pure (.sshri c d a imm f)

/-- The fields of `scmpi` in their check order (R61). -/
def decScmpi (c : Cm) (w : W64) : Except DecErr Instr := do
  let f := CmpI.dec (fF3 w)
  let d ← decPReg8 (fI8D w)
  let a ← decSReg8 (fI8A w)
  let imm := fImm w
  pure (.scmpi c d a imm f)

/-- The fields of `smuli` in their check order (R61). -/
def decSmuli (c : Cm) (w : W64) : Except DecErr Instr := do
  let f ← ArithI.dec (fF3 w)
  let d ← decSReg8 (fI8D w)
  let a ← decSReg8 (fI8A w)
  let imm := fImm w
  pure (.smuli c d a imm f)

/-- The fields of `sadd64` in their check order (R61). -/
def decSadd64 (c : Cm) (w : W64) : Except DecErr Instr := do
  let f ← IntF.dec (fF w)
  need (!(f.plain && f.isB && !f.sat && f.var == 0)) .badFunc
  let d ← decSEven (fD w)
  let a ← SPair.dec (fA w)
  let b ← SPair.dec (fB w)
  need (fC w != 0) .reserved
  pure (.sadd64 c d a b f)

/-- The fields of `ssub64` in their check order (R61). -/
def decSsub64 (c : Cm) (w : W64) : Except DecErr Instr := do
  let f ← IntF.dec (fF w)
  need (!(f.plain && f.isB && !f.sat && f.var == 0)) .badFunc
  let d ← decSEven (fD w)
  let a ← SPair.dec (fA w)
  let b ← SPair.dec (fB w)
  need (fC w != 0) .reserved
  pure (.ssub64 c d a b f)

/-- The fields of `sla` in their check order (R61). -/
def decSla (c : Cm) (w : W64) : Except DecErr Instr := do
  let f ← IntF.dec (fF w)
  need (!(f.plain && !f.isB && !f.sat)) .badFunc
  let d ← decSEven (fD w)
  let a ← SPair.dec (fA w)
  let b ← SSrc.dec (fB w)
  need (fC w != 0) .reserved
  pure (.sla c d a b f)

/-- The fields of `vadd` in their check order (R61). -/
def decVadd (c : Cm) (w : W64) : Except DecErr Instr := do
  let f ← IntF.dec (fF w)
  need (!(f.plain && f.var == 0 && (!f.sat || f.ty != .b))) .badFunc
  let d ← VDst.dec (fD w)
  let a ← VSrc.dec (fA w)
  let b ← VSrc.dec (fB w)
  need (fC w != 0) .reserved
  pure (.vadd c d a b f)

/-- The fields of `vsub` in their check order (R61). -/
def decVsub (c : Cm) (w : W64) : Except DecErr Instr := do
  let f ← IntF.dec (fF w)
  need (!(f.plain && f.var == 0 && (!f.sat || f.ty != .b))) .badFunc
  let d ← VDst.dec (fD w)
  let a ← VSrc.dec (fA w)
  let b ← VSrc.dec (fB w)
  need (fC w != 0) .reserved
  pure (.vsub c d a b f)

/-- The fields of `vmul` in their check order (R61). -/
def decVmul (c : Cm) (w : W64) : Except DecErr Instr := do
  let f ← IntF.dec (fF w)
  need (!(f.plain && ((f.var == 0 && (!f.sat || f.ty != .b)) || (f.var == 1 && !f.sat && f.ty != .b)))) .badFunc
  let d ← VDst.dec (fD w)
  let a ← VSrc.dec (fA w)
  let b ← VSrc.dec (fB w)
  need (fC w != 0) .reserved
  pure (.vmul c d a b f)

/-- The fields of `vmad` in their check order (R61). -/
def decVmad (c : Cm) (w : W64) : Except DecErr Instr := do
  let f ← IntF.dec (fF w)
  need (!(f.plain && f.var == 0 && (!f.sat || f.ty != .b))) .badFunc
  let d ← VDst.dec (fD w)
  let a ← VSrc.dec (fA w)
  let b ← VSrc.dec (fB w)
  let e ← VSrc.dec (fC w)
  pure (.vmad c d a b e f)

/-- The fields of `vand` in their check order (R61). -/
def decVand (c : Cm) (w : W64) : Except DecErr Instr := do
  let f ← IntF.dec (fF w)
  need (!(f.plain && f.isB && !f.sat && decide (f.var.toNat ≤ 1))) .badFunc
  let d ← VDst.dec (fD w)
  let a ← VSrc.dec (fA w)
  let b ← VSrc.dec (fB w)
  need (fC w != 0) .reserved
  pure (.vand c d a b f)

/-- The fields of `vor` in their check order (R61). -/
def decVor (c : Cm) (w : W64) : Except DecErr Instr := do
  let f ← IntF.dec (fF w)
  need (!(f.plain && f.isB && !f.sat && decide (f.var.toNat ≤ 1))) .badFunc
  let d ← VDst.dec (fD w)
  let a ← VSrc.dec (fA w)
  let b ← VSrc.dec (fB w)
  need (fC w != 0) .reserved
  pure (.vor c d a b f)

/-- The fields of `vxor` in their check order (R61). -/
def decVxor (c : Cm) (w : W64) : Except DecErr Instr := do
  let f ← IntF.dec (fF w)
  need (!(f.plain && f.isB && !f.sat && decide (f.var.toNat ≤ 1))) .badFunc
  let d ← VDst.dec (fD w)
  let a ← VSrc.dec (fA w)
  let b ← VSrc.dec (fB w)
  need (fC w != 0) .reserved
  pure (.vxor c d a b f)

/-- The fields of `vshl` in their check order (R61). -/
def decVshl (c : Cm) (w : W64) : Except DecErr Instr := do
  let f ← IntF.dec (fF w)
  need (!(f.plain && f.isB && !f.sat && f.var == 0)) .badFunc
  let d ← VDst.dec (fD w)
  let a ← VSrc.dec (fA w)
  let b ← VSrc.dec (fB w)
  need (fC w != 0) .reserved
  pure (.vshl c d a b f)

/-- The fields of `vshr` in their check order (R61). -/
def decVshr (c : Cm) (w : W64) : Except DecErr Instr := do
  let f ← IntF.dec (fF w)
  need (!(f.plain && !f.sat && f.var == 0)) .badFunc
  let d ← VDst.dec (fD w)
  let a ← VSrc.dec (fA w)
  let b ← VSrc.dec (fB w)
  need (fC w != 0) .reserved
  pure (.vshr c d a b f)

/-- The fields of `vmin` in their check order (R61). -/
def decVmin (c : Cm) (w : W64) : Except DecErr Instr := do
  let f ← IntF.dec (fF w)
  need (!(f.plain && !f.isB && !f.sat && f.var == 0)) .badFunc
  let d ← VDst.dec (fD w)
  let a ← VSrc.dec (fA w)
  let b ← VSrc.dec (fB w)
  need (fC w != 0) .reserved
  pure (.vmin c d a b f)

/-- The fields of `vmax` in their check order (R61). -/
def decVmax (c : Cm) (w : W64) : Except DecErr Instr := do
  let f ← IntF.dec (fF w)
  need (!(f.plain && !f.isB && !f.sat && f.var == 0)) .badFunc
  let d ← VDst.dec (fD w)
  let a ← VSrc.dec (fA w)
  let b ← VSrc.dec (fB w)
  need (fC w != 0) .reserved
  pure (.vmax c d a b f)

/-- The fields of `vabs` in their check order (R61). -/
def decVabs (c : Cm) (w : W64) : Except DecErr Instr := do
  let f ← IntF.dec (fF w)
  need (!(f.plain && f.ty == .s && f.var == 0)) .badFunc
  let d ← VDst.dec (fD w)
  let a ← VSrc.dec (fA w)
  need (fB w != 0) .reserved
  need (fC w != 0) .reserved
  pure (.vabs c d a f)

/-- The fields of `vcmp` in their check order (R61). -/
def decVcmp (c : Cm) (w : W64) : Except DecErr Instr := do
  let f ← IntF.dec (fF w)
  need (!(!f.sat && ((!f.isB && decide (f.var.toNat ≤ 5)) || (f.isB && decide (f.var.toNat ≤ 1))))) .badFunc
  need (fD w != 0) .reserved
  let a ← VSrc.dec (fA w)
  let b ← VSrc.dec (fB w)
  need (fC w != 0) .reserved
  pure (.vcmp c a b f)

/-- The fields of `vsel` in their check order (R61). -/
def decVsel (c : Cm) (w : W64) : Except DecErr Instr := do
  let f ← IntF.dec (fF w)
  need (!(f.isB && !f.sat && f.var == 0)) .badFunc
  let d ← VDst.dec (fD w)
  let a ← VSrc.dec (fA w)
  let b ← VSrc.dec (fB w)
  need (fC w != 0) .reserved
  pure (.vsel c d a b f)

/-- The fields of `vmov` in their check order (R61). -/
def decVmov (c : Cm) (w : W64) : Except DecErr Instr := do
  let f ← IntF.dec (fF w)
  need (!(f.plain && f.isB && !f.sat && f.var == 0)) .badFunc
  let d ← VDst.dec (fD w)
  let a ← VSrc.dec (fA w)
  need (fB w != 0) .reserved
  need (fC w != 0) .reserved
  pure (.vmov c d a f)

/-- The fields of `vbit` in their check order (R61). -/
def decVbit (c : Cm) (w : W64) : Except DecErr Instr := do
  let f ← IntF.dec (fF w)
  need (!(f.plain && f.isB && !f.sat && decide (f.var.toNat ≤ 4))) .badFunc
  let d ← VDst.dec (fD w)
  let a ← VSrc.dec (fA w)
  need (fB w != 0) .reserved
  need (fC w != 0) .reserved
  pure (.vbit c d a f)

/-- The fields of `vbfe` in their check order (R61). -/
def decVbfe (c : Cm) (w : W64) : Except DecErr Instr := do
  let f ← IntF.dec (fF w)
  need (!(f.plain && !f.isB && !f.sat && f.var == 0)) .badFunc
  let d ← VDst.dec (fD w)
  let a ← VSrc.dec (fA w)
  let b ← VSrc.dec (fB w)
  need (fC w != 0) .reserved
  pure (.vbfe c d a b f)

/-- The fields of `vbfi` in their check order (R61). -/
def decVbfi (c : Cm) (w : W64) : Except DecErr Instr := do
  let f ← IntF.dec (fF w)
  need (!(f.plain && f.isB && !f.sat && f.var == 0)) .badFunc
  let d ← VDst.dec (fD w)
  let a ← VSrc.dec (fA w)
  let b ← VSrc.dec (fB w)
  let e ← VSrc.dec (fC w)
  pure (.vbfi c d a b e f)

/-- The fields of `vaddc` in their check order (R61). -/
def decVaddc (c : Cm) (w : W64) : Except DecErr Instr := do
  let f ← IntF.dec (fF w)
  need (!(f.isB && !f.sat && decide (f.var.toNat ≤ 1))) .badFunc
  let d ← VDst.dec (fD w)
  let a ← VSrc.dec (fA w)
  let b ← VSrc.dec (fB w)
  need (fC w != 0) .reserved
  pure (.vaddc c d a b f)

/-- The fields of `vsubb` in their check order (R61). -/
def decVsubb (c : Cm) (w : W64) : Except DecErr Instr := do
  let f ← IntF.dec (fF w)
  need (!(f.isB && !f.sat && decide (f.var.toNat ≤ 1))) .badFunc
  let d ← VDst.dec (fD w)
  let a ← VSrc.dec (fA w)
  let b ← VSrc.dec (fB w)
  need (fC w != 0) .reserved
  pure (.vsubb c d a b f)

/-- The fields of `vdp4` in their check order (R61). -/
def decVdp4 (c : Cm) (w : W64) : Except DecErr Instr := do
  let f ← IntF.dec (fF w)
  need (!(f.plain && f.ty != .n && decide (f.var.toNat ≤ 3) && (!f.sat || f.ty == .s))) .badFunc
  let d ← VDst.dec (fD w)
  let a ← VSrc.dec (fA w)
  let b ← VSrc.dec (fB w)
  let e ← VSrc.dec (fC w)
  pure (.vdp4 c d a b e f)

/-- The fields of `vdp2` in their check order (R61). -/
def decVdp2 (c : Cm) (w : W64) : Except DecErr Instr := do
  let f ← IntF.dec (fF w)
  need (!(f.plain && f.ty != .n && decide (f.var.toNat ≤ 3) && (!f.sat || f.ty == .s))) .badFunc
  let d ← VDst.dec (fD w)
  let a ← VSrc.dec (fA w)
  let b ← VSrc.dec (fB w)
  let e ← VSrc.dec (fC w)
  pure (.vdp2 c d a b e f)

/-- The fields of `vsad` in their check order (R61). -/
def decVsad (c : Cm) (w : W64) : Except DecErr Instr := do
  let f ← IntF.dec (fF w)
  need (!(f.plain && f.isB && !f.sat && decide (f.var.toNat ≤ 1))) .badFunc
  let d ← VDst.dec (fD w)
  let a ← VSrc.dec (fA w)
  let b ← VSrc.dec (fB w)
  let e ← VSrc.dec (fC w)
  pure (.vsad c d a b e f)

/-- The fields of `vaddi` in their check order (R61). -/
def decVaddi (c : Cm) (w : W64) : Except DecErr Instr := do
  let f ← ArithI.dec (fF3 w)
  let d := fI8D w
  let a := fI8A w
  let imm := fImm w
  pure (.vaddi c d a imm f)

/-- The fields of `vandi` in their check order (R61). -/
def decVandi (c : Cm) (w : W64) : Except DecErr Instr := do
  need (fF3 w != 0) .badFunc
  let d := fI8D w
  let a := fI8A w
  let imm := fImm w
  pure (.vandi c d a imm)

/-- The fields of `vori` in their check order (R61). -/
def decVori (c : Cm) (w : W64) : Except DecErr Instr := do
  need (fF3 w != 0) .badFunc
  let d := fI8D w
  let a := fI8A w
  let imm := fImm w
  pure (.vori c d a imm)

/-- The fields of `vxori` in their check order (R61). -/
def decVxori (c : Cm) (w : W64) : Except DecErr Instr := do
  need (fF3 w != 0) .badFunc
  let d := fI8D w
  let a := fI8A w
  let imm := fImm w
  pure (.vxori c d a imm)

/-- The fields of `vshli` in their check order (R61). -/
def decVshli (c : Cm) (w : W64) : Except DecErr Instr := do
  need (fF3 w != 0) .badFunc
  let d := fI8D w
  let a := fI8A w
  let imm := fImm w
  pure (.vshli c d a imm)

/-- The fields of `vshri` in their check order (R61). -/
def decVshri (c : Cm) (w : W64) : Except DecErr Instr := do
  let f ← decShrI (fF3 w)
  let d := fI8D w
  let a := fI8A w
  let imm := fImm w
  pure (.vshri c d a imm f)

/-- The fields of `vcmpi` in their check order (R61). -/
def decVcmpi (c : Cm) (w : W64) : Except DecErr Instr := do
  let f := CmpI.dec (fF3 w)
  let d ← decPReg8 (fI8D w)
  let a := fI8A w
  let imm := fImm w
  pure (.vcmpi c d a imm f)

/-- The fields of `vmuli` in their check order (R61). -/
def decVmuli (c : Cm) (w : W64) : Except DecErr Instr := do
  let f ← ArithI.dec (fF3 w)
  let d := fI8D w
  let a := fI8A w
  let imm := fImm w
  pure (.vmuli c d a imm f)

/-- The fields of `vli` in their check order (R61). -/
def decVli (c : Cm) (w : W64) : Except DecErr Instr := do
  need (fF3 w != 0) .badFunc
  need (fI8A w != 0) .reserved
  let d := fI8D w
  let imm := fImm w
  pure (.vli c d imm)

/-- The fields of `fadd` in their check order (R61). -/
def decFadd (c : Cm) (w : W64) : Except DecErr Instr := do
  let f ← FpF.dec (fF w)
  need (!(f.plain)) .badFunc
  let d ← VDst.dec (fD w)
  let a ← VSrc.dec (fA w)
  let b ← VSrc.dec (fB w)
  need (fC w != 0) .reserved
  pure (.fadd c d a b f)

/-- The fields of `fsub` in their check order (R61). -/
def decFsub (c : Cm) (w : W64) : Except DecErr Instr := do
  let f ← FpF.dec (fF w)
  need (!(f.plain)) .badFunc
  let d ← VDst.dec (fD w)
  let a ← VSrc.dec (fA w)
  let b ← VSrc.dec (fB w)
  need (fC w != 0) .reserved
  pure (.fsub c d a b f)

/-- The fields of `fmul` in their check order (R61). -/
def decFmul (c : Cm) (w : W64) : Except DecErr Instr := do
  let f ← FpF.dec (fF w)
  need (!(f.plain)) .badFunc
  let d ← VDst.dec (fD w)
  let a ← VSrc.dec (fA w)
  let b ← VSrc.dec (fB w)
  need (fC w != 0) .reserved
  pure (.fmul c d a b f)

/-- The fields of `ffma` in their check order (R61). -/
def decFfma (c : Cm) (w : W64) : Except DecErr Instr := do
  let f ← FpF.dec (fF w)
  need (!(f.plain)) .badFunc
  let d ← VDst.dec (fD w)
  let a ← VSrc.dec (fA w)
  let b ← VSrc.dec (fB w)
  let e ← VSrc.dec (fC w)
  pure (.ffma c d a b e f)

/-- The fields of `fmin` in their check order (R61). -/
def decFmin (c : Cm) (w : W64) : Except DecErr Instr := do
  let f ← FpF.dec (fF w)
  need (!(f.plain && !f.sat && f.rnd == .rn)) .badFunc
  let d ← VDst.dec (fD w)
  let a ← VSrc.dec (fA w)
  let b ← VSrc.dec (fB w)
  need (fC w != 0) .reserved
  pure (.fmin c d a b f)

/-- The fields of `fmax` in their check order (R61). -/
def decFmax (c : Cm) (w : W64) : Except DecErr Instr := do
  let f ← FpF.dec (fF w)
  need (!(f.plain && !f.sat && f.rnd == .rn)) .badFunc
  let d ← VDst.dec (fD w)
  let a ← VSrc.dec (fA w)
  let b ← VSrc.dec (fB w)
  need (fC w != 0) .reserved
  pure (.fmax c d a b f)

/-- The fields of `fcmp` in their check order (R61). -/
def decFcmp (c : Cm) (w : W64) : Except DecErr Instr := do
  let f ← FpF.dec (fF w)
  need (!(!f.sat && f.rnd == .rn)) .badFunc
  need (fD w != 0) .reserved
  let a ← VSrc.dec (fA w)
  let b ← VSrc.dec (fB w)
  need (fC w != 0) .reserved
  pure (.fcmp c a b f)

/-- The fields of `fcls` in their check order (R61). -/
def decFcls (c : Cm) (w : W64) : Except DecErr Instr := do
  let f ← FpF.dec (fF w)
  need (!(f.var == 0 && !f.sat && f.rnd == .rn)) .badFunc
  need (fD w != 0) .reserved
  let a ← VSrc.dec (fA w)
  let b ← VSrc.dec (fB w)
  need (fC w != 0) .reserved
  pure (.fcls c a b f)

/-- The fields of `frnd` in their check order (R61). -/
def decFrnd (c : Cm) (w : W64) : Except DecErr Instr := do
  let f ← FpF.dec (fF w)
  need (!(f.plain && !f.sat)) .badFunc
  let d ← VDst.dec (fD w)
  let a ← VSrc.dec (fA w)
  need (fB w != 0) .reserved
  need (fC w != 0) .reserved
  pure (.frnd c d a f)

/-- The fields of `fsqrt` in their check order (R61). -/
def decFsqrt (c : Cm) (w : W64) : Except DecErr Instr := do
  let f ← FpF.dec (fF w)
  need (!(f.plain)) .badFunc
  let d ← VDst.dec (fD w)
  let a ← VSrc.dec (fA w)
  need (fB w != 0) .reserved
  need (fC w != 0) .reserved
  pure (.fsqrt c d a f)

/-- The fields of `fdiv` in their check order (R61). -/
def decFdiv (c : Cm) (w : W64) : Except DecErr Instr := do
  let f ← FpF.dec (fF w)
  need (!(f.plain)) .badFunc
  let d ← VDst.dec (fD w)
  let a ← VSrc.dec (fA w)
  let b ← VSrc.dec (fB w)
  need (fC w != 0) .reserved
  pure (.fdiv c d a b f)

/-- The fields of `frcp` in their check order (R61). -/
def decFrcp (c : Cm) (w : W64) : Except DecErr Instr := do
  let f ← FpF.dec (fF w)
  need (!(f.plain && !f.sat && f.rnd == .rn)) .badFunc
  let d ← VDst.dec (fD w)
  let a ← VSrc.dec (fA w)
  need (fB w != 0) .reserved
  need (fC w != 0) .reserved
  pure (.frcp c d a f)

/-- The fields of `frsq` in their check order (R61). -/
def decFrsq (c : Cm) (w : W64) : Except DecErr Instr := do
  let f ← FpF.dec (fF w)
  need (!(f.plain && !f.sat && f.rnd == .rn)) .badFunc
  let d ← VDst.dec (fD w)
  let a ← VSrc.dec (fA w)
  need (fB w != 0) .reserved
  need (fC w != 0) .reserved
  pure (.frsq c d a f)

/-- The fields of `fex2` in their check order (R61). -/
def decFex2 (c : Cm) (w : W64) : Except DecErr Instr := do
  let f ← FpF.dec (fF w)
  need (!(f.plain && !f.sat && f.rnd == .rn)) .badFunc
  let d ← VDst.dec (fD w)
  let a ← VSrc.dec (fA w)
  need (fB w != 0) .reserved
  need (fC w != 0) .reserved
  pure (.fex2 c d a f)

/-- The fields of `flg2` in their check order (R61). -/
def decFlg2 (c : Cm) (w : W64) : Except DecErr Instr := do
  let f ← FpF.dec (fF w)
  need (!(f.plain && !f.sat && f.rnd == .rn)) .badFunc
  let d ← VDst.dec (fD w)
  let a ← VSrc.dec (fA w)
  need (fB w != 0) .reserved
  need (fC w != 0) .reserved
  pure (.flg2 c d a f)

/-- The fields of `fscl` in their check order (R61). -/
def decFscl (c : Cm) (w : W64) : Except DecErr Instr := do
  let f ← FpF.dec (fF w)
  need (!(f.plain)) .badFunc
  let d ← VDst.dec (fD w)
  let a ← VSrc.dec (fA w)
  let b ← VSrc.dec (fB w)
  need (fC w != 0) .reserved
  pure (.fscl c d a b f)

/-- The fields of `hadd2` in their check order (R61). -/
def decHadd2 (c : Cm) (w : W64) : Except DecErr Instr := do
  let f ← PkF.dec (fF w)
  need (!(f.var == 0)) .badFunc
  let d ← VDst.dec (fD w)
  let a ← VSrc.dec (fA w)
  let b ← VSrc.dec (fB w)
  need (fC w != 0) .reserved
  pure (.hadd2 c d a b f)

/-- The fields of `hmul2` in their check order (R61). -/
def decHmul2 (c : Cm) (w : W64) : Except DecErr Instr := do
  let f ← PkF.dec (fF w)
  need (!(f.var == 0)) .badFunc
  let d ← VDst.dec (fD w)
  let a ← VSrc.dec (fA w)
  let b ← VSrc.dec (fB w)
  need (fC w != 0) .reserved
  pure (.hmul2 c d a b f)

/-- The fields of `hfma2` in their check order (R61). -/
def decHfma2 (c : Cm) (w : W64) : Except DecErr Instr := do
  let f ← PkF.dec (fF w)
  need (!(f.var == 0)) .badFunc
  let d ← VDst.dec (fD w)
  let a ← VSrc.dec (fA w)
  let b ← VSrc.dec (fB w)
  let e ← VSrc.dec (fC w)
  pure (.hfma2 c d a b e f)

/-- The fields of `hmin2` in their check order (R61). -/
def decHmin2 (c : Cm) (w : W64) : Except DecErr Instr := do
  let f ← PkF.dec (fF w)
  need (!(f.var == 0 && !f.sat && f.rnd == .rn)) .badFunc
  let d ← VDst.dec (fD w)
  let a ← VSrc.dec (fA w)
  let b ← VSrc.dec (fB w)
  need (fC w != 0) .reserved
  pure (.hmin2 c d a b f)

/-- The fields of `hmax2` in their check order (R61). -/
def decHmax2 (c : Cm) (w : W64) : Except DecErr Instr := do
  let f ← PkF.dec (fF w)
  need (!(f.var == 0 && !f.sat && f.rnd == .rn)) .badFunc
  let d ← VDst.dec (fD w)
  let a ← VSrc.dec (fA w)
  let b ← VSrc.dec (fB w)
  need (fC w != 0) .reserved
  pure (.hmax2 c d a b f)

/-- The fields of `hcmp2` in their check order (R61). -/
def decHcmp2 (c : Cm) (w : W64) : Except DecErr Instr := do
  let f ← PkF.dec (fF w)
  need (!(!f.sat && f.rnd == .rn)) .badFunc
  let d ← VDst.dec (fD w)
  let a ← VSrc.dec (fA w)
  let b ← VSrc.dec (fB w)
  need (fC w != 0) .reserved
  pure (.hcmp2 c d a b f)

/-- The fields of `hdot2` in their check order (R61). -/
def decHdot2 (c : Cm) (w : W64) : Except DecErr Instr := do
  let f ← PkF.dec (fF w)
  need (!(f.var == 0 && !f.sat)) .badFunc
  let d ← VDst.dec (fD w)
  let a ← VSrc.dec (fA w)
  let b ← VSrc.dec (fB w)
  let e ← VSrc.dec (fC w)
  pure (.hdot2 c d a b e f)

/-- The fields of `cvt` in their check order (R61). -/
def decCvt (c : Cm) (w : W64) : Except DecErr Instr := do
  let f ← CvtF.dec (fF w)
  need (!(f.ok)) .badFunc
  let d ← VDst.dec (fD w)
  let a ← VSrc.dec (fA w)
  need (fB w != 0) .reserved
  need (fC w != 0) .reserved
  pure (.cvt c d a f)

/-- The fields of `cvtn` in their check order (R61). -/
def decCvtn (c : Cm) (w : W64) : Except DecErr Instr := do
  let f ← CvtnF.dec (fF w)
  let d ← VDst.dec (fD w)
  let a ← VSrc.dec (fA w)
  let b ← VSrc.dec (fB w)
  let sc ← decOptV (w.getLsbD 4) (fC w)
  pure (.cvtn c d a b sc f)

/-- The fields of `pack` in their check order (R61). -/
def decPack (c : Cm) (w : W64) : Except DecErr Instr := do
  let f ← PackF.dec (fF w)
  need (!(f.ok)) .badFunc
  let d ← VDst.dec (fD w)
  let a ← VSrc.dec (fA w)
  let b ← VSrc.dec (fB w)
  need (fC w != 0) .reserved
  pure (.pack c d a b f)

/-- The fields of `shfl` in their check order (R61). -/
def decShfl (c : Cm) (w : W64) : Except DecErr Instr := do
  let f ← ShflF.dec (fF w)
  need (!(f.ok)) .badFunc
  let d ← VDst.dec (fD w)
  let a ← VSrc.dec (fA w)
  let b ← VSrc.dec (fB w)
  let e ← VSrc.dec (fC w)
  pure (.shfl c d a b e f)

/-- The fields of `vred` in their check order (R61). -/
def decVred (c : Cm) (w : W64) : Except DecErr Instr := do
  let f ← RedF.dec (fF w)
  need (!(f.ok && !f.excl)) .badFunc
  let d ← VDst.dec (fD w)
  let a ← VSrc.dec (fA w)
  need (fB w != 0) .reserved
  need (fC w != 0) .reserved
  pure (.vred c d a f)

/-- The fields of `vscan` in their check order (R61). -/
def decVscan (c : Cm) (w : W64) : Except DecErr Instr := do
  let f ← RedF.dec (fF w)
  need (!(f.ok)) .badFunc
  let d ← VDst.dec (fD w)
  let a ← VSrc.dec (fA w)
  need (fB w != 0) .reserved
  need (fC w != 0) .reserved
  pure (.vscan c d a f)

/-- The fields of `pand` in their check order (R61). -/
def decPand (c : Cm) (w : W64) : Except DecErr Instr := do
  let f ← NotF.dec (fF w)
  let d ← decPReg (fD w)
  let a ← decPReg (fA w)
  let b ← decPReg (fB w)
  need (fC w != 0) .reserved
  pure (.pand c d a b f)

/-- The fields of `por` in their check order (R61). -/
def decPor (c : Cm) (w : W64) : Except DecErr Instr := do
  let f ← NotF.dec (fF w)
  let d ← decPReg (fD w)
  let a ← decPReg (fA w)
  let b ← decPReg (fB w)
  need (fC w != 0) .reserved
  pure (.por c d a b f)

/-- The fields of `pxor` in their check order (R61). -/
def decPxor (c : Cm) (w : W64) : Except DecErr Instr := do
  let f ← NotF.dec (fF w)
  let d ← decPReg (fD w)
  let a ← decPReg (fA w)
  let b ← decPReg (fB w)
  need (fC w != 0) .reserved
  pure (.pxor c d a b f)

/-- The fields of `pnot` in their check order (R61). -/
def decPnot (c : Cm) (w : W64) : Except DecErr Instr := do
  need (fF w != 0) .badFunc
  let d ← decPReg (fD w)
  let a ← decPReg (fA w)
  need (fB w != 0) .reserved
  need (fC w != 0) .reserved
  pure (.pnot c d a)

/-- The fields of `pmov` in their check order (R61). -/
def decPmov (c : Cm) (w : W64) : Except DecErr Instr := do
  need (decide (3 < (w.extractLsb' 5 3).toNat) || (w.extractLsb' 0 5) != 0 || (w.extractLsb' 8 3) != 0) .badFunc
  need (fB w != 0 || fC w != 0) .reserved
  let k ← PmovK.dec (w.extractLsb' 5 3) (fD w) (fA w)
  pure (.pmov c k)

/-- The fields of `v2s` in their check order (R61). -/
def decV2s (c : Cm) (w : W64) : Except DecErr Instr := do
  need (fF w != 0 && fF w != 0x20) .badFunc
  need (fC w != 0) .reserved
  let d ← decSReg (fD w)
  let a ← VSrc.dec (fA w)
  let b ← decOptS (fF w == 0) (fB w)
  pure (.v2s c d a b)

/-- The fields of `vins` in their check order (R61). -/
def decVins (c : Cm) (w : W64) : Except DecErr Instr := do
  need (fF w != 0) .badFunc
  let d ← VDst.dec (fD w)
  let a ← VSrc.dec (fA w)
  let b ← SSrc.dec (fB w)
  need (fC w != 0) .reserved
  pure (.vins c d a b)

/-- The fields of `ld` in their check order (R61). -/
def decLd (c : Cm) (w : W64) : Except DecErr Instr := do
  let f ← LdF.dec (fF7 w)
  need (!(f.scpOk)) .badFunc
  let d ← VDst.dec (fD w)
  let a ← GAddr.dec (fA w)
  pure (.ld c d a f (fOff w))

/-- The fields of `st` in their check order (R61). -/
def decSt (c : Cm) (w : W64) : Except DecErr Instr := do
  let f ← LdF.dec (fF7 w)
  need (!(f.scpOk && f.sz.storeOk)) .badFunc
  let d ← VSrc.decData f.sz (fD w)
  let a ← GAddr.dec (fA w)
  pure (.st c d a f (fOff w))

/-- The fields of `lds` in their check order (R61). -/
def decLds (c : Cm) (w : W64) : Except DecErr Instr := do
  let f ← LdF.dec (fF7 w)
  need (!(f.scp == 0 && !f.spc)) .badFunc
  let d ← VDst.dec (fD w)
  let a ← VSrc.dec (fA w)
  pure (.lds c d a f (fOff w))

/-- The fields of `sts` in their check order (R61). -/
def decSts (c : Cm) (w : W64) : Except DecErr Instr := do
  let f ← LdF.dec (fF7 w)
  need (!(f.scp == 0 && !f.spc && f.sz.storeOk)) .badFunc
  let d ← VSrc.decData f.sz (fD w)
  let a ← VSrc.dec (fA w)
  pure (.sts c d a f (fOff w))

/-- The fields of `ldc` in their check order (R61). -/
def decLdc (c : Cm) (w : W64) : Except DecErr Instr := do
  let f ← LdF.dec (fF7 w)
  need (!(f.scpOk && !f.spc)) .badFunc
  let d ← VDst.dec (fD w)
  let a ← VSrc.dec (fA w)
  pure (.ldc c d a f (fOff w))

/-- The fields of `stc` in their check order (R61). -/
def decStc (c : Cm) (w : W64) : Except DecErr Instr := do
  let f ← LdF.dec (fF7 w)
  need (!(f.scpOk && !f.spc && f.sz.storeOk)) .badFunc
  let d ← VSrc.decData f.sz (fD w)
  let a ← VSrc.dec (fA w)
  pure (.stc c d a f (fOff w))

/-- The fields of `sld` in their check order (R61). -/
def decSld (c : Cm) (w : W64) : Except DecErr Instr := do
  let f ← LdF.dec (fF7 w)
  need (!(f.scpOk && f.sz != .b128 && (!f.spc || f.scp == 0))) .badFunc
  let d ← decSSized (f.sz == .b64) (fD w)
  let a ← SAddr.dec f.spc (fA w)
  pure (.sld c d a f (fOff w))

/-- The fields of `sst` in their check order (R61). -/
def decSst (c : Cm) (w : W64) : Except DecErr Instr := do
  let f ← LdF.dec (fF7 w)
  need (!(f.scpOk && f.sz.storeOk && f.sz != .b128 && (!f.spc || f.scp == 0))) .badFunc
  let d ← SSrc.decSized (f.sz == .b64) (fD w)
  let a ← SAddr.dec f.spc (fA w)
  pure (.sst c d a f (fOff w))

/-- The fields of `pf` in their check order (R61). -/
def decPf (c : Cm) (w : W64) : Except DecErr Instr := do
  need (fF7 w != 0 && fF7 w != 8) .badFunc
  need (fD w != 0) .reserved
  let a ← GAddr.dec (fA w)
  pure (.pf c a (fF7 w == 8) (fOff w))

/-- The fields of `seal` in their check order (R61). -/
def decSeal (c : Cm) (w : W64) : Except DecErr Instr := do
  need (fF7 w != 0) .badFunc
  need (fD w != 0) .reserved
  let a ← GAddr.dec (fA w)
  pure (.seal c a (fOff w))

/-- The fields of `unseal` in their check order (R61). -/
def decUnseal (c : Cm) (w : W64) : Except DecErr Instr := do
  need (fF7 w != 0) .badFunc
  need (fD w != 0) .reserved
  let a ← GAddr.dec (fA w)
  pure (.unseal c a (fOff w))

/-- The fields of `atom` in their check order (R61). -/
def decAtom (c : Cm) (w : W64) : Except DecErr Instr := do
  let f ← AtF.dec (fF7 w)
  need (!(f.oprOk)) .badFunc
  let d ← VDst.dec (fD w)
  let a ← GAddr.dec (fA w)
  pure (.atom c d a f (fOff w))

/-- The fields of `acas` in their check order (R61). -/
def decAcas (c : Cm) (w : W64) : Except DecErr Instr := do
  let f ← AtF.dec (fF7 w)
  need (!(f.opr == 0)) .badFunc
  let d ← VDst.dec (fD w)
  let a ← GAddr.dec (fA w)
  pure (.acas c d a f (fOff w))

/-- The fields of `red` in their check order (R61). -/
def decRed (c : Cm) (w : W64) : Except DecErr Instr := do
  let f ← AtF.dec (fF7 w)
  need (!(f.oprOk && !f.opn)) .badFunc
  let d ← VSrc.decData (if f.w64 then .b64 else .b32) (fD w)
  let a ← GAddr.dec (fA w)
  pure (.red c d a f (fOff w))

/-- The fields of `redb` in their check order (R61). -/
def decRedb (c : Cm) (w : W64) : Except DecErr Instr := do
  let f ← AtF.dec (fF7 w)
  need (!(f.oprOk && f.combinable && !f.opn)) .badFunc
  let d ← VSrc.decData (if f.w64 then .b64 else .b32) (fD w)
  let a ← GAddr.dec (fA w)
  pure (.redb c d a f (fOff w))

/-- The fields of `satom` in their check order (R61). -/
def decSatom (c : Cm) (w : W64) : Except DecErr Instr := do
  let f ← AtF.dec (fF7 w)
  need (!(f.oprOk)) .badFunc
  let d ← decSSized f.w64 (fD w)
  let a ← decSEven (fA w)
  pure (.satom c d a f (fOff w))

/-- The fields of `phase` in their check order (R61). -/
def decPhase (c : Cm) (w : W64) : Except DecErr Instr := do
  need (!(scopeOk (w.extractLsb' 8 3))) .badFunc
  need (!(w.getLsbD 1) && !(w.getLsbD 0)) .badFunc
  need ((w.extractLsb' 11 40) != 0 || (w.extractLsb' 2 6) != 0) .reserved
  pure (.phase c (w.extractLsb' 8 3) (w.getLsbD 1) (w.getLsbD 0))

/-- The fields of `wait` in their check order (R61). -/
def decWait (c : Cm) (w : W64) : Except DecErr Instr := do
  let cond ← WCond.dec (w.extractLsb' 8 3)
  need ((w.extractLsb' 3 4) != 0) .reserved
  let d ← decSReg (fD w)
  let a ← decSEven (fA w)
  let b ← SSrc.dec (fB w)
  let t ← SSrc.dec (fC w)
  pure (.wait c (w.extractLsb' 0 3) d a b t cond (w.getLsbD 7))

/-- The fields of `lda` in their check order (R61). -/
def decLda (c : Cm) (w : W64) : Except DecErr Instr := do
  let f ← AtF.dec (fF7 w)
  need (!(f.opr == 0 && !f.cls)) .badFunc
  let d ← VDst.dec (fD w)
  let a ← GAddr.dec (fA w)
  pure (.lda c d a f (fOff w))

/-- The fields of `barInitLane` in their check order (R61). -/
def decBarInitLane (c : Cm) (w : W64) : Except DecErr Instr := do
  let f ← BarF.dec (fF w)
  need (f.var != 0 || f.gl || f.pq != 0) .badFunc
  need (fD w != 0) .reserved
  let a ← SSrc.dec (fA w)
  let b ← SSrc.dec (fB w)
  need (fC w != 0) .reserved
  pure (.barInitLane c a b)

/-- The fields of `barInitByte` in their check order (R61). -/
def decBarInitByte (c : Cm) (w : W64) : Except DecErr Instr := do
  let f ← BarF.dec (fF w)
  need (f.var != 1 || f.gl || f.pq != 0) .badFunc
  need (fD w != 0) .reserved
  let a ← SSrc.dec (fA w)
  let b ← SSrc.dec (fB w)
  need (fC w != 0) .reserved
  pure (.barInitByte c a b)

/-- The fields of `barInitChunk` in their check order (R61). -/
def decBarInitChunk (c : Cm) (w : W64) : Except DecErr Instr := do
  let f ← BarF.dec (fF w)
  need (f.var != 2 || f.gl || f.pq != 0) .badFunc
  need (fD w != 0) .reserved
  let a ← SSrc.dec (fA w)
  need (fB w != 0) .reserved
  need (fC w != 0) .reserved
  pure (.barInitChunk c a)

/-- The fields of `barArrLane` in their check order (R61). -/
def decBarArrLane (c : Cm) (w : W64) : Except DecErr Instr := do
  let f ← BarF.dec (fF w)
  need (f.var != 0 || f.gl || f.pq != 0) .badFunc
  let d ← decSReg (fD w)
  let a ← SSrc.dec (fA w)
  need (fB w != 0) .reserved
  need (fC w != 0) .reserved
  pure (.barArrLane c d a)

/-- The fields of `barArrByte` in their check order (R61). -/
def decBarArrByte (c : Cm) (w : W64) : Except DecErr Instr := do
  let f ← BarF.dec (fF w)
  need (f.var != 1 || f.gl || f.pq != 0) .badFunc
  need (fD w != 0) .reserved
  let a ← SSrc.dec (fA w)
  let b ← SSrc.dec (fB w)
  let e ← SSrc.dec (fC w)
  pure (.barArrByte c a b e)

/-- The fields of `barWait` in their check order (R61). -/
def decBarWait (c : Cm) (w : W64) : Except DecErr Instr := do
  let f ← BarF.dec (fF w)
  need (f.var != 0 || f.pq != 0) .badFunc
  need (fD w != 0) .reserved
  let a ← SSrc.dec (fA w)
  let b ← SSrc.dec (fB w)
  need (fC w != 0) .reserved
  pure (.barWait c a b f.gl)

/-- The fields of `barSync` in their check order (R61). -/
def decBarSync (c : Cm) (w : W64) : Except DecErr Instr := do
  let f ← BarF.dec (fF w)
  need (f.var != 0 || f.pq != 0) .badFunc
  need (fD w != 0) .reserved
  let a ← SSrc.dec (fA w)
  need (fB w != 0) .reserved
  need (fC w != 0) .reserved
  pure (.barSync c a f.gl)

/-- The fields of `barExp` in their check order (R61). -/
def decBarExp (c : Cm) (w : W64) : Except DecErr Instr := do
  let f ← BarF.dec (fF w)
  need (f.var != 0 || f.gl || f.pq != 0) .badFunc
  let d ← decSReg (fD w)
  let a ← SSrc.dec (fA w)
  let b ← SSrc.dec (fB w)
  let e ← SSrc.dec (fC w)
  pure (.barExp c d a b e)

/-- The fields of `barWd` in their check order (R61). -/
def decBarWd (c : Cm) (w : W64) : Except DecErr Instr := do
  let f ← BarF.dec (fF w)
  need (f.var != 0 || f.gl || f.pq != 0) .badFunc
  need (fD w != 0) .reserved
  need (fA w != 0) .reserved
  need (fB w != 0) .reserved
  need (fC w != 0) .reserved
  pure (.barWd c)

/-- The fields of `barRd` in their check order (R61). -/
def decBarRd (c : Cm) (w : W64) : Except DecErr Instr := do
  let f ← BarF.dec (fF w)
  need (f.var != 0 || f.gl || f.pq != 0) .badFunc
  let d ← decSReg (fD w)
  let a ← SSrc.dec (fA w)
  let b ← SSrc.dec (fB w)
  need (fC w != 0) .reserved
  pure (.barRd c d a b)

/-- The fields of `cmapWait` in their check order (R61). -/
def decCmapWait (c : Cm) (w : W64) : Except DecErr Instr := do
  let f ← BarF.dec (fF w)
  need (f.var != 0 || f.gl || f.pq != 0) .badFunc
  need (fD w != 0) .reserved
  let a ← SSrc.dec (fA w)
  let b ← SPair.dec (fB w)
  need (fC w != 0) .reserved
  pure (.cmapWait c a b)

/-- The fields of `cmapTest` in their check order (R61). -/
def decCmapTest (c : Cm) (w : W64) : Except DecErr Instr := do
  let f ← BarF.dec (fF w)
  need (f.var != 0 || f.gl) .badFunc
  need (fD w != 0) .reserved
  let a ← SSrc.dec (fA w)
  let b ← SPair.dec (fB w)
  need (fC w != 0) .reserved
  pure (.cmapTest c f.pq a b)

/-- The fields of `cmapClr` in their check order (R61). -/
def decCmapClr (c : Cm) (w : W64) : Except DecErr Instr := do
  let f ← BarF.dec (fF w)
  need (f.var != 0 || f.gl || f.pq != 0) .badFunc
  need (fD w != 0) .reserved
  let a ← SSrc.dec (fA w)
  let b ← SPair.dec (fB w)
  need (fC w != 0) .reserved
  pure (.cmapClr c a b)

/-- The fields of `cbar` in their check order (R61). -/
def decCbar (c : Cm) (w : W64) : Except DecErr Instr := do
  let f ← BarF.dec (fF w)
  need (f.var != 0 || f.pq != 0) .badFunc
  need (fD w != 0) .reserved
  let a ← SSrc.dec (fA w)
  need (fB w != 0) .reserved
  need (fC w != 0) .reserved
  pure (.cbar c a f.gl)

/-- The fields of `cpTile` in their check order (R61). -/
def decCpTile (c : Cm) (w : W64) : Except DecErr Instr := do
  need (fF w != 0) .reserved
  let rec ← decSEven (fD w)
  let spo ← SSrc.dec (fB w)
  let slot ← SSrc.dec (fC w)
  let crd ← decCrd (fA w)
  pure (.cpTile c rec crd spo slot)

/-- The fields of `cpTileThen` in their check order (R61). -/
def decCpTileThen (c : Cm) (w : W64) : Except DecErr Instr := do
  need (fF w != 1) .reserved
  let rec ← decSEven (fD w)
  let spo ← SSrc.dec (fB w)
  let slot ← SSrc.dec (fC w)
  let crd ← decCrd (fA w)
  pure (.cpTileThen c rec crd spo slot)

/-- The fields of `cpTilest` in their check order (R61). -/
def decCpTilest (c : Cm) (w : W64) : Except DecErr Instr := do
  need (fF w != 0) .reserved
  let rec ← decSEven (fD w)
  let spo ← SSrc.dec (fB w)
  let slot ← SSrc.dec (fC w)
  let crd ← decCrd (fA w)
  pure (.cpTilest c rec crd spo slot)

/-- The fields of `cpGat` in their check order (R61). -/
def decCpGat (c : Cm) (w : W64) : Except DecErr Instr := do
  need (w.getLsbD 0) .reserved
  let msk ← decSEven (w.extractLsb' 1 10)
  let rec ← decSEven (fD w)
  let spo ← SSrc.dec (fB w)
  let slot ← SSrc.dec (fC w)
  let crd ← decCrd (fA w)
  pure (.cpGat c rec crd spo slot msk)

/-- The fields of `cpSca` in their check order (R61). -/
def decCpSca (c : Cm) (w : W64) : Except DecErr Instr := do
  need (w.getLsbD 0) .reserved
  let msk ← decSEven (w.extractLsb' 1 10)
  let rec ← decSEven (fD w)
  let spo ← SSrc.dec (fB w)
  let slot ← SSrc.dec (fC w)
  let crd ← decCrd (fA w)
  pure (.cpSca c rec crd spo slot msk)

/-- The fields of `cpLin` in their check order (R61). -/
def decCpLin (c : Cm) (w : W64) : Except DecErr Instr := do
  let dir ← LinDir.dec (w.extractLsb' 0 3)
  need ((w.extractLsb' 3 8) != 0) .reserved
  let dst ← CpEnd.dec dir.dstGlobal (fD w)
  let src ← CpEnd.dec dir.srcGlobal (fA w)
  let len ← SSrc.dec (fB w)
  let slot ← SSrc.dec (fC w)
  pure (.cpLin c dst src len slot dir)

/-- The fields of `recFence` in their check order (R61). -/
def decRecFence (c : Cm) (w : W64) : Except DecErr Instr := do
  need (fF w != 0) .reserved
  let a ← decSEven (fD w)
  need (fA w != 0) .reserved
  need (fB w != 0) .reserved
  need (fC w != 0) .reserved
  pure (.recFence c a)

/-- The fields of `mx` in their check order (R61). -/
def decMx (c : Cm) (w : W64) : Except DecErr Instr := do
  need ((w.extractLsb' 41 3) != 0 || (w.extractLsb' 3 7) != 0 || w.getLsbD 0) .reserved
  let spa ← SSrc.dec (fA w)
  pure (.mx c (w.extractLsb' 47 4) (w.extractLsb' 44 3) spa (w.extractLsb' 28 3) (w.extractLsb' 26 2) (w.extractLsb' 10 16) (w.getLsbD 2) (w.getLsbD 1))

/-- The fields of `mxLdb` in their check order (R61). -/
def decMxLdb (c : Cm) (w : W64) : Except DecErr Instr := do
  need ((w.extractLsb' 41 4) != 0 || (w.extractLsb' 26 5) != 0 || (w.extractLsb' 0 10) != 0) .reserved
  let spb ← SSrc.dec (fA w)
  pure (.mxLdb c (w.extractLsb' 48 3) (w.extractLsb' 45 3) spb (w.extractLsb' 10 16))

/-- The fields of `mxZero` in their check order (R61). -/
def decMxZero (c : Cm) (w : W64) : Except DecErr Instr := do
  need ((w.extractLsb' 0 47) != 0) .reserved
  pure (.mxZero c (w.extractLsb' 47 4))

/-- The fields of `mxRd` in their check order (R61). -/
def decMxRd (c : Cm) (w : W64) : Except DecErr Instr := do
  need ((w.extractLsb' 31 6) != 0 || (w.extractLsb' 0 21) != 0) .reserved
  let d ← VDst.dec (fD w)
  let row ← SSrc.dec (fB w)
  pure (.mxRd c d (w.extractLsb' 37 4) row)

/-- The fields of `mxWr` in their check order (R61). -/
def decMxWr (c : Cm) (w : W64) : Except DecErr Instr := do
  need ((w.extractLsb' 41 6) != 0 || (w.extractLsb' 0 21) != 0) .reserved
  let a ← VDst.dec (fA w)
  let row ← SSrc.dec (fB w)
  pure (.mxWr c (w.extractLsb' 47 4) row a)

/-- The fields of `mxSt` in their check order (R61). -/
def decMxSt (c : Cm) (w : W64) : Except DecErr Instr := do
  let cv := MxCv.dec (w.extractLsb' 9 2)
  let rnd := Rnd.dec (w.extractLsb' 6 2)
  need ((w.getLsbD 8 && cv != .e4m3) || (rnd != .rn && cv == .f32)) .badFunc
  need ((w.extractLsb' 41 6) != 0 || (w.extractLsb' 0 6) != 0) .reserved
  let spd ← SSrc.dec (fA w)
  let str ← SSrc.dec (fB w)
  let sco ← decOptS (w.getLsbD 8) (fC w)
  pure (.mxSt c (w.extractLsb' 47 4) spd str sco cv rnd)

/-- The fields of `mxBatch` in their check order (R61). -/
def decMxBatch (c : Cm) (w : W64) : Except DecErr Instr := do
  need (fF w != 0) .reserved
  let d ← decSReg (fD w)
  need (fA w != 0) .reserved
  need (fB w != 0) .reserved
  need (fC w != 0) .reserved
  pure (.mxBatch c d)

/-- The fields of `mxWait` in their check order (R61). -/
def decMxWait (c : Cm) (w : W64) : Except DecErr Instr := do
  need ((w.extractLsb' 5 46) != 0) .reserved
  pure (.mxWait c (w.extractLsb' 0 5))

/-- The fields of `fdl` in their check order (R61). -/
def decFdl (c : Cm) (w : W64) : Except DecErr Instr := do
  need ((w.extractLsb' 41 7) != 0 || fRest w != 0) .reserved
  let a ← SPair.dec (fA w)
  pure (.fdl c (w.extractLsb' 48 3) a)

/-- The fields of `mxStat` in their check order (R61). -/
def decMxStat (c : Cm) (w : W64) : Except DecErr Instr := do
  need (decide (24 < (fSys w).toNat)) .badFunc
  need (fA w != 0 || (w.extractLsb' 0 23) != 0) .reserved
  let d ← decSReg (fD w)
  pure (.mxStat c d (fSys w))

/-- The fields of `klaunch` in their check order (R61). -/
def decKlaunch (c : Cm) (w : W64) : Except DecErr Instr := do
  need (fF w != 0) .reserved
  let d ← decSReg (fD w)
  let a ← decSEven (fA w)
  need (fB w != 0) .reserved
  need (fC w != 0) .reserved
  pure (.klaunch c d a)

/-- The fields of `rgn` in their check order (R61). -/
def decRgn (c : Cm) (w : W64) : Except DecErr Instr := do
  need ((w.extractLsb' 3 48) != 0) .reserved
  pure (.rgn c (w.extractLsb' 0 3))

/-- The fields of `ckacc` in their check order (R61). -/
def decCkacc (c : Cm) (w : W64) : Except DecErr Instr := do
  need (fF w != 0) .badFunc
  need (fD w != 0 || fB w != 0 || fC w != 0) .reserved
  let a ← VSrc.dec (fA w)
  pure (.ckacc c a)

/-- The fields of `ckaccClr` in their check order (R61). -/
def decCkaccClr (c : Cm) (w : W64) : Except DecErr Instr := do
  need (fF w != 0x20) .badFunc
  need (fD w != 0 || fA w != 0 || fB w != 0 || fC w != 0) .reserved
  pure (.ckaccClr c)

/-- The fields of `chk` in their check order (R61). -/
def decChk (c : Cm) (w : W64) : Except DecErr Instr := do
  need (fD w != 0 || (w.extractLsb' 1 30) != 0) .reserved
  let a ← SPair.dec (fA w)
  pure (.chk c a (w.getLsbD 0))

/-- The fields of `memhintCompute` in their check order (R61). -/
def decMemhintCompute (c : Cm) (w : W64) : Except DecErr Instr := do
  need ((w.extractLsb' 0 3) != 0) .badFunc
  need (fD w != 0 || (w.extractLsb' 3 28) != 0) .reserved
  let a ← SSrc.dec (fA w)
  pure (.memhintCompute c a)

/-- The fields of `pgInvalPage` in their check order (R61). -/
def decPgInvalPage (c : Cm) (w : W64) : Except DecErr Instr := do
  need ((w.extractLsb' 3 18) != 0) .reserved
  let d ← decSReg (fD w)
  let a ← SPair.dec (fA w)
  let b ← SSrc.dec (fB w)
  pure (.pgInvalPage c d a b)

/-- The fields of `pgInvalAsid` in their check order (R61). -/
def decPgInvalAsid (c : Cm) (w : W64) : Except DecErr Instr := do
  need ((w.extractLsb' 3 18) != 0) .reserved
  need (fA w != 0) .reserved
  let d ← decSReg (fD w)
  let b ← SSrc.dec (fB w)
  pure (.pgInvalAsid c d b)

/-- The fields of `pgInvalAll` in their check order (R61). -/
def decPgInvalAll (c : Cm) (w : W64) : Except DecErr Instr := do
  need ((w.extractLsb' 3 18) != 0) .reserved
  need (fA w != 0 || fB w != 0) .reserved
  let d ← decSReg (fD w)
  pure (.pgInvalAll c d)

/-- The fields of `psyswCreate` in their check order (R61). -/
def decPsyswCreate (c : Cm) (w : W64) : Except DecErr Instr := do
  need ((w.extractLsb' 0 13) != 0) .reserved
  let d ← decSReg (fD w)
  let a ← SSrc.dec (fA w)
  let b ← SPair.dec (fB w)
  pure (.psyswCreate c d a b)

/-- The fields of `psyswPreempt` in their check order (R61). -/
def decPsyswPreempt (c : Cm) (w : W64) : Except DecErr Instr := do
  need ((w.extractLsb' 0 13) != 0) .reserved
  let d ← decSReg (fD w)
  let a ← SSrc.dec (fA w)
  let b ← SPair.dec (fB w)
  pure (.psyswPreempt c d a b)

/-- The fields of `psyswRestore` in their check order (R61). -/
def decPsyswRestore (c : Cm) (w : W64) : Except DecErr Instr := do
  need ((w.extractLsb' 0 13) != 0) .reserved
  let d ← decSReg (fD w)
  let a ← SSrc.dec (fA w)
  let b ← SPair.dec (fB w)
  pure (.psyswRestore c d a b)

/-- The fields of `psyswDestroy` in their check order (R61). -/
def decPsyswDestroy (c : Cm) (w : W64) : Except DecErr Instr := do
  need ((w.extractLsb' 0 13) != 0) .reserved
  let d ← decSReg (fD w)
  let a ← SSrc.dec (fA w)
  let b ← SPair.dec (fB w)
  pure (.psyswDestroy c d a b)

/-- The fields of `psyswSetdl` in their check order (R61). -/
def decPsyswSetdl (c : Cm) (w : W64) : Except DecErr Instr := do
  need ((w.extractLsb' 0 13) != 0) .reserved
  let d ← decSReg (fD w)
  let a ← SSrc.dec (fA w)
  let b ← SPair.dec (fB w)
  pure (.psyswSetdl c d a b)

/-- The fields of `qctlOpen` in their check order (R61). -/
def decQctlOpen (c : Cm) (w : W64) : Except DecErr Instr := do
  need ((w.extractLsb' 0 13) != 0) .reserved
  let d ← decSReg (fD w)
  let a ← SSrc.dec (fA w)
  let b ← SPair.dec (fB w)
  pure (.qctlOpen c d a b)

/-- The fields of `qctlPause` in their check order (R61). -/
def decQctlPause (c : Cm) (w : W64) : Except DecErr Instr := do
  need ((w.extractLsb' 0 13) != 0) .reserved
  let d ← decSReg (fD w)
  let a ← SSrc.dec (fA w)
  let b ← SPair.dec (fB w)
  pure (.qctlPause c d a b)

/-- The fields of `qctlResume` in their check order (R61). -/
def decQctlResume (c : Cm) (w : W64) : Except DecErr Instr := do
  need ((w.extractLsb' 0 13) != 0) .reserved
  let d ← decSReg (fD w)
  let a ← SSrc.dec (fA w)
  let b ← SPair.dec (fB w)
  pure (.qctlResume c d a b)

/-- The fields of `qctlDrain` in their check order (R61). -/
def decQctlDrain (c : Cm) (w : W64) : Except DecErr Instr := do
  need ((w.extractLsb' 0 13) != 0) .reserved
  let d ← decSReg (fD w)
  let a ← SSrc.dec (fA w)
  let b ← SPair.dec (fB w)
  pure (.qctlDrain c d a b)

/-- The fields of `qctlFlush` in their check order (R61). -/
def decQctlFlush (c : Cm) (w : W64) : Except DecErr Instr := do
  need ((w.extractLsb' 0 13) != 0) .reserved
  let d ← decSReg (fD w)
  let a ← SSrc.dec (fA w)
  let b ← SPair.dec (fB w)
  pure (.qctlFlush c d a b)

/-- The decoders of opcodes 0x00 to 0x0F; `none` is an unassigned opcode (Table 2.13). -/
def decRow0 (lo : Nat) (c : Cm) (w : W64) (w1 : Option W64) : Option (Except DecErr Instr) :=
  match lo with
  | 0 => some (decNop c w)
  | 1 => some (decBra c w)
  | 2 => some (decBrm c w w1)
  | 3 => some (decBrx c w)
  | 4 => some (decCall c w)
  | 5 => some (decCallx c w)
  | 6 => some (decRet c w)
  | 7 => some (decExit c w)
  | 8 => some (decWsync c w)
  | 9 => some (decYield c w)
  | 10 => some (decSleep c w)
  | 11 => some (decElect c w)
  | 12 => some (decVote c w)
  | 13 => some (decTrap c w)
  | 14 => some (decBrk c w)
  | 15 => some (decTret c w)
  | _ => none

/-- The decoders of opcodes 0x10 to 0x1F; `none` is an unassigned opcode (Table 2.13). -/
def decRow1 (lo : Nat) (c : Cm) (w : W64) (w1 : Option W64) : Option (Except DecErr Instr) :=
  match lo with
  | 0 => some (decSplInfo c w)
  | 1 => some (decFragList c w)
  | 2 => some (decFragRead c w)
  | 3 => some (decFragResume c w)
  | 4 => some (decFragKill c w)
  | 5 => some (decFragPatch c w)
  | 6 => some (decSread c w)
  | 7 => some (decSwrite c w)
  | 8 => some (decCapRd c w)
  | 9 => some (decVread c w)
  | _ => none

/-- The decoders of opcodes 0x20 to 0x2F; `none` is an unassigned opcode (Table 2.13). -/
def decRow2 (lo : Nat) (c : Cm) (w : W64) (w1 : Option W64) : Option (Except DecErr Instr) :=
  match lo with
  | 0 => some (decSadd c w)
  | 1 => some (decSsub c w)
  | 2 => some (decSmul c w)
  | 3 => some (decSmad c w)
  | 4 => some (decSand c w)
  | 5 => some (decSor c w)
  | 6 => some (decSxor c w)
  | 7 => some (decSshl c w)
  | 8 => some (decSshr c w)
  | 9 => some (decSmin c w)
  | 10 => some (decSmax c w)
  | 11 => some (decScmp c w)
  | 12 => some (decSsel c w)
  | 13 => some (decSmov c w)
  | 14 => some (decSbit c w)
  | 15 => some (decSdiv c w)
  | _ => none

/-- The decoders of opcodes 0x30 to 0x3F; `none` is an unassigned opcode (Table 2.13). -/
def decRow3 (lo : Nat) (c : Cm) (w : W64) (w1 : Option W64) : Option (Except DecErr Instr) :=
  match lo with
  | 0 => some (decSli c w)
  | 1 => some (decSaddi c w)
  | 2 => some (decSandi c w)
  | 3 => some (decSori c w)
  | 4 => some (decSxori c w)
  | 5 => some (decSshli c w)
  | 6 => some (decSshri c w)
  | 7 => some (decScmpi c w)
  | 8 => some (decSmuli c w)
  | 9 => some (decSadd64 c w)
  | 10 => some (decSsub64 c w)
  | 11 => some (decSla c w)
  | _ => none

/-- The decoders of opcodes 0x40 to 0x4F; `none` is an unassigned opcode (Table 2.13). -/
def decRow4 (lo : Nat) (c : Cm) (w : W64) (w1 : Option W64) : Option (Except DecErr Instr) :=
  match lo with
  | 0 => some (decVadd c w)
  | 1 => some (decVsub c w)
  | 2 => some (decVmul c w)
  | 3 => some (decVmad c w)
  | 4 => some (decVand c w)
  | 5 => some (decVor c w)
  | 6 => some (decVxor c w)
  | 7 => some (decVshl c w)
  | 8 => some (decVshr c w)
  | 9 => some (decVmin c w)
  | 10 => some (decVmax c w)
  | 11 => some (decVabs c w)
  | 12 => some (decVcmp c w)
  | 13 => some (decVsel c w)
  | 14 => some (decVmov c w)
  | 15 => some (decVbit c w)
  | _ => none

/-- The decoders of opcodes 0x50 to 0x5F; `none` is an unassigned opcode (Table 2.13). -/
def decRow5 (lo : Nat) (c : Cm) (w : W64) (w1 : Option W64) : Option (Except DecErr Instr) :=
  match lo with
  | 0 => some (decVbfe c w)
  | 1 => some (decVbfi c w)
  | 2 => some (decVaddc c w)
  | 3 => some (decVsubb c w)
  | 4 => some (decVdp4 c w)
  | 5 => some (decVdp2 c w)
  | 6 => some (decVsad c w)
  | 7 => some (decVaddi c w)
  | 8 => some (decVandi c w)
  | 9 => some (decVori c w)
  | 10 => some (decVxori c w)
  | 11 => some (decVshli c w)
  | 12 => some (decVshri c w)
  | 13 => some (decVcmpi c w)
  | 14 => some (decVmuli c w)
  | 15 => some (decVli c w)
  | _ => none

/-- The decoders of opcodes 0x60 to 0x6F; `none` is an unassigned opcode (Table 2.13). -/
def decRow6 (lo : Nat) (c : Cm) (w : W64) (w1 : Option W64) : Option (Except DecErr Instr) :=
  match lo with
  | 0 => some (decFadd c w)
  | 1 => some (decFsub c w)
  | 2 => some (decFmul c w)
  | 3 => some (decFfma c w)
  | 4 => some (decFmin c w)
  | 5 => some (decFmax c w)
  | 6 => some (decFcmp c w)
  | 7 => some (decFcls c w)
  | 8 => some (decFrnd c w)
  | 9 => some (decFsqrt c w)
  | 10 => some (decFdiv c w)
  | 11 => some (decFrcp c w)
  | 12 => some (decFrsq c w)
  | 13 => some (decFex2 c w)
  | 14 => some (decFlg2 c w)
  | 15 => some (decFscl c w)
  | _ => none

/-- The decoders of opcodes 0x70 to 0x7F; `none` is an unassigned opcode (Table 2.13). -/
def decRow7 (lo : Nat) (c : Cm) (w : W64) (w1 : Option W64) : Option (Except DecErr Instr) :=
  match lo with
  | 0 => some (decHadd2 c w)
  | 1 => some (decHmul2 c w)
  | 2 => some (decHfma2 c w)
  | 3 => some (decHmin2 c w)
  | 4 => some (decHmax2 c w)
  | 5 => some (decHcmp2 c w)
  | 6 => some (decHdot2 c w)
  | 7 => some (decCvt c w)
  | 8 => some (decCvtn c w)
  | 9 => some (decPack c w)
  | _ => none

/-- The decoders of opcodes 0x80 to 0x8F; `none` is an unassigned opcode (Table 2.13). -/
def decRow8 (lo : Nat) (c : Cm) (w : W64) (w1 : Option W64) : Option (Except DecErr Instr) :=
  match lo with
  | 0 => some (decShfl c w)
  | 1 => some (decVred c w)
  | 2 => some (decVscan c w)
  | 3 => some (decPand c w)
  | 4 => some (decPor c w)
  | 5 => some (decPxor c w)
  | 6 => some (decPnot c w)
  | 7 => some (decPmov c w)
  | 8 => some (decV2s c w)
  | 9 => some (decVins c w)
  | _ => none

/-- The decoders of opcodes 0x90 to 0x9F; `none` is an unassigned opcode (Table 2.13). -/
def decRow9 (lo : Nat) (c : Cm) (w : W64) (w1 : Option W64) : Option (Except DecErr Instr) :=
  match lo with
  | 0 => some (decLd c w)
  | 1 => some (decSt c w)
  | 2 => some (decLds c w)
  | 3 => some (decSts c w)
  | 4 => some (decLdc c w)
  | 5 => some (decStc c w)
  | 6 => some (decSld c w)
  | 7 => some (decSst c w)
  | 8 => some (decPf c w)
  | 9 => some (decSeal c w)
  | 10 => some (decUnseal c w)
  | _ => none

/-- The decoders of opcodes 0xA0 to 0xAF; `none` is an unassigned opcode (Table 2.13). -/
def decRowA (lo : Nat) (c : Cm) (w : W64) (w1 : Option W64) : Option (Except DecErr Instr) :=
  match lo with
  | 0 => some (decAtom c w)
  | 1 => some (decAcas c w)
  | 2 => some (decRed c w)
  | 3 => some (decRedb c w)
  | 4 => some (decSatom c w)
  | 5 => some (decPhase c w)
  | 6 => some (decWait c w)
  | 7 => some (decLda c w)
  | _ => none

/-- The decoders of opcodes 0xB0 to 0xBF; `none` is an unassigned opcode (Table 2.13). -/
def decRowB (lo : Nat) (c : Cm) (w : W64) (w1 : Option W64) : Option (Except DecErr Instr) :=
  match lo with
  | 0 => some (if fVar w = 0 then decBarInitLane c w else if fVar w = 1 then decBarInitByte c w else if fVar w = 2 then decBarInitChunk c w else .error .badFunc)
  | 1 => some (if fVar w = 0 then decBarArrLane c w else if fVar w = 1 then decBarArrByte c w else .error .badFunc)
  | 2 => some (decBarWait c w)
  | 3 => some (decBarSync c w)
  | 4 => some (decBarExp c w)
  | 5 => some (decBarWd c w)
  | 6 => some (decBarRd c w)
  | 7 => some (decCmapWait c w)
  | 8 => some (decCmapTest c w)
  | 9 => some (decCmapClr c w)
  | 10 => some (decCbar c w)
  | _ => none

/-- The decoders of opcodes 0xC0 to 0xCF; `none` is an unassigned opcode (Table 2.13). -/
def decRowC (lo : Nat) (c : Cm) (w : W64) (w1 : Option W64) : Option (Except DecErr Instr) :=
  match lo with
  | 0 => some (if w.extractLsb' 0 1 = 0 then decCpTile c w else if w.extractLsb' 0 1 = 1 then decCpTileThen c w else .error .badFunc)
  | 1 => some (decCpTilest c w)
  | 2 => some (decCpGat c w)
  | 3 => some (decCpSca c w)
  | 4 => some (decCpLin c w)
  | 5 => some (decRecFence c w)
  | _ => none

/-- The decoders of opcodes 0xD0 to 0xDF; `none` is an unassigned opcode (Table 2.13). -/
def decRowD (lo : Nat) (c : Cm) (w : W64) (w1 : Option W64) : Option (Except DecErr Instr) :=
  match lo with
  | 0 => some (decMx c w)
  | 1 => some (decMxLdb c w)
  | 2 => some (decMxZero c w)
  | 3 => some (decMxRd c w)
  | 4 => some (decMxWr c w)
  | 5 => some (decMxSt c w)
  | 6 => some (decMxBatch c w)
  | 7 => some (decMxWait c w)
  | 8 => some (decFdl c w)
  | 9 => some (decMxStat c w)
  | _ => none

/-- The decoders of opcodes 0xE0 to 0xEF; `none` is an unassigned opcode (Table 2.13). -/
def decRowE (lo : Nat) (c : Cm) (w : W64) (w1 : Option W64) : Option (Except DecErr Instr) :=
  match lo with
  | 0 => some (decKlaunch c w)
  | 1 => some (decRgn c w)
  | 2 => some (if fVar w = 0 then decCkacc c w else if fVar w = 1 then decCkaccClr c w else .error .badFunc)
  | 3 => some (decChk c w)
  | 4 => some (decMemhintCompute c w)
  | _ => none

/-- The decoders of opcodes 0xF0 to 0xFF; `none` is an unassigned opcode (Table 2.13). -/
def decRowF (lo : Nat) (c : Cm) (w : W64) (w1 : Option W64) : Option (Except DecErr Instr) :=
  match lo with
  | 0 => some (if w.extractLsb' 0 3 = 0 then decPgInvalPage c w else if w.extractLsb' 0 3 = 1 then decPgInvalAsid c w else if w.extractLsb' 0 3 = 2 then decPgInvalAll c w else .error .badFunc)
  | 1 => some (if w.extractLsb' 13 8 = 1 then decPsyswCreate c w else if w.extractLsb' 13 8 = 2 then decPsyswPreempt c w else if w.extractLsb' 13 8 = 3 then decPsyswRestore c w else if w.extractLsb' 13 8 = 4 then decPsyswDestroy c w else if w.extractLsb' 13 8 = 5 then decPsyswSetdl c w else .error .badFunc)
  | 2 => some (if w.extractLsb' 13 8 = 1 then decQctlOpen c w else if w.extractLsb' 13 8 = 2 then decQctlPause c w else if w.extractLsb' 13 8 = 3 then decQctlResume c w else if w.extractLsb' 13 8 = 4 then decQctlDrain c w else if w.extractLsb' 13 8 = 5 then decQctlFlush c w else .error .badFunc)
  | _ => none

/-- The decoder of an opcode, by its two hexadecimal digits. -/
def decRow (op : Nat) (c : Cm) (w : W64) (w1 : Option W64) : Option (Except DecErr Instr) :=
  match op / 16 with
  | 0 => decRow0 (op % 16) c w w1 | 1 => decRow1 (op % 16) c w w1 | 2 => decRow2 (op % 16) c w w1
  | 3 => decRow3 (op % 16) c w w1 | 4 => decRow4 (op % 16) c w w1 | 5 => decRow5 (op % 16) c w w1
  | 6 => decRow6 (op % 16) c w w1 | 7 => decRow7 (op % 16) c w w1 | 8 => decRow8 (op % 16) c w w1
  | 9 => decRow9 (op % 16) c w w1 | 10 => decRowA (op % 16) c w w1 | 11 => decRowB (op % 16) c w w1
  | 12 => decRowC (op % 16) c w w1 | 13 => decRowD (op % 16) c w w1 | 14 => decRowE (op % 16) c w w1
  | 15 => decRowF (op % 16) c w w1 | _ => none

/-- An instruction word, with the word that follows it in its clause, decoded (R61 checks 3 and 6 to 8; the checks of the
clause and of the wave are made at issue). -/
def decode (w : W64) (w1 : Option W64) : Except DecErr Instr :=
  match decRow (fOp w).toNat (decCm w) w w1 with
  | some r => r
  | none => .error .badOp

/-! ### The encoder -/

/-- The words of an instruction; an event has none. -/
def encode : Instr → List W64
  | .nop c => [wordA 0x00 c 0 0 0 0 0]
  | .bra c tgt rpc => [wordB 0x01 c tgt rpc 0]
  | .brm c pairs rpc => [wordBM0 c pairs rpc, wordBM1 pairs]
  | .brx c a rpc => [wordR 0x03 c 0 a.enc (restR24 rpc)]
  | .call c d tgt => [wordCall 0x04 c d.enc tgt]
  | .callx c d a => [wordA 0x05 c (d.enc) (a.enc) 0 0 0]
  | .ret c a => [wordA 0x06 c 0 (a.enc) 0 0 0]
  | .exit c => [wordA 0x07 c 0 0 0 0 0]
  | .wsync c => [wordA 0x08 c 0 0 0 0 0]
  | .yield c lve live => [wordR 0x09 c 0 0 (restYield lve live)]
  | .sleep c a => [wordA 0x0A c 0 (a.enc) 0 0 0]
  | .elect c d => [wordA 0x0B c (encPReg d) 0 0 0 0]
  | .vote c k a => [wordA 0x0C c k.encD (encPReg a) 0 0 k.encF]
  | .trap c n => [wordLow 0x0D c (n.setWidth 51)]
  | .brk c tag => [wordLow 0x0E c (tag.setWidth 51)]
  | .tret c => [wordLow 0x0F c 0]
  | .splInfo c d sel => [wordA 0x10 c (encSReg d) 0 (sel ++ 0#2) 0 0]
  | .fragList c d a st => [wordA 0x11 c (encSReg d) a.enc 0 0 (st.enc.setWidth 11)]
  | .fragRead c d a b => [wordA 0x12 c (encSReg d) (a.enc) (b.enc) 0 0]
  | .fragResume c d a => [wordA 0x13 c (encSReg d) (a.enc) 0 0 0]
  | .fragKill c d a => [wordA 0x14 c (encSReg d) (a.enc) 0 0 0]
  | .fragPatch c d a b e => [wordA 0x15 c (encSReg d) (a.enc) (b.enc) (e.enc) 0]
  | .sread c d sys => [wordA 0x16 c (encSReg d) 0 (sys.enc ++ 0#2) 0 0]
  | .swrite c a sys => [wordA 0x17 c 0 a.enc (sys.enc ++ 0#2) 0 0]
  | .capRd c d a => [wordA 0x18 c (encSReg d) (a.enc) 0 0 0]
  | .vread c d sel => [wordA 0x19 c d.enc 0 (sel.enc ++ 0#2) 0 0]
  | .sadd c d a b f => [wordA 0x20 c (encSReg d) (a.enc) (b.enc) 0 f.enc]
  | .ssub c d a b f => [wordA 0x21 c (encSReg d) (a.enc) (b.enc) 0 f.enc]
  | .smul c d a b f => [wordA 0x22 c (encSReg d) (a.enc) (b.enc) 0 f.enc]
  | .smad c d a b e f => [wordA 0x23 c (encSReg d) (a.enc) (b.enc) (e.enc) f.enc]
  | .sand c d a b f => [wordA 0x24 c (encSReg d) (a.enc) (b.enc) 0 f.enc]
  | .sor c d a b f => [wordA 0x25 c (encSReg d) (a.enc) (b.enc) 0 f.enc]
  | .sxor c d a b f => [wordA 0x26 c (encSReg d) (a.enc) (b.enc) 0 f.enc]
  | .sshl c d a b f => [wordA 0x27 c (encSReg d) (a.enc) (b.enc) 0 f.enc]
  | .sshr c d a b f => [wordA 0x28 c (encSReg d) (a.enc) (b.enc) 0 f.enc]
  | .smin c d a b f => [wordA 0x29 c (encSReg d) (a.enc) (b.enc) 0 f.enc]
  | .smax c d a b f => [wordA 0x2A c (encSReg d) (a.enc) (b.enc) 0 f.enc]
  | .scmp c a b f => [wordA 0x2B c 0 (a.enc) (b.enc) 0 f.enc]
  | .ssel c d a b e f => [wordA 0x2C c (encSReg d) (a.enc) (b.enc) (e.enc) f.enc]
  | .smov c d a f => [wordA 0x2D c (encSReg d) (a.enc) 0 0 f.enc]
  | .sbit c d a f => [wordA 0x2E c (encSReg d) (a.enc) 0 0 f.enc]
  | .sdiv c d a b f => [wordA 0x2F c (encSReg d) (a.enc) (b.enc) 0 f.enc]
  | .sli c d imm => [wordI 0x30 c (encSReg8 d) 0 0 imm]
  | .saddi c d a imm f => [wordI 0x31 c (encSReg8 d) (encSReg8 a) f.enc imm]
  | .sandi c d a imm => [wordI 0x32 c (encSReg8 d) (encSReg8 a) 0 imm]
  | .sori c d a imm => [wordI 0x33 c (encSReg8 d) (encSReg8 a) 0 imm]
  | .sxori c d a imm => [wordI 0x34 c (encSReg8 d) (encSReg8 a) 0 imm]
  | .sshli c d a imm => [wordI 0x35 c (encSReg8 d) (encSReg8 a) 0 imm]
  | .sshri c d a imm f => [wordI 0x36 c (encSReg8 d) (encSReg8 a) (if f then 1 else 0) imm]
  | .scmpi c d a imm f => [wordI 0x37 c (encPReg8 d) (encSReg8 a) f.enc imm]
  | .smuli c d a imm f => [wordI 0x38 c (encSReg8 d) (encSReg8 a) f.enc imm]
  | .sadd64 c d a b f => [wordA 0x39 c (encSReg d) (a.enc) (b.enc) 0 f.enc]
  | .ssub64 c d a b f => [wordA 0x3A c (encSReg d) (a.enc) (b.enc) 0 f.enc]
  | .sla c d a b f => [wordA 0x3B c (encSReg d) (a.enc) (b.enc) 0 f.enc]
  | .vadd c d a b f => [wordA 0x40 c (d.enc) (a.enc) (b.enc) 0 f.enc]
  | .vsub c d a b f => [wordA 0x41 c (d.enc) (a.enc) (b.enc) 0 f.enc]
  | .vmul c d a b f => [wordA 0x42 c (d.enc) (a.enc) (b.enc) 0 f.enc]
  | .vmad c d a b e f => [wordA 0x43 c (d.enc) (a.enc) (b.enc) (e.enc) f.enc]
  | .vand c d a b f => [wordA 0x44 c (d.enc) (a.enc) (b.enc) 0 f.enc]
  | .vor c d a b f => [wordA 0x45 c (d.enc) (a.enc) (b.enc) 0 f.enc]
  | .vxor c d a b f => [wordA 0x46 c (d.enc) (a.enc) (b.enc) 0 f.enc]
  | .vshl c d a b f => [wordA 0x47 c (d.enc) (a.enc) (b.enc) 0 f.enc]
  | .vshr c d a b f => [wordA 0x48 c (d.enc) (a.enc) (b.enc) 0 f.enc]
  | .vmin c d a b f => [wordA 0x49 c (d.enc) (a.enc) (b.enc) 0 f.enc]
  | .vmax c d a b f => [wordA 0x4A c (d.enc) (a.enc) (b.enc) 0 f.enc]
  | .vabs c d a f => [wordA 0x4B c (d.enc) (a.enc) 0 0 f.enc]
  | .vcmp c a b f => [wordA 0x4C c 0 (a.enc) (b.enc) 0 f.enc]
  | .vsel c d a b f => [wordA 0x4D c (d.enc) (a.enc) (b.enc) 0 f.enc]
  | .vmov c d a f => [wordA 0x4E c (d.enc) (a.enc) 0 0 f.enc]
  | .vbit c d a f => [wordA 0x4F c (d.enc) (a.enc) 0 0 f.enc]
  | .vbfe c d a b f => [wordA 0x50 c (d.enc) (a.enc) (b.enc) 0 f.enc]
  | .vbfi c d a b e f => [wordA 0x51 c (d.enc) (a.enc) (b.enc) (e.enc) f.enc]
  | .vaddc c d a b f => [wordA 0x52 c (d.enc) (a.enc) (b.enc) 0 f.enc]
  | .vsubb c d a b f => [wordA 0x53 c (d.enc) (a.enc) (b.enc) 0 f.enc]
  | .vdp4 c d a b e f => [wordA 0x54 c (d.enc) (a.enc) (b.enc) (e.enc) f.enc]
  | .vdp2 c d a b e f => [wordA 0x55 c (d.enc) (a.enc) (b.enc) (e.enc) f.enc]
  | .vsad c d a b e f => [wordA 0x56 c (d.enc) (a.enc) (b.enc) (e.enc) f.enc]
  | .vaddi c d a imm f => [wordI 0x57 c d a f.enc imm]
  | .vandi c d a imm => [wordI 0x58 c d a 0 imm]
  | .vori c d a imm => [wordI 0x59 c d a 0 imm]
  | .vxori c d a imm => [wordI 0x5A c d a 0 imm]
  | .vshli c d a imm => [wordI 0x5B c d a 0 imm]
  | .vshri c d a imm f => [wordI 0x5C c d a (if f then 1 else 0) imm]
  | .vcmpi c d a imm f => [wordI 0x5D c (encPReg8 d) a f.enc imm]
  | .vmuli c d a imm f => [wordI 0x5E c d a f.enc imm]
  | .vli c d imm => [wordI 0x5F c d 0 0 imm]
  | .fadd c d a b f => [wordA 0x60 c (d.enc) (a.enc) (b.enc) 0 f.enc]
  | .fsub c d a b f => [wordA 0x61 c (d.enc) (a.enc) (b.enc) 0 f.enc]
  | .fmul c d a b f => [wordA 0x62 c (d.enc) (a.enc) (b.enc) 0 f.enc]
  | .ffma c d a b e f => [wordA 0x63 c (d.enc) (a.enc) (b.enc) (e.enc) f.enc]
  | .fmin c d a b f => [wordA 0x64 c (d.enc) (a.enc) (b.enc) 0 f.enc]
  | .fmax c d a b f => [wordA 0x65 c (d.enc) (a.enc) (b.enc) 0 f.enc]
  | .fcmp c a b f => [wordA 0x66 c 0 (a.enc) (b.enc) 0 f.enc]
  | .fcls c a b f => [wordA 0x67 c 0 (a.enc) (b.enc) 0 f.enc]
  | .frnd c d a f => [wordA 0x68 c (d.enc) (a.enc) 0 0 f.enc]
  | .fsqrt c d a f => [wordA 0x69 c (d.enc) (a.enc) 0 0 f.enc]
  | .fdiv c d a b f => [wordA 0x6A c (d.enc) (a.enc) (b.enc) 0 f.enc]
  | .frcp c d a f => [wordA 0x6B c (d.enc) (a.enc) 0 0 f.enc]
  | .frsq c d a f => [wordA 0x6C c (d.enc) (a.enc) 0 0 f.enc]
  | .fex2 c d a f => [wordA 0x6D c (d.enc) (a.enc) 0 0 f.enc]
  | .flg2 c d a f => [wordA 0x6E c (d.enc) (a.enc) 0 0 f.enc]
  | .fscl c d a b f => [wordA 0x6F c (d.enc) (a.enc) (b.enc) 0 f.enc]
  | .hadd2 c d a b f => [wordA 0x70 c (d.enc) (a.enc) (b.enc) 0 f.enc]
  | .hmul2 c d a b f => [wordA 0x71 c (d.enc) (a.enc) (b.enc) 0 f.enc]
  | .hfma2 c d a b e f => [wordA 0x72 c (d.enc) (a.enc) (b.enc) (e.enc) f.enc]
  | .hmin2 c d a b f => [wordA 0x73 c (d.enc) (a.enc) (b.enc) 0 f.enc]
  | .hmax2 c d a b f => [wordA 0x74 c (d.enc) (a.enc) (b.enc) 0 f.enc]
  | .hcmp2 c d a b f => [wordA 0x75 c (d.enc) (a.enc) (b.enc) 0 f.enc]
  | .hdot2 c d a b e f => [wordA 0x76 c (d.enc) (a.enc) (b.enc) (e.enc) f.enc]
  | .cvt c d a f => [wordA 0x77 c (d.enc) (a.enc) 0 0 f.enc]
  | .cvtn c d a b sc f => [wordA 0x78 c d.enc a.enc b.enc (encOptV sc) (f.enc sc.isSome)]
  | .pack c d a b f => [wordA 0x79 c (d.enc) (a.enc) (b.enc) 0 f.enc]
  | .shfl c d a b e f => [wordA 0x80 c (d.enc) (a.enc) (b.enc) (e.enc) f.enc]
  | .vred c d a f => [wordA 0x81 c (d.enc) (a.enc) 0 0 f.enc]
  | .vscan c d a f => [wordA 0x82 c (d.enc) (a.enc) 0 0 f.enc]
  | .pand c d a b f => [wordA 0x83 c (encPReg d) (encPReg a) (encPReg b) 0 f.enc]
  | .por c d a b f => [wordA 0x84 c (encPReg d) (encPReg a) (encPReg b) 0 f.enc]
  | .pxor c d a b f => [wordA 0x85 c (encPReg d) (encPReg a) (encPReg b) 0 f.enc]
  | .pnot c d a => [wordA 0x86 c (encPReg d) (encPReg a) 0 0 0]
  | .pmov c k => [wordA 0x87 c k.encD k.encA 0 0 k.encF]
  | .v2s c d a b => [wordA 0x88 c (encSReg d) a.enc (encOptS b) 0 (if b.isSome then 0 else 0x20)]
  | .vins c d a b => [wordA 0x89 c (d.enc) (a.enc) (b.enc) 0 0]
  | .ld c d a f off => [wordM 0x90 c d.enc a.enc off f.enc]
  | .st c d a f off => [wordM 0x91 c d.enc a.enc off f.enc]
  | .lds c d a f off => [wordM 0x92 c d.enc a.enc off f.enc]
  | .sts c d a f off => [wordM 0x93 c d.enc a.enc off f.enc]
  | .ldc c d a f off => [wordM 0x94 c d.enc a.enc off f.enc]
  | .stc c d a f off => [wordM 0x95 c d.enc a.enc off f.enc]
  | .sld c d a f off => [wordM 0x96 c (encSReg d) a.enc off f.enc]
  | .sst c d a f off => [wordM 0x97 c d.enc a.enc off f.enc]
  | .pf c a sl off => [wordM 0x98 c 0 a.enc off (if sl then 8 else 0)]
  | .seal c a off => [wordM 0x99 c 0 a.enc off 0]
  | .unseal c a off => [wordM 0x9A c 0 a.enc off 0]
  | .atom c d a f off => [wordM 0xA0 c d.enc a.enc off f.enc]
  | .acas c d a f off => [wordM 0xA1 c d.enc a.enc off f.enc]
  | .red c d a f off => [wordM 0xA2 c d.enc a.enc off f.enc]
  | .redb c d a f off => [wordM 0xA3 c d.enc a.enc off f.enc]
  | .satom c d a f off => [wordM 0xA4 c (encSReg d) (encSReg a) off f.enc]
  | .phase c scp cls opn => [wordLow 0xA5 c ((scp ++ 0#6 ++ b1 cls ++ b1 opn).setWidth 51)]
  | .wait c pq d a b t cond opn => [wordA 0xA6 c (encSReg d) (encSReg a) b.enc t.enc (cond.enc ++ b1 opn ++ 0#4 ++ pq)]
  | .lda c d a f off => [wordM 0xA7 c d.enc a.enc off f.enc]
  | .barInitLane c a b => [wordA 0xB0 c 0 (a.enc) (b.enc) 0 (BarF.enc ⟨0, 0, false⟩)]
  | .barInitByte c a b => [wordA 0xB0 c 0 (a.enc) (b.enc) 0 (BarF.enc ⟨0, 1, false⟩)]
  | .barInitChunk c a => [wordA 0xB0 c 0 (a.enc) 0 0 (BarF.enc ⟨0, 2, false⟩)]
  | .barArrLane c d a => [wordA 0xB1 c (encSReg d) (a.enc) 0 0 (BarF.enc ⟨0, 0, false⟩)]
  | .barArrByte c a b e => [wordA 0xB1 c 0 (a.enc) (b.enc) (e.enc) (BarF.enc ⟨0, 1, false⟩)]
  | .barWait c a b gl => [wordA 0xB2 c 0 (a.enc) (b.enc) 0 (BarF.enc ⟨0, 0, gl⟩)]
  | .barSync c a gl => [wordA 0xB3 c 0 (a.enc) 0 0 (BarF.enc ⟨0, 0, gl⟩)]
  | .barExp c d a b e => [wordA 0xB4 c (encSReg d) (a.enc) (b.enc) (e.enc) (BarF.enc ⟨0, 0, false⟩)]
  | .barWd c => [wordA 0xB5 c 0 0 0 0 (BarF.enc ⟨0, 0, false⟩)]
  | .barRd c d a b => [wordA 0xB6 c (encSReg d) (a.enc) (b.enc) 0 (BarF.enc ⟨0, 0, false⟩)]
  | .cmapWait c a b => [wordA 0xB7 c 0 (a.enc) (b.enc) 0 (BarF.enc ⟨0, 0, false⟩)]
  | .cmapTest c pq a b => [wordA 0xB8 c 0 (a.enc) (b.enc) 0 (BarF.enc ⟨pq, 0, false⟩)]
  | .cmapClr c a b => [wordA 0xB9 c 0 (a.enc) (b.enc) 0 (BarF.enc ⟨0, 0, false⟩)]
  | .cbar c a gl => [wordA 0xBA c 0 (a.enc) 0 0 (BarF.enc ⟨0, 0, gl⟩)]
  | .cpTile c rec crd spo slot => [wordA 0xC0 c (encSReg rec) (encSReg crd) spo.enc slot.enc 0]
  | .cpTileThen c rec crd spo slot => [wordA 0xC0 c (encSReg rec) (encSReg crd) spo.enc slot.enc 1]
  | .cpTilest c rec crd spo slot => [wordA 0xC1 c (encSReg rec) (encSReg crd) spo.enc slot.enc 0]
  | .cpGat c rec crd spo slot msk => [wordA 0xC2 c (encSReg rec) (encSReg crd) spo.enc slot.enc (encSReg msk ++ 0#1)]
  | .cpSca c rec crd spo slot msk => [wordA 0xC3 c (encSReg rec) (encSReg crd) spo.enc slot.enc (encSReg msk ++ 0#1)]
  | .cpLin c dst src len slot dir => [wordA 0xC4 c dst.enc src.enc len.enc slot.enc (dir.enc.setWidth 11)]
  | .recFence c a => [wordA 0xC5 c (encSReg a) 0 0 0 0]
  | .mx c t fda spa m0 mc tag tc z => [wordR 0xD0 c (t ++ fda ++ 0#3) spa.enc (m0 ++ mc ++ tag ++ 0#7 ++ b1 tc ++ b1 z ++ 0#1)]
  | .mxLdb c m fdb spb tag => [wordR 0xD1 c (m ++ fdb ++ 0#4) spb.enc (0#5 ++ tag ++ 0#10)]
  | .mxZero c t => [wordLow 0xD2 c (t ++ 0#47)]
  | .mxRd c d t row => [wordA 0xD3 c d.enc (t ++ 0#6) row.enc 0 0]
  | .mxWr c t row a => [wordA 0xD4 c (t ++ 0#6) a.enc row.enc 0 0]
  | .mxSt c t spd str sco cv rnd => [wordA 0xD5 c (t ++ 0#6) spd.enc str.enc (encOptS sco) (cv.enc ++ b1 sco.isSome ++ rnd.enc ++ 0#6)]
  | .mxBatch c d => [wordA 0xD6 c (encSReg d) 0 0 0 0]
  | .mxWait c n => [wordLow 0xD7 c (n.setWidth 51)]
  | .fdl c n a => [wordR 0xD8 c (n ++ 0#7) a.enc 0]
  | .mxStat c d sel => [wordA 0xD9 c (encSReg d) 0 (sel ++ 0#2) 0 0]
  | .klaunch c d a => [wordA 0xE0 c (encSReg d) (encSReg a) 0 0 0]
  | .rgn c q => [wordLow 0xE1 c (q.setWidth 51)]
  | .ckacc c a => [wordA 0xE2 c 0 a.enc 0 0 0]
  | .ckaccClr c => [wordA 0xE2 c 0 0 0 0 0x20]
  | .chk c a rst => [wordR 0xE3 c 0 a.enc ((b1 rst).setWidth 31)]
  | .memhintCompute c a => [wordR 0xE4 c 0 a.enc 0]
  | .pgInvalPage c d a b => [wordA 0xF0 c (encSReg d) a.enc b.enc 0 0]
  | .pgInvalAsid c d b => [wordA 0xF0 c (encSReg d) 0 b.enc 0 1]
  | .pgInvalAll c d => [wordA 0xF0 c (encSReg d) 0 0 0 2]
  | .psyswCreate c d a b => [wordA 0xF1 c (encSReg d) a.enc b.enc (1#8 ++ 0#2) 0]
  | .psyswPreempt c d a b => [wordA 0xF1 c (encSReg d) a.enc b.enc (2#8 ++ 0#2) 0]
  | .psyswRestore c d a b => [wordA 0xF1 c (encSReg d) a.enc b.enc (3#8 ++ 0#2) 0]
  | .psyswDestroy c d a b => [wordA 0xF1 c (encSReg d) a.enc b.enc (4#8 ++ 0#2) 0]
  | .psyswSetdl c d a b => [wordA 0xF1 c (encSReg d) a.enc b.enc (5#8 ++ 0#2) 0]
  | .qctlOpen c d a b => [wordA 0xF2 c (encSReg d) a.enc b.enc (1#8 ++ 0#2) 0]
  | .qctlPause c d a b => [wordA 0xF2 c (encSReg d) a.enc b.enc (2#8 ++ 0#2) 0]
  | .qctlResume c d a b => [wordA 0xF2 c (encSReg d) a.enc b.enc (3#8 ++ 0#2) 0]
  | .qctlDrain c d a b => [wordA 0xF2 c (encSReg d) a.enc b.enc (4#8 ++ 0#2) 0]
  | .qctlFlush c d a b => [wordA 0xF2 c (encSReg d) a.enc b.enc (5#8 ++ 0#2) 0]
  | .clauseEntry _ => []
  | .clauseWaitRelease _ => []
  | .codeFetchFault _ => []
  | .settleRelease _ => []
  | .variableResultWrite _ => []
  | .accessStatusReturn _ => []
  | .backoffRetry _ => []
  | .handlerEntry _ => []
  | .fragmentReplay _ => []
  | .exitCloseComplete _ => []
  | .blockRetire _ => []
  | .kernelSignalPerformed _ => []
  | .hostCompletionSend _ => []
  | .hostCompletionAck _ => []
  | .hostSendTimeout _ => []
  | .launchMessage _ _ _ => []
  | .dependenceWake _ _ => []
  | .dependencePoll _ => []
  | .kernelSelect => []
  | .groupHandout => []
  | .queueStatusRefresh _ => []
  | .queueDrainComplete _ => []
  | .blockRestSave _ => []
  | .preemptDeadlineExpiry _ => []
  | .contextSaved _ => []
  | .contextDrainComplete _ => []
  | .barWake _ => []
  | .byteCredit _ => []
  | .clusterSignal _ => []
  | .chunkLand _ _ => []
  | .watchWake _ => []
  | .waitTimeout _ => []
  | .watchPoll _ => []
  | .sleepExpiry _ => []
  | .homeSliceStore _ _ => []
  | .homeSliceAtomic _ _ => []
  | .lineFill _ _ _ => []
  | .closeComplete _ => []
  | .openBegin _ => []
  | .unsealComplete _ => []
  | .pgInvalComplete _ => []
  | .copyStart _ => []
  | .copyAccessReply _ _ => []
  | .copyRelease _ => []
  | .copyComplete _ => []
  | .mxStart _ => []
  | .mxCommit _ => []
  | .mxLdbStart _ => []
  | .mxLdbComplete _ => []
  | .mxStFinish _ => []
  | .twinCompare _ => []
  | .eyeMeasure _ _ => []
  | .linkReturn _ => []
  | .laneFail _ _ => []
  | .flitRetryExhausted _ => []
  | .linkTrainDone _ _ => []
  | .ethFrameReceive _ _ _ => []
  | .roceConnectRequest _ _ _ _ => []
  | .rdmaWrite _ _ _ _ => []
  | .rdmaRead _ _ _ _ => []
  | .fetchAndAdd _ _ _ _ => []
  | .compareAndSwap _ _ _ _ _ => []
  | .invalidRequestOp _ => []
  | .fence => []
  | .reset => []
  | .poweroff => []
  | .admitDie => []
  | .takeover => []
  | .retire => []
  | .getkey => []
  | .readmit => []
  | .dieErrorFence _ => []
  | .fencingQuiesced _ => []
  | .dieAdmitResult _ _ => []
  | .dieResetComplete _ => []
  | .cacheDieFault _ => []
  | .ioDie1Fault => []
  | .ioDie0UnitFault _ => []
  | .coldReset => []
  | .channelAutoRetire _ => []
  | .pageMove _ => []
  | .capsigWrite => []
  | .clkmhzRefresh => []
  | .arbiterGrant _ => []
  | .clockStep _ _ => []
  | .arbiterTakeover => []
  | .ethPortDown _ => []
  | .ethPortActive _ => []
  | .hbmRefresh _ => []

/-! ### Table words -/

/-- Little-endian bytes of a number of n bytes (R3). -/
def wordBytes : Nat → Nat → List Byte
  | 0, _ => []
  | n + 1, x => BitVec.ofNat 8 x :: wordBytes n (x / 256)

/-- Two words read from sixteen bytes in memory order. -/
def decodeBytes (bs : List Byte) : Except DecErr Instr :=
  decode (BitVec.ofNat 64 (leVal (bs.take 8))) (some (BitVec.ofNat 64 (leVal ((bs.drop 8).take 8))))

/-- The instruction the decoder reads from an instruction whose bits are w, bit 0 the least significant bit of the first
word; bits above nbits are 0. -/
def decodeTableWord (nbits w : Nat) : Option Instr :=
  match decodeBytes (wordBytes 16 (w % 2 ^ nbits)) with
  | .ok i => some i
  | .error _ => none

end Sys2Proof
end

