-- ==== Sys2Proof/Machine/Flags.lean ====
section
/-! DEFINITION. How integer patterns are read and written back (R100, R103), and every condition and carry an instruction
writes into a predicate (R105, R108, R111, Table 11.5). -/

namespace Sys2Proof.Machine

/-- A 32-bit pattern read as TY (R100). -/
def rdTy (ty : ITy) (x : W32) : Int :=
  match ty with
  | .s => x.toInt
  | _ => (x.toNat : Int)

/-- Sat of Table 0.3. -/
def satTo (x lo hi : Int) : Int := if x < lo then lo else if hi < x then hi else x

/-- The bounds of R103. -/
def satLo (ty : ITy) : Int := match ty with
  | .s => -2 ^ 31
  | _ => 0
def satHi (ty : ITy) : Int := match ty with
  | .s => 2 ^ 31 - 1
  | _ => 2 ^ 32 - 1

/-- The result written (R102): saturated, or modulo 2^32. -/
def wrTy (sat : Bool) (ty : ITy) (x : Int) : W32 :=
  BitVec.ofInt 32 (if sat then satTo x (satLo ty) (satHi ty) else x)

/-- Cond of R105 by VAR. -/
def cond (var : BitVec 3) (a b : Int) : Bool :=
  match var.toNat with
  | 0 => decide (a = b)
  | 1 => decide (a ≠ b)
  | 2 => decide (a < b)
  | 3 => decide (a ≤ b)
  | 4 => decide (b < a)
  | _ => decide (b ≤ a)

/-- Conditions of vcmpi and scmpi (Table 4.4). -/
def condI (c : CmpI) (a b : W32) : Bool :=
  match c with
  | .eq => a == b
  | .ne => a != b
  | .ltS => decide (a.toInt < b.toInt)
  | .leS => decide (a.toInt ≤ b.toInt)
  | .gtS => decide (b.toInt < a.toInt)
  | .geS => decide (b.toInt ≤ a.toInt)
  | .ltN => decide (a.toNat < b.toNat)
  | .geN => decide (b.toNat ≤ a.toNat)

/-- Conditions of wait and of launch dependences (Table 11.5). -/
def wcond (c : WCond) (a b : W32) : Bool :=
  match c with
  | .eq => a == b
  | .ne => a != b
  | .geS => decide (b.toInt ≤ a.toInt)
  | .ltS => decide (a.toInt < b.toInt)
  | .geN => decide (b.toNat ≤ a.toNat)
  | .ltN => decide (a.toNat < b.toNat)

/-- The carry out of vaddc (R108). -/
def carryOut (a b : W32) (cin : Bool) : Bool := decide (2 ^ 32 ≤ a.toNat + b.toNat + cin.toNat)
/-- The borrow out of vsubb (R108). -/
def borrowOut (a b : W32) (cin : Bool) : Bool := decide (a.toNat < b.toNat + cin.toNat)

end Sys2Proof.Machine
end

