-- ==== Sys2Proof/Config.lean ====
section
/-! DEFINITION. Constants of stepping A1 that an implementation fixes, and the free values: constants with no body, standing
for what the spec leaves open. -/

namespace Sys2Proof.Config

/-! ### Free values (no body; nothing can be proved about which value they have) -/

/-- Which member of an allowed set is produced (R11): applied to the counter `State.tick` and to what the choice is about
(entry 1). -/
opaque choice : Nat → Nat → Nat
/-- The device's private key, taken modulo the order of its curve (R380; entry 15). -/
opaque deviceKey : Nat
/-- The firmware image loaded at package reset (R380; entry 15). -/
opaque firmware : List Byte
/-- The nonce of an ECDSA signature of a digest: the counter of free values and the attempt (R184; entry 15). -/
opaque nonce : List Byte → Nat → Nat → Nat
/-- The bytes of an ASID in the info of the wrapping key's derivation (R380; entry 15). -/
opaque asidInfo : Nat → List Byte
/-- The grant of a die above 150 A where another die's share falls below it: the counter of free values and the die (R378; entry 14). -/
opaque grant : Nat → Nat → Nat
/-- The RoCEv2 queue pair number the device assigns to a queue's endpoint (R165; entry 17). -/
opaque qpnOf : Nat → Nat → BitVec 24
/-- Whether a self-test the root runs passes (R375; entry 2). -/
opaque selfTest : Nat → Nat → Bool

/-- Cycles after which a call's link register is written: fixed, and not stated (R42, R217; entry 18). -/
opaque linkCycles : Nat

/-! ### Constants of stepping A1 -/

/-- Native stepping tag (R31). -/
def nativeTag : Nat := 0x0A01
/-- MAGIC of a code descriptor (Table 2.1). -/
def codeMagic : Nat := 0x445A
/-- Usable bytes of a channel (R292). -/
def chanBytes : Nat := 0x78000000
/-- Frames of a channel (R292). -/
def chanFrames : Nat := 122880
/-- Number of channels (R19). -/
def nChan : Nat := 512
/-- Bytes of a page (R288). -/
def pageBytes : Nat := 16384
/-- Bytes of a line. -/
def lineBytes : Nat := 128
/-- Default pre-emption deadline (Table 6.1). -/
def defaultDeadline : Nat := 200000
/-- Bytes of one core image (R156). -/
def imageBytes : Nat := 1179648
/-- L1 lines (R253). -/
def l1Lines : Nat := 1024
/-- Translation cache entries of a channel (R296). -/
def tlbEntries : Nat := 2048
/-- Watch entries of a slice (R245). -/
def watchEntries : Nat := 64
/-- Bytes of a core's saved image, whose layout is private to the stepping (R156): the counter of free values and the byte's number. -/
opaque imageByte : Nat → Nat → Byte
/-- Entries of a migration engine's conflict buffer (R374). -/
def conflictEntries : Nat := 256
/-- Lines of a slice: 2 MiB of 128 bytes (Table 1.1). -/
def sliceLines : Nat := 16384
/-- Compare buffer entries of a die (R352). -/
def cmpEntries : Nat := 32768
/-- ASID 0 VA of the management block (Table 19.4 gives no reset value; entry 10). -/
def mgmtVa : Nat := 0x40000

end Sys2Proof.Config
end

