-- ==== Sys2Proof/Machine/Num.lean ====
section
/-! DEFINITION. Number formats and exact arithmetic (chapter 03): values are exact dyadic numbers, and rounding happens once,
where the spec writes it. -/

namespace Sys2Proof.Machine

/-! ### Rounding (R72) -/

/-- A magnitude m·2^-sh (plus a little more, if `sticky`) rounded to an integer. -/
def roundMag (mode : Rnd) (neg : Bool) (m sh : Nat) (sticky : Bool) : Nat :=
  let q := m / 2 ^ sh
  let r := m % 2 ^ sh
  let inexact := r != 0 || sticky
  let up := match mode with
    | .rn => decide (2 ^ sh < 2 * r) || (sh != 0 && decide (2 * r = 2 ^ sh) && (sticky || q % 2 == 1))
    | .rz => false
    | .rm => neg && inexact
    | .rp => !neg && inexact
  if up then q + 1 else q

/-- m·2^e rounded to an integer magnitude. -/
def roundToInt (mode : Rnd) (neg : Bool) (m : Nat) (e : Int) (sticky : Bool) : Nat :=
  if 0 ≤ e then m * 2 ^ e.toNat else roundMag mode neg m (-e).toNat sticky

/-- The magnitude code of m·2^e in a format with `fb` fraction bits and exponent bias `bias`, with no upper end of the
exponent range: (field − 1)·2^fb + significand, which is the format's own code where the field fits. -/
def magCode (fb : Nat) (bias : Int) (mode : Rnd) (neg : Bool) (m : Nat) (e : Int) (sticky : Bool) : Nat :=
  if m = 0 then 0
  else
    let l : Int := (Nat.log2 m : Nat) + e
    let u := max (l - fb) (1 - bias - fb)
    let q := if u ≤ e then m * 2 ^ (e - u).toNat else roundMag mode neg m (u - e).toNat sticky
    ((u + fb + bias - 1).toNat) * 2 ^ fb + q

/-- An IEEE-style format (Table 3.1): exponent bits and fraction bits. -/
structure Fmt where
  eb : Nat
  fb : Nat
deriving DecidableEq, Repr

def Fmt.bias (f : Fmt) : Int := (2 ^ (f.eb - 1) : Nat) - 1
def Fmt.inf (f : Fmt) : Nat := (2 ^ f.eb - 1) * 2 ^ f.fb
def Fmt.nan (f : Fmt) : Nat := f.inf + 2 ^ (f.fb - 1)
def Fmt.signBit (f : Fmt) : Nat := 2 ^ (f.eb + f.fb)
def Fmt.max (f : Fmt) : Nat := f.inf - 1

def fp32 : Fmt := ⟨8, 23⟩
def fp16 : Fmt := ⟨5, 10⟩
def bf16 : Fmt := ⟨8, 7⟩
/-- F12 of R91: FP32 with fraction bits [11:0] zero, as its upper 20 bits. -/
def f12 : Fmt := ⟨8, 11⟩

/-- A value of an IEEE-style format: NaN, a signed infinity, or ±man·2^exp (zero keeps its sign). -/
inductive FV where
  | nan
  | inf (neg : Bool)
  | fin (neg : Bool) (man : Nat) (exp : Int)
deriving DecidableEq, Repr

/-- The value of a pattern (R69). -/
def Fmt.dec (f : Fmt) (x : Nat) : FV :=
  let neg := x / f.signBit % 2 == 1
  let e := x / 2 ^ f.fb % 2 ^ f.eb
  let m := x % 2 ^ f.fb
  if e = 2 ^ f.eb - 1 then (if m = 0 then .inf neg else .nan)
  else if e = 0 then .fin neg m (1 - f.bias - f.fb)
  else .fin neg (2 ^ f.fb + m) ((e : Int) - f.bias - f.fb)

/-- Overflow of a rounded magnitude (Table 3.2): true gives infinity, false the largest finite value. -/
def overflowInf (mode : Rnd) (neg : Bool) : Bool :=
  match mode with
  | .rn => true
  | .rz => false
  | .rm => neg
  | .rp => !neg

/-- ±m·2^e rounded to a pattern of the format (R72, R73: a result that rounds to zero keeps its sign). -/
def Fmt.round (f : Fmt) (mode : Rnd) (neg : Bool) (m : Nat) (e : Int) (sticky : Bool) : Nat :=
  let c := magCode f.fb f.bias mode neg m e sticky
  (if neg then f.signBit else 0) + (if f.inf ≤ c then (if overflowInf mode neg then f.inf else f.max) else c)

/-- The pattern of a value, rounded. -/
def Fmt.enc (f : Fmt) (mode : Rnd) : FV → Nat
  | .nan => f.nan
  | .inf neg => (if neg then f.signBit else 0) + f.inf
  | .fin neg m e => f.round mode neg m e false

/-! ### Exact sums and products -/

def signedMan (neg : Bool) (m : Nat) : Int := if neg then -(m : Int) else m

/-- The exact sum of finite terms (sign, magnitude, exponent). An exact zero takes the common sign of the terms, or, where the
signs differ, the sign R73 gives for the rounding mode. -/
def sumFin (mode : Rnd) (ts : List (Bool × Nat × Int)) : FV :=
  let e0 := ts.foldl (fun e t => min e t.2.2) 0
  let s := ts.foldl (fun (s : Int) t => s + signedMan t.1 t.2.1 * (2 ^ (t.2.2 - e0).toNat : Nat)) 0
  if s = 0 then .fin (ts.all (·.1) || (ts.any (·.1) && mode == .rm)) 0 0
  else .fin (decide (s < 0)) s.natAbs e0

/-- The finite parts of values, or `none` where one is not finite. -/
def finTerms : List FV → Option (List (Bool × Nat × Int))
  | [] => some []
  | .fin n m e :: t => (finTerms t).map ((n, m, e) :: ·)
  | _ :: _ => none

def FV.isNan : FV → Bool
  | .nan => true
  | _ => false
def FV.isInf (neg : Bool) : FV → Bool
  | .inf n => n == neg
  | _ => false

/-- The exact sum of values by IEEE 754 (R71, R73): NaN if any is NaN or infinities differ in sign. -/
def sumFV (mode : Rnd) (ts : List FV) : FV :=
  if ts.any FV.isNan || (ts.any (FV.isInf true) && ts.any (FV.isInf false)) then .nan
  else if ts.any (FV.isInf true) then .inf true
  else if ts.any (FV.isInf false) then .inf false
  else match finTerms ts with
    | some l => sumFin mode l
    | none => .nan

/-- The exact product (R73): 0 × ∞ is NaN. -/
def mulFV : FV → FV → FV
  | .nan, _ => .nan
  | _, .nan => .nan
  | .inf a, .inf b => .inf (a ^^ b)
  | .inf a, .fin b m _ => if m = 0 then .nan else .inf (a ^^ b)
  | .fin a m _, .inf b => if m = 0 then .nan else .inf (a ^^ b)
  | .fin a m e, .fin b k g => .fin (a ^^ b) (m * k) (e + g)

def negFV : FV → FV
  | .nan => .nan
  | .inf a => .inf (!a)
  | .fin a m e => .fin (!a) m e

/-- Integer square root by bits: the largest r ≤ x with r² ≤ n, looking at bits k−1 down to 0. -/
def isqrtBits (n : Nat) : Nat → Nat → Nat
  | 0, r => r
  | k + 1, r => let t := r + 2 ^ k
                isqrtBits n k (if t * t ≤ n then t else r)

/-- The integer square root. -/
def isqrt (n : Nat) : Nat := isqrtBits n (Nat.log2 n / 2 + 1) 0

/-- The quotient of two magnitudes with 64 bits beyond the point: m/k, its exponent, and whether it is inexact. -/
def divMag (m k : Nat) (e : Int) : Nat × Int × Bool :=
  let sh := 64 + Nat.log2 k
  let q := m * 2 ^ sh / k
  (q, e - sh, m * 2 ^ sh % k != 0)

/-- The root of a magnitude: an integer, its exponent, and whether it is inexact. -/
def sqrtMag (m : Nat) (e : Int) : Nat × Int × Bool :=
  let m1 := if e % 2 = 0 then m else 2 * m
  let e1 := if e % 2 = 0 then e else e - 1
  let n := m1 * 2 ^ 128
  let r := isqrt n
  (r, e1 / 2 - 64, r * r != n)

/-- a / b rounded (R76). -/
def Fmt.div (f : Fmt) (mode : Rnd) (a b : FV) : Nat :=
  match a, b with
  | .nan, _ => f.nan
  | _, .nan => f.nan
  | .inf _, .inf _ => f.nan
  | .inf x, .fin y _ _ => f.enc mode (.inf (x ^^ y))
  | .fin x _ _, .inf y => f.enc mode (.fin (x ^^ y) 0 0)
  | .fin x m e, .fin y k g =>
    if k = 0 then (if m = 0 then f.nan else f.enc mode (.inf (x ^^ y)))
    else
      let r := divMag m k (e - g)
      f.round mode (x ^^ y) r.1 r.2.1 r.2.2

/-- √a rounded (R76). -/
def Fmt.sqrt (f : Fmt) (mode : Rnd) (a : FV) : Nat :=
  match a with
  | .nan => f.nan
  | .inf neg => if neg then f.nan else f.inf
  | .fin neg m e =>
    if m = 0 then f.enc mode (.fin neg 0 0)
    else if neg then f.nan
    else
      let r := sqrtMag m e
      f.round mode false r.1 r.2.1 r.2.2

/-- 1/√a rounded (Table 3.10). -/
def Fmt.rsqrt (f : Fmt) (a : FV) : Nat :=
  match a with
  | .nan => f.nan
  | .inf neg => if neg then f.nan else 0
  | .fin neg m e =>
    if m = 0 then f.enc .rn (.inf neg)
    else if neg then f.nan
    else
      -- 1/√(m·2^e) = √(2^k/m)·2^((−e−k)/2) with −e − k even
      let k : Nat := 256 + 2 * Nat.log2 m + (if e % 2 = 0 then 0 else 1)
      let n := 2 ^ k / m
      let r := isqrt n
      f.round .rn false r ((-e - k) / 2) (r * r != n || 2 ^ k % m != 0)

/-- Order of two values: `none` where one is NaN. −0 and +0 are equal. -/
def cmpFV (a b : FV) : Option Ordering :=
  match a, b with
  | .nan, _ => none
  | _, .nan => none
  | .inf x, .inf y => some (if x == y then .eq else if x then .lt else .gt)
  | .inf x, _ => some (if x then .lt else .gt)
  | _, .inf y => some (if y then .gt else .lt)
  | .fin x m e, .fin y k g =>
    let e0 := min e g
    let p := signedMan x m * (2 ^ (e - e0).toNat : Nat)
    let q := signedMan y k * (2 ^ (g - e0).toNat : Nat)
    some (if p < q then .lt else if p = q then .eq else .gt)

def FV.negZero : FV → Bool
  | .fin true 0 _ => true
  | _ => false

/-- fmin and fmax on patterns (R74): −0 below +0, one NaN gives the other operand, two NaNs the canonical NaN. -/
def Fmt.minmax (f : Fmt) (isMax : Bool) (x y : Nat) : Nat :=
  let a := f.dec x
  let b := f.dec y
  match cmpFV a b with
  | none => if a.isNan then (if b.isNan then f.nan else y) else x
  | some .eq => if isMax then (if a.negZero then y else x) else (if b.negZero then y else x)
  | some .lt => if isMax then y else x
  | some .gt => if isMax then x else y

/-- Table 5.3. -/
def fcond (c : Nat) (a b : FV) : Bool :=
  match cmpFV a b, c with
  | none, 1 => true
  | none, 7 => true
  | none, _ => false
  | some o, 0 => o == .eq
  | some o, 1 => o != .eq
  | some o, 2 => o == .lt
  | some o, 3 => o != .gt
  | some o, 4 => o == .gt
  | some o, 5 => o != .lt
  | some _, 6 => true
  | some _, _ => false

/-- class(a) of fcls (R119). -/
def fclass (x : Nat) : Nat :=
  match fp32.dec x with
  | .nan => 256
  | .inf neg => if neg then 1 else 128
  | .fin neg m _ =>
    if m = 0 then (if neg then 8 else 16)
    else if x / 2 ^ 23 % 256 = 0 then (if neg then 4 else 32)
    else (if neg then 2 else 64)

/-- SAT of R117 on a pattern: NaN and values not above zero become +0, values above 1.0 become 1.0. -/
def Fmt.clamp (f : Fmt) (x : Nat) : Nat :=
  let one := (2 ^ (f.eb - 1) - 1) * 2 ^ f.fb
  match f.dec x with
  | .nan => 0
  | .inf neg => if neg then 0 else one
  | .fin neg m _ => if neg || m = 0 then 0 else if one < x then one else x

/-! ### Arithmetic on patterns -/

def Fmt.add (f : Fmt) (mode : Rnd) (x y : Nat) : Nat := f.enc mode (sumFV mode [f.dec x, f.dec y])
def Fmt.sub (f : Fmt) (mode : Rnd) (x y : Nat) : Nat := f.enc mode (sumFV mode [f.dec x, negFV (f.dec y)])
def Fmt.mul (f : Fmt) (mode : Rnd) (x y : Nat) : Nat := f.enc mode (mulFV (f.dec x) (f.dec y))
def Fmt.fma (f : Fmt) (mode : Rnd) (x y z : Nat) : Nat :=
  f.enc mode (sumFV mode [mulFV (f.dec x) (f.dec y), f.dec z])

/-- frnd (R120). -/
def frndOp (mode : Rnd) (x : Nat) : Nat :=
  match fp32.dec x with
  | .fin neg m e => fp32.round .rn neg (roundToInt mode neg m e false) 0 false
  | v => fp32.enc mode v

/-- fscl (R116, R117): a × 2^n. A shift past ±2000 rounds as one of ±2000 does, since a is 0 or at least 2^-149 and below
2^128. -/
def fsclOp (mode : Rnd) (x : Nat) (n : Int) : Nat :=
  match fp32.dec x with
  | .fin neg m e => fp32.round mode neg m (e + max (-2000) (min 2000 n)) false
  | v => fp32.enc mode v

/-- hdot2 (R122). -/
def hdot2Op (t : Fmt) (mode : Rnd) (a b c : Nat) : Nat :=
  let h := fun (x i : Nat) => t.dec (x / 2 ^ (16 * i) % 2 ^ 16)
  fp32.enc mode (sumFV mode [fp32.dec c, mulFV (h a 0) (h b 0), mulFV (h a 1) (h b 1)])

/-! ### Reduced-precision functions (R91) -/

/-- An F12 pattern as FP32. -/
def ofF12 (x : Nat) : Nat := x * 2 ^ 12

def frcpOp (x : Nat) : Nat :=
  ofF12 (f12.div .rn (.fin false 1 0) (fp32.dec x))
def frsqOp (x : Nat) : Nat := ofF12 (f12.rsqrt (fp32.dec x))

/-- Number of bits after the point kept by `exp2Bounds`. -/
def expBits : Nat := 80

/-- Product of the roots 2^(2^-i) for the 1 bits of a fraction of k bits (highest bit first), as lower and upper bounds with
`expBits` bits after the point; `lo` and `hi` bound the running root, `pl` and `ph` the running product. -/
def exp2Bounds (f : Nat) : Nat → Nat → Nat → Nat → Nat → Nat × Nat
  | 0, _, _, pl, ph => (pl, ph)
  | k + 1, lo, hi, pl, ph =>
    let lo' := isqrt (lo * 2 ^ expBits)
    let hi' := isqrt (hi * 2 ^ expBits) + 1
    if f / 2 ^ k % 2 = 1 then
      exp2Bounds f k lo' hi' (pl * lo' / 2 ^ expBits) (ph * hi' / 2 ^ expBits + 1)
    else exp2Bounds f k lo' hi' pl ph

/-- The magnitude m·2^e of an F12 pattern; infinity stands for 2^128, the value above the largest member. -/
def f12Mag (c : Nat) : Nat × Int :=
  match f12.dec c with
  | .fin _ m e => (m, e)
  | _ => (1, 128)
/-- The point halfway between the magnitudes of two F12 patterns, as m·2^e. -/
def f12Mid (a b : Nat) : Nat × Int :=
  let x := f12Mag a
  let y := f12Mag b
  let e := min x.2 y.2
  (x.1 * 2 ^ (x.2 - e).toNat + y.1 * 2 ^ (y.2 - e).toNat, e - 1)
/-- 2^(s/den) < m·2^e, for m above 0. -/
def exp2Below (s : Int) (den m : Nat) (e : Int) : Bool :=
  let k := s - e * den
  decide (k < 0) || decide (2 ^ k.toNat < m ^ den)
/-- log2(m·2^e) < a·2^j, for m above 0. -/
def log2Below (m : Nat) (e a j : Int) : Bool :=
  let n : Nat := 2 ^ (-j).toNat
  let k := a * (2 ^ j.toNat : Nat) - e * n
  decide (0 ≤ k) && decide (m ^ n < 2 ^ k.toNat)

/-- fex2 (R91, Table 3.10). An integral x is exact. Else 2^x is irrational and lies between two bounds; where both round alike that is
the result, and where they round to two neighbours the exact comparison with the point halfway between them decides. -/
def fex2Op (x : Nat) : Nat :=
  match fp32.dec x with
  | .nan => fp32.nan
  | .inf neg => if neg then 0 else fp32.inf
  | .fin neg m e =>
    if 0 ≤ e ∨ m % 2 ^ (-e).toNat = 0 then
      let n : Int := signedMan neg (if 0 ≤ e then m * 2 ^ (min e 2000).toNat else m / 2 ^ (-e).toNat)
      ofF12 (f12.round .rn false 1 (max (-2000) (min 2000 n)) false)
    else
      let den : Nat := 2 ^ (-e).toNat
      let s := signedMan neg m
      let n := s / (den : Int)
      let fr := (s % (den : Int)).toNat
      let f : Nat := fr * 2 ^ expBits / den
      let one : Nat := 2 ^ expBits
      let b := exp2Bounds f expBits (2 * one) (2 * one) one one
      -- 2^(fraction beyond the kept bits) is below 1 + 2^-79
      let up := b.2 + b.2 / 2 ^ (expBits - 1) + 1
      let n' := max (-2000) (min 2000 n)
      let r1 := f12.round .rn false b.1 (n' - expBits) true
      let r2 := f12.round .rn false up (n' - expBits) false
      let h := f12Mid r1 r2
      ofF12 (if r1 = r2 then r1 else if exp2Below s den h.1 h.2 then r1 else r2)

/-- Bits of log2 of a number in [1, 2), by repeated squaring of lower and upper bounds with `w` bits after the point. Answers
the bits found and how many they are; it stops where the bounds no longer tell. -/
def log2Bits (w : Nat) : Nat → Nat → Nat → Nat → Nat → Nat × Nat
  | 0, _, _, acc, n => (acc, n)
  | k + 1, lo, hi, acc, n =>
    let l := lo * lo / 2 ^ w
    let h := hi * hi / 2 ^ w + 1
    if 2 ^ (w + 1) ≤ l then log2Bits w k (l / 2) (h / 2 + 1) (2 * acc + 1) (n + 1)
    else if h < 2 ^ (w + 1) then log2Bits w k l h (2 * acc) (n + 1)
    else (acc, n)

/-- flg2 (R91, Table 3.10). A power of two is exact. Else log2 x is irrational and lies between two bounds; where both round alike that is
the result, and where they round to two neighbours the exact comparison with the point halfway between them decides. -/
def flg2Op (x : Nat) : Nat :=
  match fp32.dec x with
  | .nan => fp32.nan
  | .inf neg => if neg then fp32.nan else fp32.inf
  | .fin neg m e =>
    if m = 0 then fp32.signBit + fp32.inf
    else if neg then fp32.nan
    else
      let k := Nat.log2 m
      let n : Int := k + e
      if m = 2 ^ k then ofF12 (f12.round .rn (decide (n < 0)) n.natAbs 0 false)
      else
        let w := 240
        let y := m * 2 ^ w / 2 ^ k
        let r := log2Bits w 110 y y 0 0
        let lo : Int := n * (2 ^ r.2 : Nat) + r.1
        let hi : Int := lo + 1
        let rnd := fun (v : Int) (st : Bool) => f12.round .rn (decide (v < 0)) v.natAbs (-(r.2 : Int)) st
        -- lo ≤ exact ≤ hi; a negative value lies nearer zero than lo
        let r1 := rnd lo false
        let r2 := rnd hi false
        let h := f12Mid r1 r2
        ofF12 (if r1 = r2 then r1 else if log2Below m e (signedMan (decide (lo < 0)) h.1) h.2 then r1 else r2)

/-! ### Conversions -/

/-- A float value to an integer type with range lo..hi (R75). -/
def toIntOp (mode : Rnd) (lo hi : Int) : FV → Int
  | .nan => 0
  | .inf neg => if neg then lo else hi
  | .fin neg m e =>
    let v := if neg && lo = 0 then (0 : Int) else signedMan neg (roundToInt mode neg m e false)
    max lo (min hi v)

/-- An integer to a float format (R76). -/
def Fmt.ofInt (f : Fmt) (mode : Rnd) (v : Int) : Nat := f.round mode (decide (v < 0)) v.natAbs 0 false

/-- An infinite pattern becomes the largest finite value of its sign (R124, R128). -/
def Fmt.satInf (f : Fmt) (x : Nat) : Nat :=
  match f.dec x with
  | .inf neg => (if neg then f.signBit else 0) + f.max
  | _ => x

def cvtFmt : CvtTy → Fmt
  | .f16 => fp16
  | .bf16 => bf16
  | _ => fp32
def cvtRange : CvtTy → Int × Int
  | .s32 => (-2 ^ 31, 2 ^ 31 - 1)
  | .n32 => (0, 2 ^ 32 - 1)
  | .s16 => (-2 ^ 15, 2 ^ 15 - 1)
  | _ => (0, 2 ^ 16 - 1)
def cvtWidth : CvtTy → Nat
  | .s16 | .n16 | .f16 | .bf16 => 16
  | _ => 32
def cvtSigned : CvtTy → Bool
  | .s32 | .s16 => true
  | _ => false

/-- cvt (R123, R124) on one 32-bit value. -/
def cvtOp (f : CvtF) (x : Nat) : Nat :=
  let src := if (cvtWidth f.st) = 16 then (if f.sh then x / 2 ^ 16 else x) % 2 ^ 16 else x
  if f.st.isInt then
    let v : Int := if (cvtSigned f.st) then toSigned (cvtWidth f.st) src else (src : Int)
    if f.dt.isInt then
      let r := (cvtRange f.dt)
      let y : Int := if f.sat then max r.1 (min r.2 v) else v
      let p := ofSigned (cvtWidth f.dt) y
      if (cvtSigned f.dt) then ofSigned 32 (toSigned (cvtWidth f.dt) p) else p
    else
      let p := (cvtFmt f.dt).ofInt f.rnd v
      if f.sat then (cvtFmt f.dt).satInf p else p
  else
    let v := (cvtFmt f.st).dec src
    if f.dt.isInt then
      let r := (cvtRange f.dt)
      ofSigned 32 (toIntOp f.rnd r.1 r.2 v)
    else
      let p := (cvtFmt f.dt).enc f.rnd v
      if f.sat then (cvtFmt f.dt).satInf p else p

/-! ### Narrow formats (R77 to R82) -/

/-- Fraction bits, bias, largest magnitude code and sign bit of a sign–magnitude narrow format. -/
def nParams : NFmt → Nat × Int × Nat × Nat
  | .e4m3 => (3, 7, 0x7F, 0x80)
  | .e5m2 => (2, 15, 0x7F, 0x80)
  | .e2m1 => (1, 1, 0x7, 0x8)
  | .i8 => (0, 0, 127, 0)
  | .i4 => (0, 0, 7, 0)
def nIsInt : NFmt → Bool
  | .i8 | .i4 => true
  | _ => false
def nWidth : NFmt → Nat
  | .e2m1 | .i4 => 4
  | _ => 8

/-- The conversion of R82 of ±m·2^e; ±∞ converts to ±max. NaN is the caller's. -/
def nConv (n : NFmt) (mode : Rnd) : FV → Nat
  | .nan => 0
  | .inf neg =>
    let p := (nParams n)
    if (nIsInt n) then (if neg then ofSigned (nWidth n) (-(p.2.2.1 : Int) - 1) else p.2.2.1)
    else (if neg then p.2.2.2 else 0) + p.2.2.1
  | .fin neg m e =>
    let p := (nParams n)
    if (nIsInt n) then
      let hi : Int := p.2.2.1
      ofSigned (nWidth n) (max (-hi - 1) (min hi (signedMan neg (roundToInt mode neg m e false))))
    else (if neg then p.2.2.2 else 0) + min p.2.2.1 (magCode p.1 p.2.1 mode neg m e false)

/-- The largest finite magnitude of R90 as man·2^exp: 480, 114688, 6, 127 and 7. -/
def nMaxMag : NFmt → Nat × Int
  | .e4m3 => (480, 0)
  | .e5m2 => (114688, 0)
  | .e2m1 => (6, 0)
  | .i8 => (127, 0)
  | .i4 => (7, 0)

/-- The value of a narrow code (R77 to R81). -/
def nDec (n : NFmt) (x : Nat) : Bool × Nat × Int :=
  if (nIsInt n) then
    let v := toSigned (nWidth n) x
    (decide (v < 0), v.natAbs, 0)
  else
    let p := (nParams n)
    let fb := p.1
    let c := x % p.2.2.2
    let e : Nat := c / 2 ^ fb
    let m : Nat := c % 2 ^ fb
    (x / p.2.2.2 % 2 == 1, (if e = 0 then m else 2 ^ fb + m), (if e = 0 then 1 else (e : Int)) - p.2.1 - fb)

/-- a·2^e ≤ b·2^g. -/
def leDy (a : Nat) (e : Int) (b : Nat) (g : Int) : Bool :=
  let e0 := min e g
  decide (a * 2 ^ (e - e0).toNat ≤ b * 2 ^ (g - e0).toNat)

/-- The scale exponent of R90: the smallest k in −137 to 127 for which amax / 2^k does not exceed the largest magnitude;
127 where none does. -/
def scaleExp (n : NFmt) (amax : FV) : Int :=
  match amax with
  | .fin _ m e =>
    let mx := (nMaxMag n)
    match (List.range 265).find? (fun (i : Nat) => leDy m (e - ((i : Int) - 137)) mx.1 mx.2) with
    | some i => (i : Int) - 137
    | none => 127
  | _ => 127

/-- The BS20 word of 2^k for k in −137 to 127 (R85). -/
def bs20OfExp (k : Int) : Nat :=
  if -126 ≤ k then ((k + 127).toNat) * 2 ^ 11 else 2 ^ (k + 137).toNat

def bs20Nan : Nat := 0x7FC00

/-- The value of a BS20 word (R84, R85). -/
def bs20Dec (x : Nat) : FV :=
  let neg := x / 2 ^ 19 % 2 == 1
  let e : Nat := x / 2 ^ 11 % 256
  let m : Nat := x % 2 ^ 11
  if e = 255 then .nan
  else if e = 0 then .fin neg m (-137)
  else .fin neg (2 ^ 11 + m) ((e : Int) - 138)

/-- The larger magnitude of two values. -/
def maxMagFV (a b : FV) : FV :=
  match a, b with
  | .inf _, _ => .inf false
  | _, .inf _ => .inf false
  | .fin _ m e, .fin _ k g => if leDy m e k g then .fin false k g else .fin false m e
  | _, _ => .nan

/-- The scale word and exponent R90 chooses for the values of a block: NaN if any value is NaN. -/
def blockScale (n : NFmt) (vs : List FV) : Nat × Int :=
  if vs.any FV.isNan then (bs20Nan, 0)
  else
    let amax := vs.foldl maxMagFV (.fin false 0 0)
    match amax with
    | .fin _ 0 _ => (bs20OfExp 0, 0)
    | v => let k := scaleExp n v
           (bs20OfExp k, k)

/-- x / 2^k. -/
def scaleDown (k : Int) : FV → FV
  | .fin n m e => .fin n m (e - k)
  | v => v

end Sys2Proof.Machine
end

