-- ==== Sys2Proof/Machine/Alu.lean ====
section
/-! DEFINITION. The results of the integer, floating-point and conversion instructions on the operands of one lane
(Table 4.3, R106 to R110, chapter 05). -/

namespace Sys2Proof.Machine

/-! ### Integer results (Table 4.3) -/

def aluAdd (f : IntF) (a b : W32) : W32 := wrTy f.sat f.ty (rdTy f.ty a + rdTy f.ty b)
def aluSub (f : IntF) (a b : W32) : W32 := wrTy f.sat f.ty (rdTy f.ty a - rdTy f.ty b)
/-- mul: VAR 0 the product, VAR 1 (`.hi`) floor(a × b / 2^32). -/
def aluMul (f : IntF) (a b : W32) : W32 :=
  let p := rdTy f.ty a * rdTy f.ty b
  if f.var = 1 then BitVec.ofInt 32 (p / 2 ^ 32) else wrTy f.sat f.ty p
def aluMad (f : IntF) (a b c : W32) : W32 := wrTy f.sat f.ty (rdTy f.ty a * rdTy f.ty b + rdTy f.ty c)
/-- b′ of the logic operations: b, or NOT b with `.not`. -/
def notB (f : IntF) (b : W32) : W32 := if f.var = 1 then ~~~b else b
def aluAnd (f : IntF) (a b : W32) : W32 := a &&& notB f b
def aluOr (f : IntF) (a b : W32) : W32 := a ||| notB f b
def aluXor (f : IntF) (a b : W32) : W32 := a ^^^ notB f b
/-- shl: 0 for a count of 32 or more. -/
def aluShl (a b : W32) : W32 := if 32 ≤ b.toNat then 0 else a <<< b.toNat
/-- shr: floor(a / 2^min(k, 32)). -/
def aluShr (ty : ITy) (a b : W32) : W32 := BitVec.ofInt 32 (rdTy ty a / (2 ^ min b.toNat 32 : Nat))
def aluMin (f : IntF) (a b : W32) : W32 := if rdTy f.ty a ≤ rdTy f.ty b then a else b
def aluMax (f : IntF) (a b : W32) : W32 := if rdTy f.ty a ≤ rdTy f.ty b then b else a
def aluAbs (f : IntF) (a : W32) : W32 := wrTy f.sat .s (if a.toInt < 0 then -a.toInt else a.toInt)

/-- Count of 0 bits above the highest 1, looking at bits n−1 down to 0. -/
def clzFrom (a : W32) : Nat → Nat
  | 0 => 0
  | n + 1 => if a.getLsbD n then 0 else clzFrom a n + 1
/-- Count of 0 bits below the lowest 1, of n bits from bit i. -/
def ctzFrom (a : W32) (i : Nat) : Nat → Nat
  | 0 => 0
  | n + 1 => if a.getLsbD i then 0 else ctzFrom a (i + 1) n + 1
/-- bit operations by VAR: popc, clz, ctz, brev, bswap. -/
def aluBit (f : IntF) (a : W32) : W32 :=
  match f.var.toNat with
  | 0 => BitVec.ofNat 32 (popcount a)
  | 1 => BitVec.ofNat 32 (clzFrom a 32)
  | 2 => BitVec.ofNat 32 (ctzFrom a 0 32)
  | 3 => maskOf (fun i => a.getLsbD (31 - i))
  | _ => a.extractLsb' 0 8 ++ a.extractLsb' 8 8 ++ a.extractLsb' 16 8 ++ a.extractLsb' 24 8

/-- sdiv (R106): quotient truncated toward zero, or the remainder with `.rem`; division by zero gives 0xFFFF_FFFF and a. -/
def aluDiv (f : IntF) (a b : W32) : W32 :=
  let x := rdTy f.ty a
  let y := rdTy f.ty b
  if y = 0 then (if f.var = 1 then a else 0xFFFFFFFF)
  else BitVec.ofInt 32 (if f.var = 1 then x.tmod y else x.tdiv y)

/-- Offset and width of the field that a specification word names (R107). -/
def fieldOff (sp : W32) : Nat := min (sp.toNat % 256) 32
def fieldWidth (sp : W32) : Nat := min (sp.toNat / 256 % 256) (32 - fieldOff sp)
/-- vbfe (R107). -/
def aluBfe (f : IntF) (a sp : W32) : W32 :=
  let w := fieldWidth sp
  let v := bits a.toNat (fieldOff sp) w
  if w = 0 then 0
  else if f.ty = .s && v.testBit (w - 1) then BitVec.ofInt 32 ((v : Int) - (2 ^ w : Nat))
  else BitVec.ofNat 32 v
/-- vbfi (R107). -/
def aluBfi (a b sp : W32) : W32 :=
  let m := BitVec.ofNat 32 ((2 ^ fieldWidth sp - 1) * 2 ^ fieldOff sp)
  (a &&& ~~~m) ||| (BitVec.ofNat 32 (b.toNat * 2 ^ fieldOff sp) &&& m)

/-- Element i of w bits of a pattern, signed or unsigned. -/
def elemAt (w : Nat) (signed : Bool) (a : W32) (i : Nat) : Int :=
  let v := bits a.toNat (w * i) w
  if signed then toSigned w v else (v : Int)
/-- vdp4 and vdp2 (R109): elements of w bits; VAR 1 and 3 read A signed, 2 and 3 read B signed. -/
def aluDp (w n : Nat) (f : IntF) (a b c : W32) : W32 :=
  let sa := f.var = 1 || f.var = 3
  let sb := f.var = 2 || f.var = 3
  let x := (List.range n).foldl (fun s i => s + elemAt w sa a i * elemAt w sb b i) (rdTy f.ty c)
  wrTy f.sat .s x
/-- vsad (R109). -/
def aluSad (f : IntF) (a b c : W32) : W32 :=
  let w := if f.var = 1 then 16 else 8
  let n := if f.var = 1 then 2 else 4
  BitVec.ofInt 32 ((List.range n).foldl
    (fun s i => s + ((elemAt w false a i - elemAt w false b i).natAbs : Int)) (c.toNat : Int))

/-- sla (R110): base + index × 2^VAR modulo 2^64. -/
def aluSla (f : IntF) (base : W64) (idx : W32) : W64 :=
  BitVec.ofInt 64 ((base.toNat : Int) + rdTy f.ty idx * (2 ^ f.var.toNat : Nat))

def immF (f : ArithI) : IntF := ⟨0, 0, f.sat, f.ty⟩
def plainF (ty : ITy) : IntF := ⟨0, 0, false, ty⟩

/-! ### FP32 (R117) -/

/-- A rounded result with its SAT clamp. -/
def fpOut (f : FpF) (x : Nat) : W32 := BitVec.ofNat 32 (if f.sat then fp32.clamp x else x)
def fpAdd (f : FpF) (a b : W32) : W32 := fpOut f (fp32.add f.rnd a.toNat b.toNat)
def fpSub (f : FpF) (a b : W32) : W32 := fpOut f (fp32.sub f.rnd a.toNat b.toNat)
def fpMul (f : FpF) (a b : W32) : W32 := fpOut f (fp32.mul f.rnd a.toNat b.toNat)
def fpFma (f : FpF) (a b c : W32) : W32 := fpOut f (fp32.fma f.rnd a.toNat b.toNat c.toNat)
def fpMin (a b : W32) : W32 := BitVec.ofNat 32 (fp32.minmax false a.toNat b.toNat)
def fpMax (a b : W32) : W32 := BitVec.ofNat 32 (fp32.minmax true a.toNat b.toNat)
def fpCmp (f : FpF) (a b : W32) : Bool := fcond f.var.toNat (fp32.dec a.toNat) (fp32.dec b.toNat)
def fpCls (a m : W32) : Bool := (BitVec.ofNat 32 (fclass a.toNat) &&& m) != 0
def fpRnd (f : FpF) (a : W32) : W32 := BitVec.ofNat 32 (frndOp f.rnd a.toNat)
def fpSqrt (f : FpF) (a : W32) : W32 := fpOut f (fp32.sqrt f.rnd (fp32.dec a.toNat))
def fpDiv (f : FpF) (a b : W32) : W32 := fpOut f (fp32.div f.rnd (fp32.dec a.toNat) (fp32.dec b.toNat))
def fpScl (f : FpF) (a b : W32) : W32 := fpOut f (fsclOp f.rnd a.toNat b.toInt)
def fpRcp (a : W32) : W32 := BitVec.ofNat 32 (frcpOp a.toNat)
def fpRsq (a : W32) : W32 := BitVec.ofNat 32 (frsqOp a.toNat)
def fpEx2 (a : W32) : W32 := BitVec.ofNat 32 (fex2Op a.toNat)
def fpLg2 (a : W32) : W32 := BitVec.ofNat 32 (flg2Op a.toNat)

/-! ### Packed halves (R121) -/

def half (x : W32) (i : Nat) : Nat := bits x.toNat (16 * i) 16
def joinHalves (lo hi : Nat) : W32 := BitVec.ofNat 32 (hi % 2 ^ 16 * 2 ^ 16 + lo % 2 ^ 16)
def pkFmt (f : PkF) : Fmt := if f.bf then bf16 else fp16
/-- The two halves of a packed result, each by `op` and clamped with SAT. -/
def pk2 (f : PkF) (op : Nat → Nat) : W32 :=
  let g := fun i => let x := op i
                    if f.sat then (pkFmt f).clamp x else x
  joinHalves (g 0) (g 1)
def hpAdd (f : PkF) (a b : W32) : W32 := pk2 f (fun i => (pkFmt f).add f.rnd (half a i) (half b i))
def hpMul (f : PkF) (a b : W32) : W32 := pk2 f (fun i => (pkFmt f).mul f.rnd (half a i) (half b i))
def hpFma (f : PkF) (a b c : W32) : W32 := pk2 f (fun i => (pkFmt f).fma f.rnd (half a i) (half b i) (half c i))
def hpMin (f : PkF) (a b : W32) : W32 := pk2 f (fun i => (pkFmt f).minmax false (half a i) (half b i))
def hpMax (f : PkF) (a b : W32) : W32 := pk2 f (fun i => (pkFmt f).minmax true (half a i) (half b i))
def hpCmp (f : PkF) (a b : W32) : W32 :=
  let g := fun i => if fcond f.var.toNat ((pkFmt f).dec (half a i)) ((pkFmt f).dec (half b i)) then 0xFFFF else 0
  joinHalves (g 0) (g 1)
def hpDot (f : PkF) (a b c : W32) : W32 := BitVec.ofNat 32 (hdot2Op (pkFmt f) f.rnd a.toNat b.toNat c.toNat)

/-- cvt on a lane (R124). -/
def cvtLane (f : CvtF) (a : W32) : W32 := BitVec.ofNat 32 (cvtOp f a.toNat)

/-- pack (R128). -/
def packLane (f : PackF) (a b : W32) : W32 :=
  if f.var = 2 then joinHalves (half a f.ha.toNat) (half b f.hb.toNat)
  else
    let t := if f.var = 0 then fp16 else bf16
    let g := fun (x : W32) => let y := t.enc f.rnd (fp32.dec x.toNat)
                              if f.sat then t.satInf y else y
    joinHalves (g a) (g b)

/-- A word with element e of w bits replaced (R125). -/
def putElem (w : Nat) (x : W32) (e code : Nat) : W32 :=
  let m := BitVec.ofNat 32 ((2 ^ w - 1) * 2 ^ (w * e))
  (x &&& ~~~m) ||| (BitVec.ofNat 32 (code * 2 ^ (w * e)) &&& m)

/-- One lane of cvtn without a scale (R126): the new word, and whether a NaN was dropped. -/
def cvtnLane (f : CvtnF) (d a b : W32) : W32 × Bool :=
  let w := nWidth f.fmt
  let x := fp32.dec a.toNat
  let y := fp32.dec b.toNat
  let e := 2 * f.q.toNat
  (putElem w (putElem w d e (nConv f.fmt f.rnd x)) (e + 1) (nConv f.fmt f.rnd y), x.isNan || y.isNan)

/-- One lane of cvtn with a scale (R127). -/
def cvtnScLane (f : CvtnF) (sc : Nat × Int) (d a b : W32) : W32 :=
  let w := nWidth f.fmt
  let g := fun (x : W32) => if sc.1 = bs20Nan then 0 else nConv f.fmt f.rnd (scaleDown sc.2 (fp32.dec x.toNat))
  let e := 2 * f.q.toNat
  putElem w (putElem w d e (g a)) (e + 1) (g b)

/-! ### Reductions (R96 to R98) -/

/-- One combining step of vred and vscan (R131). -/
def redOp (f : RedF) (x y : W32) : W32 :=
  let ty : ITy := if f.ty = .s then .s else .n
  match f.ty, f.opr.toNat with
  | .f, 0 => BitVec.ofNat 32 (fp32.add f.rnd x.toNat y.toNat)
  | .f, 1 => fpMin x y
  | .f, _ => fpMax x y
  | _, 0 => x + y
  | _, 1 => aluMin (plainF ty) x y
  | _, 2 => aluMax (plainF ty) x y
  | _, 3 => x &&& y
  | _, 4 => x ||| y
  | _, _ => x ^^^ y
/-- The identities of Table 3.13. -/
def redId (f : RedF) : W32 :=
  match f.ty, f.opr.toNat with
  | .f, 0 => 0x80000000
  | .f, 1 => 0x7F800000
  | .f, _ => 0xFF800000
  | .s, 1 => 0x7FFFFFFF
  | .s, 2 => 0x80000000
  | _, 1 => 0xFFFFFFFF
  | _, 3 => 0xFFFFFFFF
  | _, _ => 0

/-- One level of the tree of R96: neighbours combined, lower lanes on the left. -/
def pairUp {α : Type} (op : α → α → α) : List α → List α
  | a :: b :: t => op a b :: pairUp op t
  | l => l
/-- The tree of R96 over 2^k values. -/
def treeRed {α : Type} (op : α → α → α) : Nat → List α → List α
  | 0, l => l
  | k + 1, l => treeRed op k (pairUp op l)
/-- One step of the scan of R97 at distance d. -/
def scanStep {α : Type} (op : α → α → α) (dflt : α) (l : List α) (d : Nat) : List α :=
  (List.range l.length).map (fun i => if d ≤ i then op (l.getD (i - d) dflt) (l.getD i dflt) else l.getD i dflt)
/-- The inclusive scan of R97 over 32 values. -/
def scanRed {α : Type} (op : α → α → α) (dflt : α) (l : List α) : List α :=
  [1, 2, 4, 8, 16].foldl (scanStep op dflt) l

/-! ### Atomic operations (Table 12.5) -/

/-- f(old, v) of Table 12.5 on n-bit patterns (n is 32 or 64). -/
def atomOp (opr n old v : Nat) : Nat :=
  let s := toSigned n
  match opr with
  | 0 => (old + v) % 2 ^ n
  | 1 => if s old ≤ s v then old else v
  | 2 => if s old ≤ s v then v else old
  | 3 => min old v
  | 4 => max old v
  | 5 => Nat.land old v
  | 6 => Nat.lor old v
  | 7 => Nat.xor old v
  | 8 => v
  | 9 => if v ≤ old then 0 else old + 1
  | 10 => if old = 0 || v < old then v else old - 1
  | 11 => fp32.add .rn old v
  | 12 => fp32.minmax false old v
  | 13 => fp32.minmax true old v
  | 14 => fp16.add .rn (old % 2 ^ 16) (v % 2 ^ 16) + fp16.add .rn (old / 2 ^ 16) (v / 2 ^ 16) * 2 ^ 16
  | _ => bf16.add .rn (old % 2 ^ 16) (v % 2 ^ 16) + bf16.add .rn (old / 2 ^ 16) (v / 2 ^ 16) * 2 ^ 16
/-- The identity of redb's combining tree (R268, Table 3.13). -/
def atomId (opr n : Nat) : Nat :=
  match opr with
  | 1 => 2 ^ (n - 1) - 1
  | 2 => 2 ^ (n - 1)
  | 3 => 2 ^ n - 1
  | 5 => 2 ^ n - 1
  | 11 => 0x80000000
  | 12 => 0x7F800000
  | 13 => 0xFF800000
  | 14 => 0x80008000
  | 15 => 0x80008000
  | _ => 0

end Sys2Proof.Machine
end

