-- ==== Sys2Proof/Machine/Crypto.lean ====
section
/-! DEFINITION. The cipher, hash and code the spec names by their public standards: AES-256-XTS on a 128-byte line (R310),
SHA-512 (R184) and the CRC-64 of ECMA-182 (R353). AES and SHA-512 are taken from their standards (entry 15, PRESUMED). -/

namespace Sys2Proof.Machine

/-! ### AES-256 on blocks of 16 bytes -/

/-- Multiplication by x in GF(2^8) modulo x^8 + x^4 + x^3 + x + 1. -/
def gfX (a : Byte) : Byte := if a.getLsbD 7 then (a <<< 1) ^^^ 0x1B else a <<< 1
/-- Product in GF(2^8) over bits 7 down to 0 of b. -/
def gfMulBits (a b : Byte) : Nat → Byte → Byte
  | 0, r => r
  | k + 1, r => gfMulBits a b k ((gfX r) ^^^ (if b.getLsbD k then a else 0))
def gfMul (a b : Byte) : Byte := gfMulBits a b 8 0
/-- a^(2^k − 2) by squarings: the inverse for k = 8, and 0 for 0. -/
def gfInv (a : Byte) : Byte :=
  let step := fun (p : Byte × Byte) (_ : Nat) => let q := gfMul p.1 p.1
                                                (q, gfMul p.2 q)
  ((List.range 7).foldl step (a, 1)).2
def rotl8 (x : Byte) (n : Nat) : Byte := x.rotateLeft n
/-- The AES S-box. -/
def sbox (a : Byte) : Byte :=
  let b := gfInv a
  b ^^^ rotl8 b 1 ^^^ rotl8 b 2 ^^^ rotl8 b 3 ^^^ rotl8 b 4 ^^^ 0x63
def invSbox (a : Byte) : Byte :=
  gfInv (rotl8 a 1 ^^^ rotl8 a 3 ^^^ rotl8 a 6 ^^^ 0x05)

def xorBytes (a b : List Byte) : List Byte := List.zipWith (· ^^^ ·) a b

/-- The next key-schedule word from the words so far, latest first (Nk = 8). -/
def keyStep (ws : List (List Byte)) (i : Nat) : List (List Byte) :=
  let prev := ws.getD 0 []
  let back := ws.getD 7 []
  let t :=
    if i % 8 = 0 then
      let r := (prev.drop 1 ++ prev.take 1).map sbox
      xorBytes r [(List.range (i / 8 - 1)).foldl (fun a _ => gfX a) 1, 0, 0, 0]
    else if i % 8 = 4 then prev.map sbox
    else prev
  xorBytes back t :: ws
/-- The 15 round keys of 16 bytes. -/
def roundKeys (key : List Byte) : List (List Byte) :=
  let w0 := (List.range 8).map (fun i => (key.drop (4 * i)).take 4)
  let ws := ((List.range 52).foldl (fun a i => keyStep a (i + 8)) w0.reverse).reverse
  (List.range 15).map (fun r => ((ws.drop (4 * r)).take 4).flatten)

def at16 (b : List Byte) (i : Nat) : Byte := b.getD i 0
def shiftRows (b : List Byte) : List Byte := (List.range 16).map (fun i => at16 b ((i + 4 * (i % 4)) % 16))
def invShiftRows (b : List Byte) : List Byte := (List.range 16).map (fun i => at16 b ((i + 12 * (i % 4)) % 16))
def mixWith (m : List Byte) (b : List Byte) : List Byte :=
  (List.range 16).map (fun i =>
    (List.range 4).foldl (fun a j => a ^^^ gfMul (m.getD ((j + 4 - i % 4) % 4) 0) (at16 b (4 * (i / 4) + j))) 0)
def aesEnc (ks : List (List Byte)) (b : List Byte) : List Byte :=
  let k := fun i => ks.getD i []
  let s := (List.range 13).foldl
    (fun s r => xorBytes (mixWith [2, 3, 1, 1] (shiftRows (s.map sbox))) (k (r + 1))) (xorBytes b (k 0))
  xorBytes (shiftRows (s.map sbox)) (k 14)
def aesDec (ks : List (List Byte)) (b : List Byte) : List Byte :=
  let k := fun i => ks.getD i []
  let s := (List.range 13).foldl
    (fun s r => mixWith [14, 11, 13, 9] (xorBytes ((invShiftRows s).map invSbox) (k (13 - r)))) (xorBytes b (k 14))
  xorBytes ((invShiftRows s).map invSbox) (k 0)

/-- The tweak of a line (R310): VA[55:7] in [48:0], the ASID in [75:64]. -/
def lineTweak (asid va : Nat) : List Byte := leBytes 16 (va / 128 % 2 ^ 49 + asid % 2 ^ 12 * 2 ^ 64)
/-- Multiplication of a tweak by x in GF(2^128), little-endian (XTS). -/
def tweakX (t : List Byte) : List Byte :=
  let n := leVal t * 2
  leBytes 16 (if n < 2 ^ 128 then n else Nat.xor (n % 2 ^ 128) 0x87)
/-- One line through XTS with a block cipher. -/
def xtsLine (f : List Byte → List Byte) (t : List Byte) : Nat → List Byte → List Byte
  | 0, _ => []
  | n + 1, d => xorBytes (f (xorBytes (d.take 16) t)) t ++ xtsLine f (tweakX t) n (d.drop 16)
def encLine (key : List Byte) (asid va : Nat) (d : List Byte) : List Byte :=
  xtsLine (aesEnc (roundKeys (key.take 32))) (aesEnc (roundKeys (key.drop 32)) (lineTweak asid va)) 8 d
def decLine (key : List Byte) (asid va : Nat) (d : List Byte) : List Byte :=
  xtsLine (aesDec (roundKeys (key.take 32))) (aesEnc (roundKeys (key.drop 32)) (lineTweak asid va)) 8 d

/-! ### SHA-512 -/

/-- Largest r with r³ ≤ n, by bits. -/
def icbrtBits (n : Nat) : Nat → Nat → Nat
  | 0, r => r
  | k + 1, r => let t := r + 2 ^ k
                icbrtBits n k (if t * t * t ≤ n then t else r)
def primes80 : List Nat :=
  ((List.range 410).filter (fun n => 2 ≤ n && (List.range n).all (fun d => d < 2 || n % d != 0))).take 80
/-- Fractional bits of cube roots of the first 80 primes. -/
def shaK : List W64 := primes80.map (fun p => BitVec.ofNat 64 (icbrtBits (p * 2 ^ 192) 68 0))
/-- Fractional bits of square roots of the first 8 primes. -/
def shaH : List W64 := (primes80.take 8).map (fun p => BitVec.ofNat 64 (isqrt (p * 2 ^ 128)))
def rotr64 (x : W64) (n : Nat) : W64 := x.rotateRight n
/-- The next message-schedule word from the words so far, latest first. -/
def shaNext (ws : List W64) : W64 :=
  let g := fun i => ws.getD i 0
  let s0 := rotr64 (g 14) 1 ^^^ rotr64 (g 14) 8 ^^^ (g 14 >>> 7)
  let s1 := rotr64 (g 1) 19 ^^^ rotr64 (g 1) 61 ^^^ (g 1 >>> 6)
  g 15 + s0 + g 6 + s1
def shaRound (st : List W64) (kw : W64 × W64) : List W64 :=
  let g := fun i => st.getD i 0
  let s1 := rotr64 (g 4) 14 ^^^ rotr64 (g 4) 18 ^^^ rotr64 (g 4) 41
  let ch := (g 4 &&& g 5) ^^^ (~~~(g 4) &&& g 6)
  let t1 := g 7 + s1 + ch + kw.1 + kw.2
  let s0 := rotr64 (g 0) 28 ^^^ rotr64 (g 0) 34 ^^^ rotr64 (g 0) 39
  let mj := (g 0 &&& g 1) ^^^ (g 0 &&& g 2) ^^^ (g 1 &&& g 2)
  [t1 + s0 + mj, g 0, g 1, g 2, g 3 + t1, g 4, g 5, g 6]
def beVal (bs : List Byte) : Nat := leVal bs.reverse
def shaBlock (h : List W64) (blk : List Byte) : List W64 :=
  let w0 := (List.range 16).map (fun i => BitVec.ofNat 64 (beVal ((blk.drop (8 * i)).take 8)))
  let ws := ((List.range 64).foldl (fun a _ => shaNext a :: a) w0.reverse).reverse
  List.zipWith (· + ·) h ((shaK.zip ws).foldl shaRound h)
def shaPad (m : List Byte) : List Byte :=
  m ++ [0x80] ++ List.replicate ((239 - m.length % 128) % 128) 0 ++ (leBytes 16 (8 * m.length)).reverse
/-- SHA-512 in its output byte order. -/
def sha512 (m : List Byte) : List Byte :=
  let p := shaPad m
  let h := (List.range (p.length / 128)).foldl (fun h i => shaBlock h ((p.drop (128 * i)).take 128)) shaH
  h.flatMap (fun x => (leBytes 8 x.toNat).reverse)

/-! ### CRC-64 of ECMA-182 (R353) -/

def crcBits : Nat → W64 → W64
  | 0, c => c
  | n + 1, c => crcBits n (if c.getLsbD 63 then (c <<< 1) ^^^ 0x42F0E1EBA9EA3693 else c <<< 1)
/-- Initial value zero, no reflection, no final inversion. -/
def crc64 (m : List Byte) : W64 :=
  m.foldl (fun (c : W64) (b : Byte) => crcBits 8 (c ^^^ (BitVec.ofNat 64 (b.toNat * 2 ^ 56)))) 0

end Sys2Proof.Machine
end

