-- ==== Sys2Proof/Machine/State.lean ====
section
/-! DEFINITION. The state of the package as plain data: waves and their registers, cores, dies, slices, channels, contexts,
queues, kernels, operations in flight, links, ports and the capacity record; and the state after reset. -/

namespace Sys2Proof.Machine

/-- A 56-bit code address (Table 10.1). -/
abbrev Addr := BitVec 56

/-- A register value with its poison bit (R257). -/
structure Val where
  v : W32
  psn : Bool
deriving DecidableEq, Repr

/-- The register that a write in flight names. -/
inductive Dst where
  | v (n : Nat)
  | s (n : Nat)
  | p (n : Nat)
  | x (n : Nat)
  /-- a format descriptor: its two words stand as lanes 0 and 1 -/
  | fd (n : Nat)
deriving DecidableEq, Repr

/-- A write issued since the wave's last settle point, or issued before it and still outstanding (R42 to R46): its lanes' values
(lane 0 for a scalar or index register), as far as they are known, and when it is written: at a cycle, or (`due = none`) when `done` is set by the event that writes it. -/
structure Pend where
  dst : Dst
  /-- the lanes it writes -/
  e : Mask
  vals : List (Nat × Val)
  due : Option Nat
  done : Bool
  /-- issued before the wave's last settle point -/
  old : Bool
  op : Nat
deriving DecidableEq, Repr

/-- One lane of an access: address, data and compare operands with poison bits (R220), and how the lane stands. -/
structure LaneA where
  lane : Nat
  addr : Nat
  data : Nat
  cmp : Nat
  apsn : Bool
  dpsn : Bool
  cpsn : Bool
  /-- its line request has been checked and its status returned (R298) -/
  chk : Bool
  /-- performed, or satisfied -/
  fin : Bool
  /-- the cause of the lane's fault, 0 for none -/
  cause : Nat
  /-- the value a load or atomic returned, and its poison -/
  got : Nat
  gpsn : Bool
deriving DecidableEq, Repr

/-- What a split in a wait state waits for. -/
inductive SplitSt where
  | runnable
  | waitMerge
  /-- slot and phase token (R236); `opn`: an open follows the wait; `woken`: the phase has ended -/
  | waitBar (slot : Nat) (token : Bool) (opn woken : Bool)
  /-- CHUNK slot and map mask (R243); `woken`: the bits were all set -/
  | waitMap (slot : Nat) (m : W64) (woken : Bool)
  /-- the watch of R247 -/
  | waitWatch (va : Nat) (cond : WCond) (val : W32) (until? : Option Nat) (poll : Bool) (next : Nat) (pq : PReg) (d : SReg)
      (e : Mask) (opn : Bool) (op : Nat) (wake : Option W32)
  | sleep (till : Nat)
  | settle (till : Nat)
  | exited
  | unused
deriving DecidableEq, Repr

/-- Why a runnable split does not issue. -/
inductive Hold where
  | none
  /-- waits for the statuses of an access (R298) -/
  | access (op : Nat)
  /-- back-off of a lane fault until a cycle (R152) -/
  | backoff (till : Nat)
  /-- waits for an operation to complete (acceptance, an exit's close) -/
  | op (o : Nat)
  /-- waits for matrix commands: those of a batch and of the wave's earlier ones (R339) -/
  | batch (cmds : List Nat)
  /-- at rest after a yield (R161) -/
  | yielded
  /-- a resumed fragment whose core has not opened yet (R220) -/
  | replay
  /-- held by header waits (R38) -/
  | clause
deriving DecidableEq, Repr

/-- The captured operands a resumed fragment replays with (R220). -/
structure Capture where
  lanes : List LaneA
deriving DecidableEq, Repr

/-- The wave's outstanding work as a split enters a clause, which the header's waits are about (R38): operations that will write
registers, stores, and the matrix commands that WM names. -/
structure ClauseWork where
  res : List Nat
  stores : List Nat
  mx : List Nat
deriving DecidableEq, Repr

/-- A split-table entry (Table 10.1). `hdrw` is the header in force (none: the header is still to be checked); `recheck` asks for
the clause waits again (R37). -/
structure Split where
  pc : Addr
  hdr : Addr
  rpc : W64
  mask : Mask
  st : SplitSt
  age : Nat
  last : Nat
  hdrw : Option W64
  recheck : Bool
  hold : Hold
  bo : Nat
  replay : Option (Option Capture)
  /-- a split that issues nothing while its wave is in handler mode (R146) -/
  frozen : Bool
  /-- what the waits of the clause it enters are about -/
  cw : ClauseWork
  /-- an S that is not over: the cycle by which its results are written, kept through a wait state (R43) -/
  settle : Option Nat
deriving DecidableEq, Repr

/-- An overflow-stack entry (R208). -/
structure StackE where
  mask : Mask
  target : Addr
  rpc : W64
deriving DecidableEq, Repr

/-- A region record (R347). -/
structure Region where
  pc : Addr
  hdr : Addr
  mask : Mask
  ck0 : W32
  ck1 : W32
  ckp : Bool
  rseq : Nat
  rcnt : Nat
  /-- the fragments of the wave parked before the entry: entry and GEN (R349) -/
  frags : List (Nat × Nat)
deriving DecidableEq, Repr

/-- A matrix batch (R339): its number and its commands that have not finished. -/
structure Batch where
  num : Nat
  cmds : List Nat
deriving DecidableEq, Repr

/-- A trap on its way into the handler (R146). -/
structure TrapIn where
  k : Nat
  pc : Addr
  hdr : Addr
  cause : Nat
  info : Nat
deriving DecidableEq, Repr

/-- A wave in its slot. -/
structure Wave where
  uid : Nat
  /-- the die it is on, whose cycles its counts are in -/
  die : Nat
  block : Nat
  copy : Nat
  kernel : Nat
  asid : Nat
  waveId : Nat
  rowBase : Nat
  allot : Nat
  ilk : Bool
  twin : Bool
  v : List (Nat × List Val)
  s : List (Nat × Val)
  p : List (Nat × (Mask × Mask))
  x : List (Nat × W32)
  pend : List Pend
  fd : List (Nat × W64)
  splits : List Split
  stack : List StackE
  wsm : Mask
  wspc : Addr
  /-- the cycle until which the S of a wsync holds the gathered split (R43) -/
  wsTill : Nat
  /-- where the gathered split goes on: its PC and HDR (R214) -/
  wsNext : Addr
  wsHdr : Addr
  exited : Mask
  hmode : Bool
  frame : Nat
  /-- depth of the overflow stack at handler entry -/
  hdepth : Nat
  trap : Option TrapIn
  /-- the poison of s0 to s3 at handler entry, read back with SAVEDS (R257) -/
  savedPsn : List Bool
  /-- the replay that the trap interrupted: its PC and captured operands, for the issue after tret (R220) -/
  savedRep : Option (Addr × Option Capture)
  /-- closes of `phase`, each with the lanes of its split: those lanes' later memory operations wait for it (R283) -/
  fences : List (Nat × Mask)
  /-- operations in the replay queue, in issue order (R147) -/
  rq : List Nat
  splovf : W32
  nandrop : Bool
  preq : Bool
  clkHi : W32
  live : Option Nat
  wdm : Mask
  bc : Nat
  openBatch : List Nat
  batches : List Batch
  ck0 : W32
  ck1 : W32
  ckp : Bool
  region : Region
  rseq : Nat
  /-- region entries of a twin wave that wait for their match: entry id and record -/
  pendRgn : List (Nat × Region)
  epoch : Nat
  /-- compared issues counted per key (RSEQ, VA, lowest lane) since the last rgn or restart (R353) -/
  keyCnt : List ((Nat × Nat × Nat) × Nat)
  sdivTill : Nat
  /-- the close of the exiting wave (R218) -/
  exitOp : Option Nat
  /-- the lanes of the wave's latest exit, which a restart takes back while the exit's close is open (R354; entry 83) -/
  lastExit : Mask
  stopped : Bool
deriving DecidableEq, Repr

/-- A barrier slot (Table 11.1). KIND: 0 UNINIT, 1 LANE, 2 BYTE, 3 CHUNK, 4 CLUSTER. -/
structure Bar where
  kind : Nat
  ph : Bool
  ovf : Bool
  count : Nat
  exp : Nat
  wmask : W32
  map : W64
  named : Nat
  epost : Nat
  cnt : List (Nat × Nat)
  expi : List (Nat × Nat)
  rc0 : Nat
  rc1 : Nat
  /-- CLUSTER: the local part of the present phase is complete (R235) -/
  loc : Bool
deriving DecidableEq, Repr

/-- A fragment-table entry (R219, Table 10.4). FSTATE: 0 FREE, 1 PARKED, 2 RESUMABLE. -/
structure Frag where
  gen : Nat
  fstate : Nat
  asid : Nat
  slot : Nat
  wuid : Nat
  cap : Bool
  mask : Mask
  opc : Nat
  pc : Addr
  hdr : Addr
  rpc : W64
  block : Nat
  lanes : List LaneA
  /-- holds one of its core's four trap permits (R152) -/
  permit : Bool
  /-- order in which frag.resume was accepted (R203) -/
  order : Nat
deriving DecidableEq, Repr

/-- An accumulator tile (R327): committed values keyed 64·i + j (absent: +0), and its bits. -/
structure Tile where
  acc : List (Nat × W32)
  valid : Bool
  dirty : Bool
  psn : Bool
deriving DecidableEq, Repr

/-- A B block in a macro (R93, R326): q keyed 64·k + j, exponent and scale per column; NaN columns. -/
structure MacroB where
  q : List (Nat × Int)
  eb : List (Nat × Int)
  sb : List (Nat × (Nat × Nat))
  nanCol : List Nat
deriving DecidableEq, Repr

/-- A macro (R326, Table 16.3). State: 0 EMPTY, 1 LOADING, 2 READY; the format (0: EMPTY), tag and owner of its contents, or of those
that are loading. -/
structure Macro where
  st : Nat
  fmt : Nat
  tag : BitVec 16
  owner : Nat
  b : MacroB
  psn : Bool
deriving DecidableEq, Repr

/-- An L1 line (R253). -/
structure L1Line where
  asid : Nat
  va : Nat
  data : List Byte
  sealed : Bool
  psn : Bool
deriving DecidableEq, Repr

/-- A slice of a core (R204, R205): the split whose clause runs, the slot issued last, the divide unit. -/
structure SliceSt where
  run : Option (Nat × Nat)
  lastSlot : Nat
  divTill : Nat
deriving DecidableEq, Repr

/-- A core. -/
structure Core where
  l1 : List L1Line
  spad : List (Nat × Byte)
  spadPsn : List Nat
  /-- the context whose value a scratchpad byte was last written by (R190) -/
  spadCtx : List (Nat × Nat)
  bars : List (Nat × Bar)
  frags : List (Nat × Frag)
  tiles : List (Nat × Tile)
  macros : List (Nat × Macro)
  slices : List (Nat × SliceSt)
  clk0 : Nat
  /-- deadline of a context being pre-empted: ASID and cycle (R153) -/
  deadlines : List (Nat × Nat)
deriving DecidableEq, Repr

/-- States of Table 19.2. -/
inductive DieSt where
  | spareOff | off | failed | admitting | active | fencing | quiesced | reset
deriving DecidableEq, Repr

/-- A compute die, a cache die or I/O die 1 as a node (R369, R371). -/
structure Chiplet where
  st : DieSt
  lid : Option Nat
  err : Bool
  mhz : Nat
  /-- amperes granted by the arbiter (R378) -/
  grant : Nat
  /-- cycles at which the clock was last looked at and last raised -/
  stepAt : Nat
  raiseAt : Nat
  /-- MHz × time since the start, counted up to time `since`: 1100 of them are one cycle of the die (R5) -/
  acc : Nat
  since : Nat
  /-- the count and the time at the last refresh of CLKMHZ -/
  accRef : Nat
  refAt : Nat
deriving DecidableEq, Repr

/-- A dispatcher's pointers (R188). -/
structure Disp where
  cluster : Nat
  cores : List (Nat × Nat)
deriving DecidableEq, Repr

/-- A slice line (R254, R297). -/
structure SLine where
  data : List Byte
  dirty : Bool
  chan : Nat
  frame : Nat
  w : Bool
  x : Bool
  sealed : Bool
  pp : Bool
  keyed : Bool
  psn : Bool
deriving DecidableEq, Repr

/-- A cached translation (Table 14.1). -/
structure Trans where
  asid : Nat
  vpn : Nat
  w0 : W64
  w1 : W64
deriving DecidableEq, Repr

inductive ChanSt where
  | active | retiring | retired
deriving DecidableEq, Repr

/-- A check line in a controller's ECC cache (R306): its row, and the PSN and PASID of the check words updated since it was read, by line
of the channel (none: PSN = 0). -/
structure CheckLine where
  row : Nat
  dirty : Bool
  words : List (Nat × Option Nat)
deriving DecidableEq, Repr

/-- A row image of a bank (R307): its row, and the lines written since it was read, by line of the channel. -/
structure RowImage where
  row : Nat
  dirty : Bool
  lines : List (Nat × List Byte)
deriving DecidableEq, Repr

/-- The page at BP while it is in transit (R373): where its entry lies in the table, the entry's words, and the engine's step: 1 takes a
frame, 2 has one, 3 has copied it, 4 has written the entries; the new channel and frame. -/
structure Transit where
  off : Nat
  w0 : Nat
  w1 : Nat
  step : Nat
  dest : Nat
  frame : Nat
deriving DecidableEq, Repr

/-- A memory channel. -/
structure Chan where
  st : ChanSt
  tlb : List Trans
  /-- the ECC cache, most recent first (R306) -/
  ecc : List CheckLine
  /-- row images of all banks, most recent first (R307) -/
  rows : List RowImage
  /-- corrected errors: row and cycle (R372) -/
  corr : List (Nat × Nat)
  hintTill : Nat
  banked : Nat
  /-- boundary pointer (ASID, VPN) while RETIRING (R373); `order` is when it entered RETIRING -/
  bp : Option (Nat × Nat)
  transit : Option Transit
  /-- the conflict buffer: the lines of the accesses to the page in transit, in arrival order (R374) -/
  conflict : List Nat
  order : Nat
  /-- VA of the frame pool, and the indices of its words already taken (R373) -/
  pool : Option Nat
  taken : List Nat
  /-- 0 running or waiting, 3 paused for want of a frame, 2 stopped -/
  halt : Nat
  /-- stripe maps in force just before the channel entered RETIRING: ASID and the indices that named it -/
  old : List (Nat × List Nat)
  /-- pages of those indices that were not the channel's then, since an earlier retirement had still to move them: ASID, index, and a range of VPNs -/
  away : List (Nat × Nat × Nat × Nat)
deriving DecidableEq, Repr

/-- Whom a watch entry wakes (R245). -/
inductive WTarget where
  | split (u : SplitRef)
  | dep (q d : Nat)
deriving DecidableEq, Repr

/-- A watch entry at a home slice. -/
structure Watch where
  slice : Nat
  asid : Nat
  va : Nat
  cond : WCond
  val : W32
  target : WTarget
deriving DecidableEq, Repr

/-- Context states of Table 6.1. -/
inductive CtxSt where
  | free | building | ready | running | preempting | saved | draining | dead
deriving DecidableEq, Repr

/-- A saved block of a core image (R156), kept as data: its waves by slot, its fragments, its shares, and the remaining timeouts of
its watches (R251). -/
structure Image where
  lid : Nat
  core : Nat
  block : Nat
  copy : Nat
  waves : List (Nat × Wave)
  frags : List (Nat × Frag)
  bars : List (Nat × Bar)
  tiles : List (Nat × Tile)
  macros : List (Nat × Macro)
  spad : List (Nat × Byte)
  spadPsn : List Nat
  remain : List (SplitRef × Nat)
deriving DecidableEq, Repr

/-- A context (R137, Table 6.1). -/
structure Ctx where
  st : CtxSt
  seqn : Nat
  result : Nat
  lastCmd : Nat
  busy : Bool
  recVa : Nat
  keyed : Bool
  ilk : Bool
  dieset : Nat
  chanset : List Nat
  deadline : Nat
  handler : Nat
  fqBase : Nat
  fqLog2 : Nat
  frameBase : Nat
  saveBase : Nat
  capsig : Nat
  key : List Byte
  stripe : List (Nat × Nat)
  images : List Image
  /-- cores, by die, whose deadline count ran out with blocks of the context not saved: each is to make its record (R155) -/
  forced : List (Nat × Nat)
deriving DecidableEq, Repr

/-- Queue states of Table 7.1. -/
inductive QueueSt where
  | closed | opened | paused | draining | faulted
deriving DecidableEq, Repr

/-- A dependence of a queue's head (R171): met, watched, or polled at a cycle; `told` once its failing read is recorded. -/
structure Dep where
  met : Bool
  armed : Bool
  next : Nat
  told : Bool
  woken : Bool
deriving DecidableEq, Repr

/-- A queue (Table 7.1). -/
structure Queue where
  st : QueueSt
  seqn : Nat
  result : Nat
  lastCmd : Nat
  busy : Bool
  recVa : Nat
  asid : Nat
  qlog2 : Nat
  stopErr : Bool
  msg : Bool
  pmax : Nat
  storeVa : Nat
  pend : List Nat
  accepted : Nat
  rejects : Nat
  qpn : Nat
  deps : List Dep
  stale : Bool
deriving DecidableEq, Repr

/-- A launch record's fields (Table 8.1). -/
structure Launch where
  codeVa : Nat
  entry : Nat
  gx : Nat
  gy : Nat
  gz : Nat
  gsize : Nat
  nwave : Nat
  allot : Nat
  spad : Nat
  bars : Nat
  tiles : Nat
  twin : Bool
  rerun : Bool
  ilk : Bool
  jobrec : Bool
  prio : Nat
  slack : Nat
  codelen : Nat
  queue : Nat
  param : Nat
  deps : List (Nat × Nat × Nat)
  doneVa : Nat
  doneVal : Nat
  jobVa : Nat
  hoff : Nat
  hqpn : Nat
deriving DecidableEq, Repr

/-- Kernel states of Table 8.2. -/
inductive KernSt where
  | pending | ready | dispatching | running | completing | done | aborted
deriving DecidableEq, Repr

/-- A kernel (R180). `phase` of its completion: 0 not begun, 1 record and word to write, 2 host delivery, 3 finished. -/
structure Kern where
  l : Launch
  asid : Nat
  st : KernSt
  ilk : Bool
  nextGroup : Nat
  again : List Nat
  diePtr : Nat
  counter : Nat
  blocks : Nat
  reruns : Nat
  tstart : Nat
  tend : Nat
  passed : Nat
  selPassed : Nat
  acceptedAs : Nat
  word : W32
  phase : Nat
  sendAt : Option Nat
  codeHash : List Byte
  /-- code words fetched since the launch, which a later fetch may still give (R39) -/
  oldCode : List (Addr × W64)
deriving DecidableEq, Repr

/-- Where one copy of a block is placed (R185, R188). -/
structure Place where
  die : Nat
  core : Nat
  spadBase : Nat
  barBase : Nat
  tiles : List Nat
  retired : Bool
  saved : Bool
deriving DecidableEq, Repr

/-- A block: its kernel, linear index, group, and its copies (two in a twin launch). -/
structure Block where
  kernel : Nat
  idx : Nat
  group : Nat
  places : List Place
deriving DecidableEq, Repr

/-- Commands that take effect after a close (R284). -/
inductive Cmd where
  | klaunch (d : SReg) (va : Nat)
  | psysw (cmd : Nat) (d : SReg) (asid : Nat) (arg : W64)
  | qctl (cmd : Nat) (d : SReg) (q : W32) (arg : W64)
  | fragList (d : SReg) (h : W64) (var : Nat)
  | fragRead (d : SReg) (h : W64) (i : W32)
  | fragResume (d : SReg) (h : W64)
  | fragKill (d : SReg) (h : W64)
  | fragPatch (d : SReg) (h : W64) (i v : W32)
  | pgInval (var : Nat) (d : SReg) (asid : Nat) (va : W64)
  | recFence (va : Nat)
  | barSync (slot : Nat) (n : Nat) (opn : Bool)
  | cbar (slot : Nat) (opn : Bool) (n : Nat)
  | byteCredit (slot rank prod n : Nat)
  | exit
deriving DecidableEq, Repr

/-- Kinds of operation in flight. Register destinations are written through `Wave.pend` entries that name the operation. -/
inductive OpKind where
  /-- a load: bytes, signed, L1 use (0 allocate, 1 none), target -/
  | load (n : Nat) (sgn : Bool) (nc : Bool)
  | store (n : Nat) (nc : Bool)
  | lda (n : Nat)
  /-- atom, acas, satom; `ret` false for red and redb -/
  | atom (opr n : Nat) (cas ret : Bool)
  | seal
  | unseal
  | pf (sl : Bool)
  | close
  | openDev (l1 : Bool)
  | cmd (c : Cmd)
  /-- a register result that arrives from outside the slice -/
  | result
  | mx (c : Nat)
deriving DecidableEq, Repr

/-- The space an access reaches (Table 12.1). -/
inductive Space where
  | glob
  /-- the scratchpad of a block's copy -/
  | spad (block copy : Nat)
  | none
deriving DecidableEq, Repr

/-- An operation in flight: the wave and split that issued it, the word, the captured operands of its lanes, what it waits for. -/
structure Op where
  w : WaveRef
  wuid : Nat
  kernel : Nat
  k : Nat
  asid : Nat
  kind : OpKind
  space : Space
  /-- the linear index of the block that issued it, for fault records (R151) -/
  blk : Nat
  pc : Addr
  hdr : Addr
  rpc : W64
  word : W64
  e : Mask
  lanes : List LaneA
  after : List Nat
  /-- left the core: no longer captured (R147); for a line request, its first one has reached its check -/
  left : Bool
  inRq : Bool
  /-- the fault mask has been merged (R298), or none is waited for -/
  told : Bool
  /-- split-scalar: one access stands for all lanes of E -/
  scalar : Bool
  /-- twin entry: 0 not compared, 1 unmatched, 2 matched (this copy performs), 3 matched (the other copy performs) -/
  twin : Nat
  /-- the twin partner operation -/
  peer : Nat
  fin : Bool
  /-- number of its first destination register -/
  reg : Nat
deriving DecidableEq, Repr

/-- A twin entry at a compare buffer (R353). -/
structure TwinE where
  op : Nat
  block : Nat
  copy : Nat
  waveId : Nat
  rseq : Nat
  va : Nat
  lane : Nat
  n : Nat
  epoch : Nat
  /-- none while the statuses of the instruction have not returned (R298) -/
  sig : Option W64
  word : W64
  isRgn : Bool
deriving DecidableEq, Repr

/-- Copy kinds (R322). -/
inductive CopyKind where
  | tile | tilest | gat | sca | lin
deriving DecidableEq, Repr

/-- A tensor record's fields (Table 15.1). -/
structure TRec where
  base : Nat
  ext : List Nat
  box : List Nat
  stride : List Nat
  fill : Nat
  rank : Nat
  efmt : Nat
  swz : Nat
  bad : Bool
deriving DecidableEq, Repr

/-- One end of a copy: global memory, or a scratchpad of a block's copy at an offset. -/
inductive End where
  | glob (va : Nat)
  | spad (block copy off : Nat)
deriving DecidableEq, Repr

/-- One access of a copy: moves bytes from source addresses to a destination; `fill` bytes need no source. -/
structure CAcc where
  src : Option End
  dst : End
  bytes : List Byte
  post : List Byte
  len : Nat
  chunk : Nat
  fin : Bool
deriving DecidableEq, Repr

/-- States of Table 15.5. -/
inductive CopySt where
  | queued | active | stalled | done | dropped | held
deriving DecidableEq, Repr

/-- A copy in a sluice (R311, R325). -/
structure Copy where
  die : Nat
  cluster : Nat
  w : WaveRef
  wuid : Nat
  block : Nat
  bcopy : Nat
  asid : Nat
  pc : Addr
  st : CopySt
  accs : List CAcc
  /-- the addresses at which it found cause 0x101, each with whether a pg.inval of its page has completed since -/
  stallVa : List (Nat × Bool)
  released : Bool
  /-- completion slot: block, copy, slot number, PB -/
  tblock : Nat
  tcopy : Nat
  slot : Nat
  pb : Nat
  perChunk : Bool
  nchunk : Nat
  /-- chunks whose event has been delivered -/
  told : List Nat
  total : Nat
  okCount : Nat
  fail : Nat
  follow : Option Nat
  /-- its events are credits of a BYTE slot -/
  byte : Bool
  /-- the leading copy's command, for the trailing command of a twin block -/
  peer : Option Nat
deriving DecidableEq, Repr

/-- Matrix commands (R334). -/
inductive MxKind where
  | mx (tile : Nat) (fd : W64) (spa m0 nb : Nat) (z : Bool)
  | ldb (m : Nat) (fd : W64) (spb : Nat) (tag : BitVec 16)
  | st (tile : Nat) (spd str sco : Nat) (sc : Bool) (cv : MxCv) (rnd : Rnd)
deriving DecidableEq, Repr

/-- States of a matrix command. -/
inductive MxSt where
  | waiting | started | held | finished
deriving DecidableEq, Repr

/-- A matrix command: its core, wave, block share, and its place in acceptance order (its number). -/
structure MxCmd where
  w : WaveRef
  wuid : Nat
  block : Nat
  bcopy : Nat
  asid : Nat
  kind : MxKind
  st : MxSt
  startAt : Nat
  batch : Nat
  shadow : List (Nat × W32)
  psn : Bool
  /-- a follow-on word the sluice has not handed over yet (R324) -/
  gated : Bool
  pc : Addr
  word : W64
  /-- units of 8 bytes the array has read (mx, mx.ldb) or written (mx.st) so far, by their offset (R338) -/
  units : List (Nat × (List Byte × Bool))
  /-- mx.st: an mx has committed to its tile since it read it (Table 16.4) -/
  late : Bool
  /-- an mx that a forced save abandoned: the restore accepts it again, in handler mode too (R155, R157) -/
  saved : Bool
deriving DecidableEq, Repr

/-- A share or a wave's slot and rows that became free at the present time: no placement decided now uses it (R187). -/
structure Freed where
  die : Nat
  core : Nat
  spadBase : Nat
  spad : Nat
  barBase : Nat
  bars : Nat
  tiles : List Nat
  /-- slot, row base and rows -/
  waves : List (Nat × Nat × Nat)
deriving DecidableEq, Repr

/-- A fault record that waits for the device-scope close of its wave's stores (R284): the operations, the context, the kind, the bytes, and
those of the record that reports its loss (R151). -/
structure LateRec where
  after : List Nat
  asid : Nat
  kind : Nat
  bytes : List Byte
  lost : List Byte
deriving DecidableEq, Repr

/-- Messages between cores (R235, R238). -/
inductive Msg where
  | credit (block copy slot prod n src : Nat)
  | signal (block copy slot : Nat) (q : Bool) (src : Nat)
deriving DecidableEq, Repr

/-- Link states of Table 18.1. -/
inductive LinkSt where
  | training | active | stepped | quiesced | down
deriving DecidableEq, Repr

/-- A link: state, rate, free spare lanes in each direction, out of service until its return (R359). -/
structure Link where
  st : LinkSt
  rate : LinkRate
  spareTx : Nat
  spareRx : Nat
  busy : Bool
  /-- when its eye was measured last (R358) -/
  eyeAt : Option Nat
deriving DecidableEq, Repr

inductive PortSt where
  | training | active | down
deriving DecidableEq, Repr

/-- A RoCEv2 connection (R364): its port, window, and the next packet sequence number. -/
structure Conn where
  qpn : Nat
  port : Nat
  winVa : Nat
  rkey : Nat
  winLen : Nat
  psn : Nat
  /-- replies sent, last first: 0 ACK, 1 Invalid Request NAK, 2 Remote Access Error NAK, 3 Remote Operational Error NAK, 4 RNR NAK, and the data of READs and atomics -/
  replies : List (Nat × List Byte)
  /-- RDMA WRITEs sent to the peer: R_Key, window address and word -/
  sent : List (Nat × Nat × W32)
deriving DecidableEq, Repr

/-- Moves of the agents: a slice issues, a sibling pair-issues in the same cycle (R206), an event, a slice or L1 line leaves, a
translation leaves its cache, or time passes. -/
inductive Move where
  | issue (die core slice : Nat)
  | pair (die core slice k : Nat)
  | event (e : Instr)
  | evict (asid line : Nat)
  | evictL1 (die core i : Nat)
  /-- a line request of an operation reaches its check (R298) -/
  | check (o line : Nat)
  /-- the migration engine of a cache die (PAGE_MOVE), a fence's drain (FENCING_QUIESCED), a warm reset's end (DIE_RESET_COMPLETE) -/
  | migrate (die : Nat)
  | quiesced (ch : Nat)
  | resetDone (ch : Nat)
  /-- the array reads or writes one unit of a command before the rest (R338) -/
  | mxUnit (o off : Nat)
  /-- a RESTORE that waits for its cores is tried again (R157) -/
  | restore (asid : Nat)
  /-- a slice reads a code word of a kernel ahead of its fetch (R39) -/
  | codeRead (k : Nat) (pc : Addr)
  /-- the next line read meets an error (R308) -/
  | flaw (n : Nat)
  | pass (n : Nat)
deriving DecidableEq, Repr

/-- The split whose instruction is being issued: its wave and entry, its fetched words. -/
structure Cur where
  u : SplitRef
  word : W64
  /-- the word that follows in the clause, for a two-word unit -/
  word1 : W64
deriving DecidableEq, Repr

/-- An event taken at the present time (R10): the die whose cycles its object counts (none: the package's own), the object, as the number of its
table and its name there, and the event's row. -/
structure RowAt where
  die : Option Nat
  obj : List Nat
  row : Nat
deriving DecidableEq, Repr

/-- The machine. -/
structure State where
  /-- time since cold reset, in units of 1/1100 µs: a cycle of a die whose clock runs at 1100 MHz (R5) -/
  now : Nat
  /-- the events taken in the present cycle of each object (R10) -/
  rows : List RowAt
  /-- the model's counter of free values (entry 1) -/
  tick : Nat
  /-- the moves to make next; empty: a free value chooses among the moves that can happen (entry 2) -/
  agenda : List Move
  cur : Option Cur
  /-- poisoned buckets that walks met in this step, still to be recorded: the window VA of each (R294) -/
  walkBad : List Nat
  /-- an error that the next read of a line will meet (R308): 1 corrected, 2 uncorrectable; 3 + 2j and 4 + 2j the same in the bucket that a
  walk reads as its j-th; 11 + 2i and 12 + 2i in line i of a frame that an engine copies;
  267 + 2b and 268 + 2b in bucket b of a table that an engine reads -/
  flaw : Nat
  /-- lines poisoned in this step, still to be recorded: ASID and line (R308) -/
  flawed : List (Nat × Nat)
  /-- the slice lines of requests that have passed their check and are not yet performed: no replacement takes them (R298) -/
  pins : List (Nat × Nat)
  recq : List LateRec
  /-- an access of this step found the conflict buffer of its page full: the step waits (R374) -/
  heldBack : Bool
  /-- SENDs for queues without an endpoint that were acknowledged at the transport level (R169), last first: port, queue and PSN -/
  acks : List (Nat × Nat × Nat)
  /-- Invalid Request NAKs given outside any connection: port and pair number (R364) -/
  naks : List (Nat × Nat)
  freed : List Freed
  nextId : Nat
  waves : List (WaveRef × Wave)
  blocks : List (Nat × Block)
  kerns : List (Nat × Kern)
  queues : List (Nat × Queue)
  ctxs : List (Nat × Ctx)
  cores : List ((Nat × Nat) × Core)
  dies : List (Nat × Chiplet)
  disps : List (Nat × Disp)
  ops : List (Nat × Op)
  copies : List (Nat × Copy)
  mxs : List (Nat × MxCmd)
  twins : List (Nat × TwinE)
  /-- record caches of the sluices: (die, cluster) to (ASID, VA, record words), most recent first (R317) -/
  recs : List ((Nat × Nat) × List (Nat × Nat × List Byte))
  /-- sluice round-robin: the core index served last -/
  sluiceRr : List ((Nat × Nat) × Nat)
  msgs : List (Nat × Msg)
  watches : List (Nat × Watch)
  slines : List ((Nat × Nat) × SLine)
  hbm : List Host.Cell
  /-- HBM lines whose check word has PSN = 1: physical line and PASID (R305) -/
  hpsn : List (Nat × Nat)
  chans : List (Nat × Chan)
  links : List (LinkRef × Link)
  ports : List (Nat × PortSt)
  /-- ports with an established secure channel (R363) -/
  secured : List (Nat × Bool)
  /-- frames of a secure channel that a port has passed on and whose message has not been taken yet (R363) -/
  frames : List (Nat × Nat)
  conns : List (Nat × Conn)
  /-- the queue chosen last at each priority (R172), and the kernel handed out last at each priority (R177) -/
  selRr : List (Nat × Nat)
  outRr : List (Nat × Nat)
  gen : Nat
  capMhz : List (Nat × Nat)
  capPending : Bool
  capSentAt : Option Nat
  /-- the time of the record's last change (R376) -/
  capAt : Nat
  clkAt : Nat
  doneSeq : Nat
  mgmtResult : Nat
  mgmtLast : Nat
  /-- a write to word 0x08 of the management block that the root has not taken yet (R368) -/
  mgmtPend : Bool
  /-- the request in progress: CMD, the chiplet or channel it is about, REQSEQ -/
  mgmtBusy : Option (Nat × Nat × Nat)
  /-- the chiplet whose FENCE was in progress when word 0x08 was last written (R397) -/
  mgmtEarly : Option Nat
  schedMirror : Bool
  arbMirror : Bool
  grantAt : Nat
  /-- engine of each cache die: the channel it works on (R373) -/
  engines : List (Nat × Nat)
deriving DecidableEq, Repr

/-- Why the machine stops. -/
inductive Fault where
  /-- An event names a unit the package does not have (R16 gives the units): raised by events of links, ports, channels and
  dies. Safe: the hardware has no such event. -/
  | noSuchUnit (n : Nat)
deriving DecidableEq, Repr

/-- Why the model gives no next state. -/
inductive Refusal where
  /-- An instruction without a meaning yet: raised by `exec`. Safe: nothing can be proved of it. -/
  | notModelled (mnemonic : String)
deriving DecidableEq, Repr

/-! ### Initial values -/

/-- A wave register nothing has written (R178). -/
def Val.zero : Val := ⟨0, false⟩

def Split.free : Split :=
  ⟨0, 0, 0, 0, .unused, 0, 0, none, false, .none, 128, none, false, ⟨[], [], []⟩, none⟩

/-- The Reset values of Table 11.1. -/
def Bar.fresh : Bar := ⟨0, false, false, 0, 0, 0, 0, 0, 0, [], [], 0, 0, false⟩
def Frag.fresh : Frag := ⟨0, 0, 0, 0, 0, false, 0, 0, 0, 0, 0, 0, [], false, 0⟩
def Tile.fresh : Tile := ⟨[], false, false, false⟩
def Macro.fresh : Macro := ⟨0, 0, 0, 0, ⟨[], [], [], []⟩, false⟩
def SliceSt.fresh : SliceSt := ⟨none, 15, 0⟩
/-- A core after die reset at cycle t. -/
def Core.fresh (t : Nat) : Core := ⟨[], [], [], [], [], [], [], [], [], t, []⟩
def Disp.fresh : Disp := ⟨9, []⟩
def Chan.fresh : Chan := ⟨.active, [], [], [], [], 0, 0, none, none, [], 0, none, [], 0, [], []⟩
def Link.fresh : Link := ⟨.active, .g32, 4, 4, false, none⟩
def Queue.fresh : Queue := ⟨.closed, 0, 0, 0, false, 0, 0, 4, false, false, 0, 0, [], 0, 0, 0, [], false⟩
def Ctx.fresh : Ctx :=
  ⟨.free, 0, 0, 0, false, 0, false, false, 0, [], 0, 0, 0, 6, 0, 0, 0, [], [], [], []⟩
/-- The system context after boot (R137; its record fields are entry 9). -/
def Ctx.system : Ctx :=
  { Ctx.fresh with st := .running, dieset := 0xFFFF, chanset := List.range 512, deadline := Config.defaultDeadline }
def Chiplet.active (lid : Option Nat) : Chiplet := ⟨.active, lid, false, 1100, 150, 0, 0, 0, 0, 0, 0⟩
def Chiplet.spare : Chiplet := ⟨.spareOff, none, false, 0, 0, 0, 0, 0, 0, 0, 0⟩

/-- The compute die with a physical number (R18): 0 to 15 active with that logical id, 16 and 17 spares. -/
def Chiplet.atReset (n : Nat) : Chiplet := if n < 16 then Chiplet.active (some n) else Chiplet.spare

/-- The machine right after cold reset of the package. -/
def State.reset : State where
  now := 0
  rows := []
  tick := 0
  agenda := []
  cur := none
  walkBad := []
  flaw := 0
  flawed := []
  pins := []
  recq := []
  heldBack := false
  acks := []
  naks := []
  freed := []
  nextId := 1
  waves := []
  blocks := []
  kerns := []
  queues := []
  ctxs := [(0, Ctx.system)]
  cores := []
  dies := []
  disps := []
  ops := []
  copies := []
  mxs := []
  twins := []
  recs := []
  sluiceRr := []
  msgs := []
  watches := []
  slines := []
  hbm := []
  hpsn := []
  chans := []
  links := []
  ports := []
  secured := []
  frames := []
  conns := []
  selRr := []
  outRr := []
  gen := 0
  capMhz := []
  capPending := false
  capSentAt := none
  capAt := 0
  clkAt := 0
  doneSeq := 0
  mgmtResult := 0
  mgmtLast := 0
  mgmtPend := false
  mgmtBusy := none
  mgmtEarly := none
  schedMirror := false
  arbMirror := false
  grantAt := 0
  engines := []

end Sys2Proof.Machine
end

