-- ==== Sys2Proof/Machine/Time.lean ====
section
/-! DEFINITION. Time (R5): the chiplets by number, and the cycles of a die, whose clock may step down while the times given in
nanoseconds and microseconds stay what they are; and the free choice of one member of a set (R11). -/

namespace Sys2Proof.Machine

/-- A chiplet by the numbers of R361: compute dies 0 to 17, cache dies 0x20 to 0x23, I/O dies 0x30 and 0x31. -/
def State.die (s : State) (n : Nat) : Chiplet :=
  tget (if n < 18 then Chiplet.atReset n else Chiplet.active none) s.dies n
def State.setDie (s : State) (n : Nat) (x : Chiplet) : State := { s with dies := tset s.dies n x }

/-- MHz × time of a chiplet's clock up to a time. -/
def Chiplet.ticksAt (x : Chiplet) (t : Nat) : Nat := x.acc + x.mhz * (t - x.since)
/-- Cycles of a chiplet up to a time. -/
def Chiplet.cycAt (x : Chiplet) (t : Nat) : Nat := x.ticksAt t / 1100
/-- CYCLES OF A DIE (R5): every count of cycles on it is a count of these. -/
def State.cyc (s : State) (d : Nat) : Nat := (s.die d).cycAt s.now
/-- The chiplet with its clock at another frequency from now on; what it has counted stays. -/
def Chiplet.setMhz (x : Chiplet) (now mhz : Nat) : Chiplet := { x with acc := x.ticksAt now, since := now, mhz := mhz }
/-- The time until the die's next cycle; a clock runs at 400 to 1100 MHz, so three units at most (R378). -/
def State.oneCycle (s : State) (d : Nat) : Nat :=
  if s.cyc d < (s.die d).cycAt (s.now + 1) then 1 else if s.cyc d < (s.die d).cycAt (s.now + 2) then 2 else 3
/-- Time passes; what was taken and what became free in a cycle that is over is past (R10, R187): a die whose clock is stepped down may still be in
the same cycle. -/
def later (n : Nat) (s : State) : State :=
  if n = 0 then s
  else
    let still := fun (d : Nat) => decide ((s.die d).cycAt (s.now + n) = s.cyc d)
    { s with now := s.now + n, rows := s.rows.filter (fun r => r.die.any still), freed := s.freed.filter (fun f => still f.die) }
/-- The package timebase in nanoseconds (R184). -/
def State.ns (s : State) : Nat := s.now * 10 / 11

/-! ### Free choices (R11) -/

/-- One member of a list, by a free value (entry 1); a list whose members are all equal gives that member. -/
def pick {α : Type} [DecidableEq α] (s : State) (salt : Nat) (dflt : α) : List α → α
  | [] => dflt
  | x :: t => if t.all (fun y => decide (y = x)) then x else (x :: t).getD (Config.choice s.tick salt % (t.length + 1)) x

end Sys2Proof.Machine
end

