-- ==== Sys2Proof/Machine/Mem.lean ====
section
/-! DEFINITION. Global memory: HBM bytes in one canonical form, home channels, walks, slice lines, and the access of one line at
its home slice with the checks of R297 (chapter 14), with poison (R257, R308) and watch entries (R248). -/

namespace Sys2Proof.Machine

/-! ### HBM bytes: a rising list of (address, byte) with no zero byte; an unlisted address reads 0 (entry 4) -/

/-- What an unlisted address reads as. -/
def hbmDefault : Byte := 0

/-- One byte of HBM. -/
def hbmGet : List Host.Cell → Nat → Byte
  | [], _ => hbmDefault
  | (a, b) :: t, k => if a = k then b else if k < a then hbmDefault else hbmGet t k

/-- Write one byte, keeping the form. -/
def hbmSet : List Host.Cell → Nat → Byte → List Host.Cell
  | [], k, v => if v = hbmDefault then [] else [(k, v)]
  | (a, b) :: t, k, v =>
    if a = k then (if v = hbmDefault then t else (k, v) :: t)
    else if k < a then (if v = hbmDefault then (a, b) :: t else (k, v) :: (a, b) :: t)
    else (a, b) :: hbmSet t k v

/-- Every address of the list lies above k. -/
def hbmAbove (k : Nat) : List Host.Cell → Bool
  | [] => true
  | (a, _) :: _ => decide (k < a)
/-- The canonical form: strictly rising, no byte equal to what an unlisted address reads. -/
def hbmWf : List Host.Cell → Bool
  | [] => true
  | (a, b) :: t => b != hbmDefault && hbmAbove a t && hbmWf t

/-- Bytes of a range. -/
def hbmRead (m : List Host.Cell) (a n : Nat) : List Byte := (List.range n).map (fun i => hbmGet m (a + i))
/-- Write bytes from an address on. -/
def hbmWrite : List Host.Cell → Nat → List Byte → List Host.Cell
  | m, _, [] => m
  | m, a, b :: t => hbmWrite (hbmSet m a b) (a + 1) t

/-- The address of a byte of a channel's usable memory. -/
def phys (ch off : Nat) : Nat := ch * 2 ^ 31 + off

/-! ### Objects of the state, with their reset values where nothing is listed -/

def State.chan (s : State) (c : Nat) : Chan := tget Chan.fresh s.chans c
def State.setChan (s : State) (c : Nat) (x : Chan) : State := { s with chans := tset s.chans c x }
def State.ctx (s : State) (a : Nat) : Ctx := tget Ctx.fresh s.ctxs a
def State.setCtx (s : State) (a : Nat) (x : Ctx) : State := { s with ctxs := tset s.ctxs a x }
/-- The cache die of a channel as a chiplet number (R19). -/
def cacheDieOf (ch : Nat) : Nat := 0x20 + ch / 128
/-- The global number of the slice that homes a channel (R19). -/
def sliceOf (ch : Nat) : Nat := ch / 2

/-! ### Home channels (R288 to R291, R373) -/

def vpnOf (va : Nat) : Nat := va / 2 ^ 14 % 2 ^ 42
/-- Stripe index (R290). -/
def stripeIdx (asid vpn : Nat) : Nat :=
  Nat.xor (Nat.xor (Nat.xor (Nat.xor (bits vpn 0 12) (bits vpn 12 12)) (bits vpn 24 12)) (bits vpn 36 6)) asid % 4096
/-- Entry i of a context's stripe map copy. ASID 0's map names channel i mod 512 where nothing is listed (entry 9). -/
def State.stripe (s : State) (asid i : Nat) : Nat := tget (i % 512) (s.ctx asid).stripe i

/-- ASID 0's physical window (R291). -/
def inWindow (asid va : Nat) : Bool := asid == 0 && va / 2 ^ 55 % 2 == 1 && va / 2 ^ 41 % 2 ^ 14 == 0
def winChan (va : Nat) : Nat := va / 2 ^ 31 % 2 ^ 10
def winOff (va : Nat) : Nat := va % 2 ^ 31
def windowVa (ch off : Nat) : Nat := 2 ^ 55 + ch * 2 ^ 31 + off

/-- The line of a VA. -/
def lineOf (va : Nat) : Nat := va / 128

/-- A line of HBM as its controller reads it: from the row image that has written it, or from the row (R307). -/
def State.hbmLine (s : State) (ch off : Nat) : List Byte :=
  match (s.chan ch).rows.findSome? (fun r => tfind r.lines (off / 128)) with
  | some d => d
  | none => hbmRead s.hbm (phys ch off) 128
/-- The PASID of a line whose check word has PSN = 1, from the ECC cache or the row (R305, R306). -/
def State.hbmMark (s : State) (ch off : Nat) : Option Nat :=
  match (s.chan ch).ecc.findSome? (fun k => tfind k.words (off / 128)) with
  | some m => m
  | none => tfind s.hpsn (phys ch off / 128)

/-- The bytes of a channel's memory line as the window reads it: the cached window line, or HBM. -/
def State.windowLine (s : State) (ch off : Nat) : List Byte :=
  match tfind s.slines (0, lineOf (windowVa ch off)) with
  | some l => l.data
  | none => s.hbmLine ch off
def State.windowPoison (s : State) (ch off : Nat) : Bool :=
  match tfind s.slines (0, lineOf (windowVa ch off)) with
  | some l => l.psn
  | none => s.hbmMark ch off == some 0

/-! ### Translation (R293 to R297) -/

/-- Starting bucket of a walk (R294). -/
def bucketOf (asid vpn : Nat) : Nat :=
  Nat.xor (Nat.xor (Nat.xor (bits vpn 0 15) (bits vpn 15 15)) (bits vpn 30 12)) (asid * 8) % 32768

def transMatches (asid vpn : Nat) (w0 : Nat) : Bool :=
  w0.testBit 63 && bits w0 42 12 == asid && bits w0 0 42 == vpn

/-- The first matching entry of one bucket line: its index and words. -/
def findEntry (asid vpn : Nat) (line : List Byte) : Nat → Option (Nat × Nat × Nat)
  | 0 => none
  | k + 1 =>
    let i := 7 - k
    let w0 := leVal ((line.drop (16 * i)).take 8)
    if transMatches asid vpn w0 then some (i, w0, leVal ((line.drop (16 * i + 8)).take 8))
    else findEntry asid vpn line k

/-- Order of pages by (ASID, VPN). -/
def pageLt (a b : Nat × Nat) : Bool := decide (a.1 < b.1) || (a.1 == b.1 && decide (a.2 < b.2))

/-- Insert a channel by the order in which it entered RETIRING. -/
def insertChan (c : Nat × Chan) : List (Nat × Chan) → List (Nat × Chan)
  | [] => [c]
  | d :: t => if c.2.order ≤ d.2.order then c :: d :: t else d :: insertChan c t
/-- The channels in RETIRING, in the order they entered it. -/
def State.retiring (s : State) : List (Nat × Chan) :=
  (s.chans.filter (fun c => c.2.st == .retiring)).foldr insertChan []
/-- With them the channels that became RETIRED with pages not moved (R362). -/
def State.oldHomes (s : State) : List (Nat × Chan) :=
  (s.chans.filter (fun c => c.2.st == .retiring || (c.2.st == .retired && !c.2.old.isEmpty))).foldr insertChan []

/-- Whether a retiring channel is still the home of a page of a stripe index (R372, R373): its old map named it, the page was there, and BP has not
passed it. -/
def holdsPage (asid idx vpn : Nat) (c : Nat × Chan) : Bool :=
  (tget [] c.2.old asid).contains idx
    && !c.2.away.any (fun e => e.1 == asid && e.2.1 == idx && decide (e.2.2.1 ≤ vpn) && decide (vpn < e.2.2.2))
    && (match c.2.bp with
        | none => true
        | some p => !pageLt (asid, vpn) p)
def stillHomes (asid vpn : Nat) (c : Nat × Chan) : Bool := holdsPage asid (stripeIdx asid vpn) vpn c

/-- The home channel of a translated page, or none where the stripe entry is unusable (R290). -/
def State.home (s : State) (asid va : Nat) : Option Nat :=
  let vpn := vpnOf va
  match s.oldHomes.find? (stillHomes asid vpn) with
  | some c => if c.2.st == .retired || !((s.ctx asid).chanset.contains c.1) then none else some c.1
  | none =>
    let e := s.stripe asid (stripeIdx asid vpn)
    if 512 ≤ e || !((s.ctx asid).chanset.contains e) || (s.chan e).st == .retired then none else some e

/-- The page in transit that is at a channel's BP: the channel and the engine's step (R373, R374). -/
def State.inTransit (s : State) (asid vpn : Nat) : Option (Nat × Transit) :=
  s.retiring.findSome? (fun c => if c.2.bp = some (asid, vpn) then c.2.transit.map (fun t => (c.1, t)) else none)
/-- The conflict buffer of a page's engine is full: it holds further requests back (R374). -/
def holdsBack (s : State) (asid va : Nat) : Bool :=
  !inWindow asid va && (s.inTransit asid (vpnOf va)).any (fun t => decide (Config.conflictEntries ≤ (s.chan t.1).conflict.length))

/-! ### The controller's caches (R306, R307): they never change a value -/

/-- Put first, at most n entries. -/
def lruPut {α : Type} [DecidableEq α] (n : Nat) (l : List α) (x : α) : List α := (x :: l.filter (fun y => !decide (y = x))).take n

/-- A row image is written back to its row. -/
def flushImage (ch : Nat) (s : State) (r : RowImage) : State :=
  if r.dirty then { s with hbm := r.lines.foldl (fun m l => hbmWrite m (phys ch (128 * l.1)) l.2) s.hbm } else s
/-- A check line is written to its row. -/
def flushCheck (ch : Nat) (s : State) (k : CheckLine) : State :=
  if k.dirty then
    { s with hpsn := k.words.foldl (fun h w => match w.2 with
        | some a => tset h (phys ch (128 * w.1) / 128) a
        | none => tdel h (phys ch (128 * w.1) / 128)) s.hpsn }
  else s
/-- A data access of a line of a channel, which writes it where `data` is given; with `mark`, its PSN and PASID. Its row's check line and its
row image become the most recent; what they replace is written back where dirty. A bank is named by the row modulo 16 (entry 34). -/
def touchRow (s : State) (ch off : Nat) (data : Option (List Byte)) (mark : Option (Option Nat)) : State :=
  let k := s.chan ch
  let n := off / 128
  let row := n / 15
  let img := (k.rows.find? (fun r => r.row == row)).getD ⟨row, false, []⟩
  let chk := (k.ecc.find? (fun c => c.row == row)).getD ⟨row, false, []⟩
  let rest := k.rows.filter (fun r => r.row != row)
  let out := (rest.filter (fun r => r.row % 16 == row % 16)).drop 3
  let left := k.ecc.filter (fun c => c.row != row)
  let img := match data with | some d => ⟨row, true, tset img.lines n d⟩ | none => img
  let chk : CheckLine := ⟨row, chk.dirty || data.isSome || mark.isSome, match mark with | some m => tset chk.words n m | none => chk.words⟩
  let s := (left.drop 255).foldl (flushCheck ch) (out.foldl (flushImage ch) s)
  s.setChan ch { k with ecc := chk :: left.take 255, rows := img :: rest.filter (fun r => !out.contains r) }
/-- Every dirty image and check line of a channel is written back, and they are empty after it. -/
def flushChan (s : State) (ch : Nat) : State :=
  let k := s.chan ch
  (k.ecc.foldl (flushCheck ch) (k.rows.foldl (flushImage ch) s)).setChan ch { k with ecc := [], rows := [] }

/-! ### Lines at the home slice -/

/-- Kinds of access for the checks of R297. -/
inductive AccK where
  | rd | wr | fetch | sealK
deriving DecidableEq, Repr

/-- Checks 4 and 5 of R297 against a line's recorded bits: 0 passes. -/
def lineCause (l : SLine) (k : AccK) : Nat :=
  match k with
  | .rd => 0
  | .wr => if !l.w then 0x102 else if l.sealed then 0x103 else 0
  | .fetch => if l.x then 0 else 0x102
  | .sealK => if l.w then 0 else 0x102

/-- A line read from HBM for a name (R308, R310): decrypted for a keyed context; poison only for its PASID. -/
def readBack (s : State) (asid lva ch off : Nat) (keyed : Bool) : List Byte × Bool :=
  let d := s.hbmLine ch off
  (if keyed then decLine (s.ctx asid).key asid (lva * 128) d else d, s.hbmMark ch off == some asid)

/-- Where a line lies in HBM: its channel and byte offset. -/
def SLine.place (l : SLine) (lva : Nat) : Nat × Nat := (l.chan, l.frame * 16384 + lva * 128 % 16384)

/-- What an access is given of a line: a load through another ASID than the PASID of a poisoned line of HBM gets zeros (R308). -/
def shown (s : State) (asid ch off : Nat) (k : AccK) (l : SLine) : SLine :=
  if k == .rd && (s.hbmMark ch off).any (fun a => a != asid) then { l with data := List.replicate 128 0 } else l

/-- Write a dirty line back to its recorded frame (R297, R308, R310). -/
def writeBack (s : State) (asid lva : Nat) (l : SLine) : State :=
  if !l.dirty then s
  else
    let p := if inWindow asid (lva * 128) then (winChan (lva * 128), winOff (lva * 128)) else l.place lva
    let d := if l.keyed then encLine (s.ctx asid).key asid (lva * 128) l.data else l.data
    touchRow s p.1 p.2 (some d) (if l.psn then some (some asid) else none)

/-- A slice line leaves its slice. -/
def evictLine (s : State) (asid lva : Nat) : State :=
  match tfind s.slines (asid, lva) with
  | some l => let s := writeBack s asid lva l
              { s with slines := tdel s.slines (asid, lva) }
  | none => s

/-- Every line a predicate picks leaves its slice. -/
def evictWhere (s : State) (p : Nat → Nat → SLine → Bool) : State :=
  (s.slines.filter (fun e => p e.1.1 e.1.2 e.2)).foldl (fun s e => evictLine s e.1.1 e.1.2) s
/-- The lines of a slice. -/
def sliceHeld (s : State) (ch : Nat) : List ((Nat × Nat) × SLine) := s.slines.filter (fun e => sliceOf e.2.chan == sliceOf ch)
/-- A line comes to its home slice; where the slice is full, a line of a free choice leaves it (Table 1.1), but none that a checked request
is still to be performed in. -/
def addLine (s : State) (asid lva : Nat) (l : SLine) : State :=
  let mine := sliceHeld s l.chan
  let s := if decide (mine.length < Config.sliceLines) || (tfind s.slines (asid, lva)).isSome then s
    else
      let k := pick s lva ((mine.map (·.1)).headD (0, 0)) ((mine.map (·.1)).filter (fun k => !s.pins.contains k))
      evictLine s k.1 k.2
  { s with slines := tset s.slines (asid, lva) l }
/-- The channel at which a line of a context is cached: of a page in transit, the one that its present frame lies in (R374). -/
def cachedAt (s : State) (asid va : Nat) : Nat :=
  if inWindow asid va then winChan va
  else match s.inTransit asid (vpnOf va) with
    | some (c, t) => if 3 ≤ t.step then t.dest else c
    | none => (s.home asid va).getD 0
/-- A slice has no room for the line of another checked request. -/
def slicePinned (s : State) (ch : Nat) : Bool := decide (Config.sliceLines ≤ ((sliceHeld s ch).filter (fun e => s.pins.contains e.1)).length + 1)

/-! ### Walks (R294) -/

/-- An access of the window line at an offset of a channel, through its home slice: where the slice does not hold it, its row's check line and row
image are used (R306, R307). -/
def touchWindow (s : State) (ch off : Nat) : State :=
  if (tfind s.slines (0, lineOf (windowVa ch off))).isSome then s else touchRow s ch off none none
/-- A walk reads its j-th bucket, which may meet an error (R308): a corrected one of HBM counts for its row; an uncorrectable one poisons the line
for ASID 0. The engine reads bucket b of a table as j = 132 + b. -/
def readBucket (s : State) (ch off j : Nat) : State :=
  let far := (tfind s.slines (0, lineOf (windowVa ch off))).isNone
  let s := touchWindow s ch off
  if s.flaw = 3 + 2 * j then
    let s := { s with flaw := 0 }
    if far then s.setChan ch { s.chan ch with corr := (s.chan ch).corr ++ [(off / 128 / 15, s.now)] } else s
  else if s.flaw = 4 + 2 * j then
    addLine { s with flaw := 0 } 0 (lineOf (windowVa ch off)) ⟨List.replicate 128 0, true, ch, off / 16384, true, false, false, false, false, true⟩
  else s
/-- A walk over the buckets from h: the entry's byte offset in the table and its words. A poisoned bucket line has no entry that matches, and is
recorded at the step's end (entry 34 gives the record's VA). -/
def walkFrom (ch asid vpn h : Nat) : Nat → State → State × Option (Nat × Nat × Nat)
  | 0, s => (s, none)
  | k + 1, s =>
    let off := (h + (3 - k)) % 32768 * 128
    let s := readBucket s ch off (3 - k)
    if s.windowPoison ch off then walkFrom ch asid vpn h k { s with walkBad := s.walkBad ++ [windowVa ch off] }
    else match findEntry asid vpn (s.windowLine ch off) 8 with
      | some (i, w0, w1) => (s, some (off + 16 * i, w0, w1))
      | none => walkFrom ch asid vpn h k s
def walk (s : State) (ch asid vpn : Nat) : State × Option (Nat × Nat × Nat) := walkFrom ch asid vpn (bucketOf asid vpn) 4 s

/-- The slice line of an access after its checks (R297), or the cause. -/
inductive LineRes where
  | ok (l : SLine)
  | bad (cause : Nat)
deriving DecidableEq, Repr

/-- The entry a walk finds, as a translation. -/
def walkTrans (s : State) (ch asid vpn : Nat) : State × Option Trans :=
  match walk s ch asid vpn with
  | (s, r) => (s, r.map (fun e => ⟨asid, vpn, BitVec.ofNat 64 e.2.1, BitVec.ofNat 64 e.2.2⟩))
/-- The entry of a walk, or the cached one. -/
def cachedOr (s : State) (ch asid vpn : Nat) (r : State × Option Trans) : State × Option Trans :=
  match (s.chan ch).tlb.find? (fun t => t.asid == asid && t.vpn == vpn) with
  | some t => if pick s vpn (some t) [some t, r.2] = r.2 then r else (s, some t)
  | none => r
/-- The entry used is the most recent one in the channel's cache. -/
def useTrans (ch : Nat) (r : State × Option Trans) : State × Option Trans :=
  match r with
  | (s, none) => (s, none)
  | (s, some t) => (s.setChan ch { s.chan ch with
      tlb := lruPut Config.tlbEntries ((s.chan ch).tlb.filter (fun x => !(x.asid == t.asid && x.vpn == t.vpn))) t }, some t)
/-- A miss at a channel: the entry used. A cached translation need not be that of the table, and the access uses either (R296, R11). -/
def translate (s : State) (ch asid vpn : Nat) : State × Option Trans := useTrans ch (cachedOr s ch asid vpn (walkTrans s ch asid vpn))

/-- Check 3 of R297. -/
def transBad (s : State) (t : Trans) : Bool :=
  bits t.w0.toNat 54 4 != 0 || bits t.w1.toNat 17 47 != 0
    || decide (bits t.w1.toNat 0 17 < 256) || decide (0x1DFFF < bits t.w1.toNat 0 17)
    || (t.w0.toNat.testBit 58 != (s.ctx t.asid).keyed)

/-- The record of a page's entry in a slice line. -/
def lineOfTrans (s : State) (t : Trans) (ch lva : Nat) : SLine :=
  let f := bits t.w1.toNat 0 17
  let keyed := t.w0.toNat.testBit 58
  let d := readBack s t.asid lva ch (f * 16384 + lva * 128 % 16384) keyed
  ⟨d.1, false, ch, f, t.w0.toNat.testBit 62, t.w0.toNat.testBit 61, t.w0.toNat.testBit 60, t.w0.toNat.testBit 59, keyed, d.2⟩

/-- A line that passed its checks is read, from HBM (`far`) or from its slice, and may meet an error (R308): a corrected one of HBM counts for
its row; an uncorrectable one poisons the line for the context whose access found it. -/
def meetFlaw (s : State) (asid lva : Nat) (far : Bool) (l : SLine) : State × SLine :=
  if s.flaw = 1 then
    let t := { s with flaw := 0 }
    (if far then t.setChan l.chan { t.chan l.chan with corr := (t.chan l.chan).corr ++ [((l.place lva).2 / 128 / 15, t.now)] } else t, l)
  else if s.flaw = 2 then
    let l' := { l with psn := true, dirty := true, data := List.replicate 128 0 }
    ({ s with flaw := 0, flawed := s.flawed ++ [(asid, lva)], slines := tset s.slines (asid, lva) l' }, l')
  else (s, l)
/-- A line that is in its slice, and what an access is given of it. -/
def readHere (s : State) (asid lva : Nat) (k : AccK) (l : SLine) : State × LineRes :=
  let c := lineCause l k
  if c ≠ 0 then (s, .bad c)
  else
    let r := meetFlaw s asid lva false l
    (r.1, .ok (shown r.1 asid (l.place lva).1 (l.place lva).2 k r.2))
/-- A line is read from HBM into its slice for an access. -/
def readFar (s : State) (asid lva : Nat) (k : AccK) (l : SLine) : State × LineRes :=
  let c := lineCause l k
  if c ≠ 0 then (s, .bad c)
  else
    let s := addLine (touchRow s (l.place lva).1 (l.place lva).2 none none) asid lva l
    let r := meetFlaw s asid lva true l
    (r.1, .ok (shown r.1 asid (l.place lva).1 (l.place lva).2 k r.2))
/-- An access that is to be performed at a page in transit takes its place in the engine's conflict buffer; a full one holds it back, and with it the
step that makes it (R374). -/
def arriveAt (s : State) (asid va : Nat) : State :=
  if inWindow asid va then s
  else match s.inTransit asid (vpnOf va) with
    | some (c, _) =>
      let b := (s.chan c).conflict
      if b.length < Config.conflictEntries then s.setChan c { s.chan c with conflict := b ++ [lineOf va] } else { s with heldBack := true }
    | none => s
/-- The same for a request of an operation; one that must be performed now goes ahead of a full buffer. -/
def arriveOr (now : Bool) (s : State) (asid va : Nat) : State := if now && holdsBack s asid va then s else arriveAt s asid va
/-- A line of a page in transit (R374): accesses are applied to the copy being moved, which is the old frame until the new one has been
copied. -/
def reachTransit (s : State) (asid lva : Nat) (k : AccK) (c : Nat) (t : Transit) : State × LineRes :=
  match tfind s.slines (asid, lva) with
  | some l => readHere s asid lva k l
  | none =>
    let copied := decide (3 ≤ t.step)
    let e : Trans := ⟨asid, vpnOf (lva * 128), BitVec.ofNat 64 t.w0, BitVec.ofNat 64 (if copied then t.w1 - bits t.w1 0 17 + t.frame else t.w1)⟩
    if transBad s e then (s, .bad 0x102) else readFar s asid lva k (lineOfTrans s e (if copied then t.dest else c) lva)
/-- Bring a line to its home slice and check the access (R290, R291, R296, R297). -/
def reachLine (s : State) (asid va : Nat) (k : AccK) : State × LineRes :=
  let lva := lineOf va
  if 2 ^ 56 ≤ va then (s, .bad 0x102)
  else if inWindow asid va then
    let ch := winChan va
    if 512 ≤ ch || (s.chan ch).st == .retired || (s.die (cacheDieOf ch)).st != .active then (s, .bad 0x106)
    else if Config.chanBytes ≤ winOff va then (s, .bad 0x102)
    else if k == .fetch || k == .sealK then (s, .bad 0x102)
    else
      let off := winOff va / 128 * 128
      match tfind s.slines (0, lva) with
      | some l => readHere s 0 lva k l
      | none =>
        let d := readBack s 0 lva ch off false
        readFar s 0 lva k ⟨d.1, false, ch, off / 16384, true, false, false, false, false, d.2⟩
  else match s.inTransit asid (vpnOf va) with
  | some (c, t) => reachTransit s asid lva k c t
  | none => match s.home asid va with
    | none => (s, .bad 0x106)
    | some ch =>
      match tfind s.slines (asid, lva) with
      | some l => readHere s asid lva k l
      | none =>
        match translate s ch asid (vpnOf va) with
        | (s, none) => (s, .bad 0x101)
        | (s, some t) => if transBad s t then (s, .bad 0x102) else readFar s asid lva k (lineOfTrans s t ch lva)

/-! ### Watch entries (R245, R248) -/

/-- The 32-bit word of a line at a byte offset. -/
def lineWord (d : List Byte) (o : Nat) : W32 := BitVec.ofNat 32 (leVal ((d.drop o).take 4))

/-- Give a wake to its target: a waiting split keeps the first value, a queue's dependence that is not met yet is noted. -/
def wakeTarget (s : State) (t : WTarget) (v : W32) : State :=
  match t with
  | .split u =>
    { s with waves := tupd s.waves u.w (fun w =>
        { w with splits := w.splits.mapIdx (fun i x =>
            if i = u.k then
              match x.st with
              | .waitWatch va c b til pl nx pq d e opn op none =>
                { x with st := .waitWatch va c b til pl nx pq d e opn op (some v) }
              | _ => x
            else x) }) }
  | .dep q d =>
    { s with queues := tupd s.queues q (fun x =>
        { x with deps := x.deps.mapIdx (fun i y => if i = d then { y with woken := !y.met } else y) }) }

/-- The entry of a waiting split; the others are the queue engine's. -/
def WTarget.isSplit : WTarget → Bool
  | .split _ => true
  | .dep _ _ => false
/-- Compare a write of `n` bytes at `va` with the watch entries of its words; each one met wakes its target and is released, but for
those of the queue engine, which stay until the head is READY (R171). The
Xeino root watches word 0x08 of the management block (R368). -/
def matchWatches (s : State) (asid va n : Nat) (line : List Byte) : State :=
  let s := if asid == 0 && decide (va < Config.mgmtVa + 16) && decide (Config.mgmtVa + 8 < va + n) then
      { s with mgmtPend := true, mgmtEarly := s.mgmtBusy.bind (fun r => if r.1 = 1 then some r.2.1 else none) }
    else s
  let hit := fun (e : Nat × Watch) =>
    e.2.asid == asid && decide (e.2.va < va + n) && decide (va < e.2.va + 4)
      && wcond e.2.cond (lineWord line (e.2.va % 128)) e.2.val
  let hits := s.watches.filter hit
  let s := { s with watches := s.watches.filter (fun e => !(hit e && e.2.target.isSplit)) }
  hits.foldl (fun s e => wakeTarget s e.2.target (lineWord line (e.2.va % 128))) s

/-! ### Reads and writes at the home slice -/

/-- Replace bytes of a line from an offset on. -/
def patch : List Byte → Nat → List Byte → List Byte
  | d, o, bs => d.take o ++ bs ++ d.drop (o + bs.length)

/-- Write bytes into a line that is present and checked; poison stays (R258). -/
def putLine (s : State) (asid va : Nat) (l : SLine) (bs : List Byte) : State :=
  let l' := { l with data := patch l.data (va % 128) bs, dirty := true }
  let s := { s with slines := tset s.slines (asid, lineOf va) l' }
  matchWatches s asid va bs.length l'.data

/-- A store of bytes that lie in one line, performed at its home slice; the cause, 0 where it is performed. -/
def homeStore (s : State) (asid va : Nat) (bs : List Byte) : State × Nat :=
  match reachLine (arriveAt s asid va) asid va .wr with
  | (s, .bad c) => (s, c)
  | (s, .ok l) => (putLine s asid va l bs, 0)

/-- A read of bytes in one line at its home slice: the bytes, whether they are poisoned (line or page), the cause. -/
def homeLoad (s : State) (asid va n : Nat) (k : AccK) : State × List Byte × Bool × Nat :=
  match reachLine (arriveAt s asid va) asid va k with
  | (s, .bad c) => (s, [], false, c)
  | (s, .ok l) => (s, (l.data.drop (va % 128)).take n, l.psn || l.pp, 0)

/-- A read by an engine of the device, line by line; poison is cause 0x104. -/
def engineRead (s : State) (asid : Nat) : Nat → Nat → Nat → State × List Byte × Nat × Nat
  | 0, _, _ => (s, [], 0, 0)
  | fuel + 1, va, n =>
    if n = 0 then (s, [], 0, 0)
    else
      let k := min n (128 - va % 128)
      match homeLoad s asid va k .rd with
      | (s, d, psn, c) =>
        if c ≠ 0 then (s, [], c, va)
        else if psn then (s, [], 0x104, va)
        else
          match engineRead s asid fuel (va + k) (n - k) with
          | (s, r, c, v) => (s, d ++ r, c, v)
def devRead (s : State) (asid va n : Nat) : State × List Byte × Nat × Nat := engineRead s asid (n / 128 + 2) va n

/-- A write by an engine of the device, line by line; it stops at the first line that fails. -/
def engineWrite (s : State) (asid : Nat) : Nat → Nat → List Byte → State × Nat × Nat
  | 0, _, _ => (s, 0, 0)
  | fuel + 1, va, bs =>
    if bs.isEmpty then (s, 0, 0)
    else
      let k := min bs.length (128 - va % 128)
      match homeStore s asid va (bs.take k) with
      | (s, c) => if c ≠ 0 then (s, c, va) else engineWrite s asid fuel (va + k) (bs.drop k)
def devWrite (s : State) (asid va : Nat) (bs : List Byte) : State × Nat × Nat :=
  engineWrite s asid (bs.length / 128 + 2) va bs

/-- A compute die whose levee is raised, from its fence until it is admitted again: it refuses every request from outside (R370). -/
def leveeUp (s : State) (d : Nat) : Bool :=
  match (s.die d).st with
  | .fencing => true
  | .quiesced => true
  | .reset => true
  | .failed => true
  | .off => true
  | .active => false
  | .admitting => false
  | .spareOff => false
/-- Sluices drop cached tensor records, by ASID and record VA (R317). -/
def dropRecs (s : State) (p : Nat → Nat → Bool) : State :=
  { s with recs := s.recs.map (fun (r : (Nat × Nat) × List (Nat × Nat × List Byte)) =>
      (r.1, if leveeUp s r.1.1 then r.2 else r.2.filter (fun e => !p e.1 e.2.1))) }
/-- Lines that a predicate picks leave the L1s of the cores that take the request. -/
def dropL1s (s : State) (p : L1Line → Bool) : State :=
  { s with cores := s.cores.map (fun c => if leveeUp s c.1.1 then c else (c.1, { c.2 with l1 := c.2.l1.filter (fun l => !p l) })) }
/-- Write back and invalidate the lines of pages a predicate picks, and drop their cached translations (R304); the line of a request that is still to
be performed stays until it is. -/
def dropPages (s : State) (p : Nat → Nat → Bool) : State :=
  let s := { s with chans := s.chans.map (fun c => (c.1, { c.2 with tlb := c.2.tlb.filter (fun t => !p t.asid t.vpn) })) }
  let s := evictWhere s (fun a l _ => p a (vpnOf (l * 128)) && !s.pins.contains (a, l))
  dropL1s s (fun l => p l.asid (vpnOf (l.va * 128)))

end Sys2Proof.Machine
end

