-- ==== Sys2Proof/Machine/Operands.lean ====
section
/-! DEFINITION. Operands: the constants of Tables 2.5 and 2.5a, what a register read returns with writes in flight (R45, R46,
R48), every operand form, and the registers each instruction names for the bounds check and the interlock. -/

namespace Sys2Proof.Machine

/-! ### Constants (R51, R52) -/

/-- The integer of codes 0x00 to 0x4F. -/
def constInt (k : BitVec 8) : Int := if k.toNat < 0x40 then (k.toNat : Int) else (k.toNat : Int) - 0x50
/-- FP32 patterns of codes 0x50 to 0x57. -/
def constFp32 (k : BitVec 8) : W32 :=
  lget 0 [0x3F000000, 0x3F800000, 0x40000000, 0x40800000, 0xBF000000, 0xBF800000, 0xC0000000, 0xC0800000] (k.toNat - 0x50)
def constFp16 (k : BitVec 8) : Nat :=
  lget 0 [0x3800, 0x3C00, 0x4000, 0x4400, 0xB800, 0xBC00, 0xC000, 0xC400] (k.toNat - 0x50)
def constBf16 (k : BitVec 8) : Nat :=
  lget 0 [0x3F00, 0x3F80, 0x4000, 0x4080, 0xBF00, 0xBF80, 0xC000, 0xC080] (k.toNat - 0x50)
/-- Types an operand is read as (Table 2.5a). -/
inductive OTy where
  | int | f32 | f16 | bf16
deriving DecidableEq, Repr
/-- The pattern a constant supplies to a 32-bit operand. -/
def constVal (ty : OTy) (k : BitVec 8) : W32 :=
  match ty with
  | .int => if k.toNat < 0x50 then BitVec.ofInt 32 (constInt k) else constFp32 k
  | .f32 => if k.toNat < 0x50 then BitVec.ofNat 32 (fp32.ofInt .rn (constInt k)) else constFp32 k
  | .f16 => let h := if k.toNat < 0x50 then fp16.ofInt .rn (constInt k) else constFp16 k
            BitVec.ofNat 32 (h * 0x10000 + h)
  | .bf16 => let h := if k.toNat < 0x50 then bf16.ofInt .rn (constInt k) else constBf16 k
             BitVec.ofNat 32 (h * 0x10000 + h)
/-- The pattern a constant supplies to a 64-bit operand. That the negative FP32 patterns of codes 0x54 to 0x57 are zero-extended, as Table 2.5a has them,
and not sign-extended, as R260 says of a constant, is the model's choice (entry 78). -/
def constVal64 (k : BitVec 8) : W64 :=
  if k.toNat < 0x50 then BitVec.ofInt 64 (constInt k) else (constFp32 k).setWidth 64

/-! ### Register reads (R44 to R46, R48) -/

/-- A write has not been made yet at a cycle. -/
def outstanding (now : Nat) (p : Pend) : Bool :=
  match p.due with
  | some d => decide (now < d)
  | none => !p.done
/-- The writes in flight that name a register and a lane, in issue order. -/
def namedBy (w : Wave) (r : Dst) (l : Nat) : List Pend := w.pend.filter (fun p => decide (p.dst = r) && p.e.getLsbD l)
/-- The value a write gives a lane, where it is known. -/
def pendVal (p : Pend) (l : Nat) : Option Val := tfind p.vals l
/-- The value written last among writes that have all been made. -/
def lastVal (base : Val) (l : Nat) (ps : List Pend) : Val := ps.foldl (fun v p => (pendVal p l).getD v) base

/-- A code for a register and lane, for the free choice of an unsettled read. -/
def saltOf (r : Dst) (l : Nat) : Nat :=
  match r with
  | .v n => 1000000 + n * 32 + l
  | .s n => 2000000 + n
  | .p n => 3000000 + n * 32 + l
  | .x n => 4000000 + n
  | .fd n => 5000000 + n

/-- What a read of a register's lane returns. With no write outstanding it is the value written last. Otherwise it is the value at
the last settle point, or one written by an instruction issued since (R45); an interlocked wave has waited (R48). The cycles are
those of the wave's die. -/
def regRead (s : State) (w : Wave) (r : Dst) (l : Nat) (base : Val) : Val :=
  let ps := namedBy w r l
  if ps.any (outstanding (s.cyc w.die)) then
    pick s (saltOf r l) base (base :: (ps.filter (fun p => !p.old)).filterMap (fun p => pendVal p l))
  else lastVal base l ps

/-- The settled value of a vector lane, scalar, predicate lane and index register. -/
def baseV (w : Wave) (n l : Nat) : Val := lget Val.zero (tget [] w.v n) l
def baseS (w : Wave) (n : Nat) : Val := tget Val.zero w.s n
def baseP (w : Wave) (n l : Nat) : Val :=
  let x := tget (0, 0) w.p n
  ⟨if x.1.getLsbD l then 1 else 0, x.2.getLsbD l⟩
def baseX (w : Wave) (n : Nat) : Val := ⟨tget 0 w.x n, false⟩

def readV (s : State) (w : Wave) (n l : Nat) : Val := regRead s w (.v n) l (baseV w n l)
def readS (s : State) (w : Wave) (n : Nat) : Val := regRead s w (.s n) 0 (baseS w n)
/-- A predicate lane; p7 is true and unpoisoned in every lane (Table 0.3). -/
def readP (s : State) (w : Wave) (n : PReg) (l : Nat) : Bool × Bool :=
  if n = 7 then (true, false)
  else let x := regRead s w (.p n.toNat) l (baseP w n.toNat l)
       (x.v != 0, x.psn)
def readX (s : State) (w : Wave) (n : Nat) : Nat := (regRead s w (.x n) 0 (baseX w n)).v.toNat

/-- A write of a format descriptor that is a value for both of its words. -/
def pendFd (p : Pend) : Option W64 := (pendVal p 0).bind (fun lo => (pendVal p 1).map (fun hi => hi.v ++ lo.v))
/-- What a read of a format descriptor returns (R45, R48, R346): the register is read as a whole. -/
def readFd (s : State) (w : Wave) (n : Nat) : W64 :=
  let ps := namedBy w (.fd n) 0
  let base := tget 0 w.fd n
  if ps.any (outstanding (s.cyc w.die)) then
    pick s (saltOf (.fd n) 0) base (base :: (ps.filter (fun p => !p.old)).filterMap pendFd)
  else ps.foldl (fun v p => (pendFd p).getD v) base

/-! ### Operand forms (Table 2.4) -/

/-- The effective number of a vector destination (R50). -/
def effV (s : State) (w : Wave) : VDst → Nat
  | .reg n => n.toNat
  | .ind x off => readX s w x.toNat + off.toNat

/-- Opnd of a vector source for a lane: register `i` of a multi-register operand. -/
def vsrc (s : State) (w : Wave) (ty : OTy) (x : VSrc) (i l : Nat) : Val :=
  match x with
  | .reg n => readV s w (n.toNat + i) l
  | .ind k off => readV s w (readX s w k.toNat + off.toNat + i) l
  | .sc n => readS s w (n.toNat + i)
  | .const k => if i = 0 then ⟨constVal ty k, false⟩ else ⟨(constVal64 k).extractLsb' 32 32, false⟩
/-- Opnd of a scalar source. -/
def ssrc (s : State) (w : Wave) (x : SSrc) : Val :=
  match x with
  | .reg n => readS s w n.toNat
  | .const k => ⟨constVal .int k, false⟩
/-- The high half of a sized scalar source. -/
def ssrcHi (s : State) (w : Wave) (x : SSrc) : Val :=
  match x with
  | .reg n => readS s w (n.toNat + 1)
  | .const k => ⟨(constVal64 k).extractLsb' 32 32, false⟩
/-- A 64-bit scalar pair and whether a half is poisoned (each half is read on its own, R45). -/
def sreg64 (s : State) (w : Wave) (n : SReg) : W64 × Bool :=
  let lo := readS s w n.toNat
  let hi := readS s w (n.toNat + 1)
  (hi.v ++ lo.v, lo.psn || hi.psn)
def spair (s : State) (w : Wave) (x : SPair) : W64 × Bool :=
  match x with
  | .reg n => sreg64 s w n
  | .const k => (constVal64 k, false)
/-- A global address operand for a lane (R261), and its poison. -/
def gaddr (s : State) (w : Wave) (x : GAddr) (l : Nat) : Nat × Bool :=
  match x with
  | .sc n => let a := sreg64 s w n
             (a.1.toNat, a.2)
  | .vec d => let n := effV s w d
              let lo := readV s w n l
              let hi := readV s w (n + 1) l
              (hi.v.toNat * 2 ^ 32 + lo.v.toNat, lo.psn || hi.psn)

/-! ### The registers an instruction names -/

/-- Registers of a data size (Table 12.2) and of an atomic (Table 12.3). -/
def szRegs : Sz → Nat
  | .b64 => 2
  | .b128 => 4
  | _ => 1
def atRegs (f : AtF) : Nat := if f.w64 then 2 else 1

/-- One named operand: vector source, destination, read-and-written destination, read destination field; scalar sources and
destinations; sized scalar source; addresses; predicates; index register. -/
inductive Ref where
  | vs (x : VSrc) (k : Nat)
  | vd (x : VDst) (k : Nat)
  | vrd (x : VDst) (k : Nat)
  | vrs (x : VDst) (k : Nat)
  | ss (x : SSrc)
  | sz (x : SSrc) (k : Nat)
  | sp (x : SPair)
  | sr (n : SReg) (k : Nat)
  | sw (n : SReg) (k : Nat)
  | ga (x : GAddr)
  | sa (x : SAddr)
  | ce (x : CpEnd)
  | pr (n : PReg)
  | pw (n : PReg)
  | xr (n : Nat)
  | fr (n : BitVec 3)
deriving DecidableEq, Repr

def optRef : Option SSrc → List Ref
  | some x => [.ss x]
  | none => []

/-- The registers each instruction names: what it reads, what it writes, and the bounds to check (R50, R54, R260). -/
def refsOf : Instr → List Ref
  | .nop _ => []
  | .bra _ _ _ => []
  | .brm _ pairs _ => pairs.map (fun x => .pr x.1)
  | .brx _ a _ => [.vs a 1]
  | .call _ d _ => [.vd d 1]
  | .callx _ d a => [.vd d 1, .vs a 1]
  | .ret _ a => [.vs a 1]
  | .exit _ => []
  | .wsync _ => []
  | .yield _ _ _ => []
  | .sleep _ a => [.ss a]
  | .elect _ d => [.pw d]
  | .vote _ k a => [.pr a] ++ (match k with | .or d => [.pw d] | .and d => [.pw d] | .eq d => [.pw d] | .bits d => [.sw d 1] | .cnt d => [.sw d 1])
  | .trap _ _ => []
  | .brk _ _ => []
  | .tret _ => []
  | .splInfo _ d _ => [.sw d 1]
  | .fragList _ d a _ => [.sw d 2, .sp a]
  | .fragRead _ d a b => [.sw d 2, .sp a, .ss b]
  | .fragResume _ d a => [.sw d 1, .sp a]
  | .fragKill _ d a => [.sw d 1, .sp a]
  | .fragPatch _ d a b e => [.sw d 1, .sp a, .ss b, .ss e]
  | .sread _ d sys => [.sw d 1] ++ (match sys with | .xidx0 => [.xr 0] | .xidx1 => [.xr 1] | .xidx2 => [.xr 2] | .xidx3 => [.xr 3] | _ => [])
  | .swrite _ a _ => [.ss a]
  | .capRd _ d a => [.sw d 1, .ss a]
  | .vread _ d _ => [.vd d 1]
  | .sadd _ d a b _ => [.sw d 1, .ss a, .ss b]
  | .ssub _ d a b _ => [.sw d 1, .ss a, .ss b]
  | .smul _ d a b _ => [.sw d 1, .ss a, .ss b]
  | .smad _ d a b e _ => [.sw d 1, .ss a, .ss b, .ss e]
  | .sand _ d a b _ => [.sw d 1, .ss a, .ss b]
  | .sor _ d a b _ => [.sw d 1, .ss a, .ss b]
  | .sxor _ d a b _ => [.sw d 1, .ss a, .ss b]
  | .sshl _ d a b _ => [.sw d 1, .ss a, .ss b]
  | .sshr _ d a b _ => [.sw d 1, .ss a, .ss b]
  | .smin _ d a b _ => [.sw d 1, .ss a, .ss b]
  | .smax _ d a b _ => [.sw d 1, .ss a, .ss b]
  | .scmp _ a b f => [.ss a, .ss b, .pw f.pq]
  | .ssel _ d a b e _ => [.sw d 1, .ss a, .ss b, .ss e]
  | .smov _ d a _ => [.sw d 1, .ss a]
  | .sbit _ d a _ => [.sw d 1, .ss a]
  | .sdiv _ d a b _ => [.sw d 1, .ss a, .ss b]
  | .sli _ d _ => [.sw d 1]
  | .saddi _ d a _ _ => [.sw d 1, .sr a 1]
  | .sandi _ d a _ => [.sw d 1, .sr a 1]
  | .sori _ d a _ => [.sw d 1, .sr a 1]
  | .sxori _ d a _ => [.sw d 1, .sr a 1]
  | .sshli _ d a _ => [.sw d 1, .sr a 1]
  | .sshri _ d a _ _ => [.sw d 1, .sr a 1]
  | .scmpi _ d a _ _ => [.pw d, .sr a 1]
  | .smuli _ d a _ _ => [.sw d 1, .sr a 1]
  | .sadd64 _ d a b _ => [.sw d 2, .sp a, .sp b]
  | .ssub64 _ d a b _ => [.sw d 2, .sp a, .sp b]
  | .sla _ d a b _ => [.sw d 2, .sp a, .ss b]
  | .vadd _ d a b _ => [.vd d 1, .vs a 1, .vs b 1]
  | .vsub _ d a b _ => [.vd d 1, .vs a 1, .vs b 1]
  | .vmul _ d a b _ => [.vd d 1, .vs a 1, .vs b 1]
  | .vmad _ d a b e _ => [.vd d 1, .vs a 1, .vs b 1, .vs e 1]
  | .vand _ d a b _ => [.vd d 1, .vs a 1, .vs b 1]
  | .vor _ d a b _ => [.vd d 1, .vs a 1, .vs b 1]
  | .vxor _ d a b _ => [.vd d 1, .vs a 1, .vs b 1]
  | .vshl _ d a b _ => [.vd d 1, .vs a 1, .vs b 1]
  | .vshr _ d a b _ => [.vd d 1, .vs a 1, .vs b 1]
  | .vmin _ d a b _ => [.vd d 1, .vs a 1, .vs b 1]
  | .vmax _ d a b _ => [.vd d 1, .vs a 1, .vs b 1]
  | .vabs _ d a _ => [.vd d 1, .vs a 1]
  | .vcmp _ a b f => [.vs a 1, .vs b 1, .pw f.pq]
  | .vsel _ d a b f => [.vd d 1, .vs a 1, .vs b 1, .pr f.pq]
  | .vmov _ d a _ => [.vd d 1, .vs a 1]
  | .vbit _ d a _ => [.vd d 1, .vs a 1]
  | .vbfe _ d a b _ => [.vd d 1, .vs a 1, .vs b 1]
  | .vbfi _ d a b e _ => [.vd d 1, .vs a 1, .vs b 1, .vs e 1]
  | .vaddc _ d a b f => [.vd d 1, .vs a 1, .vs b 1, .pr f.pq, .pw f.pq]
  | .vsubb _ d a b f => [.vd d 1, .vs a 1, .vs b 1, .pr f.pq, .pw f.pq]
  | .vdp4 _ d a b e _ => [.vd d 1, .vs a 1, .vs b 1, .vs e 1]
  | .vdp2 _ d a b e _ => [.vd d 1, .vs a 1, .vs b 1, .vs e 1]
  | .vsad _ d a b e _ => [.vd d 1, .vs a 1, .vs b 1, .vs e 1]
  | .vaddi _ d a _ _ => [.vd (.reg d) 1, .vs (.reg a) 1]
  | .vandi _ d a _ => [.vd (.reg d) 1, .vs (.reg a) 1]
  | .vori _ d a _ => [.vd (.reg d) 1, .vs (.reg a) 1]
  | .vxori _ d a _ => [.vd (.reg d) 1, .vs (.reg a) 1]
  | .vshli _ d a _ => [.vd (.reg d) 1, .vs (.reg a) 1]
  | .vshri _ d a _ _ => [.vd (.reg d) 1, .vs (.reg a) 1]
  | .vcmpi _ d a _ _ => [.pw d, .vs (.reg a) 1]
  | .vmuli _ d a _ _ => [.vd (.reg d) 1, .vs (.reg a) 1]
  | .vli _ d _ => [.vd (.reg d) 1]
  | .fadd _ d a b _ => [.vd d 1, .vs a 1, .vs b 1]
  | .fsub _ d a b _ => [.vd d 1, .vs a 1, .vs b 1]
  | .fmul _ d a b _ => [.vd d 1, .vs a 1, .vs b 1]
  | .ffma _ d a b e _ => [.vd d 1, .vs a 1, .vs b 1, .vs e 1]
  | .fmin _ d a b _ => [.vd d 1, .vs a 1, .vs b 1]
  | .fmax _ d a b _ => [.vd d 1, .vs a 1, .vs b 1]
  | .fcmp _ a b f => [.vs a 1, .vs b 1, .pw f.pq]
  | .fcls _ a b f => [.vs a 1, .vs b 1, .pw f.pq]
  | .frnd _ d a _ => [.vd d 1, .vs a 1]
  | .fsqrt _ d a _ => [.vd d 1, .vs a 1]
  | .fdiv _ d a b _ => [.vd d 1, .vs a 1, .vs b 1]
  | .frcp _ d a _ => [.vd d 1, .vs a 1]
  | .frsq _ d a _ => [.vd d 1, .vs a 1]
  | .fex2 _ d a _ => [.vd d 1, .vs a 1]
  | .flg2 _ d a _ => [.vd d 1, .vs a 1]
  | .fscl _ d a b _ => [.vd d 1, .vs a 1, .vs b 1]
  | .hadd2 _ d a b _ => [.vd d 1, .vs a 1, .vs b 1]
  | .hmul2 _ d a b _ => [.vd d 1, .vs a 1, .vs b 1]
  | .hfma2 _ d a b e _ => [.vd d 1, .vs a 1, .vs b 1, .vs e 1]
  | .hmin2 _ d a b _ => [.vd d 1, .vs a 1, .vs b 1]
  | .hmax2 _ d a b _ => [.vd d 1, .vs a 1, .vs b 1]
  | .hcmp2 _ d a b _ => [.vd d 1, .vs a 1, .vs b 1]
  | .hdot2 _ d a b e _ => [.vd d 1, .vs a 1, .vs b 1, .vs e 1]
  | .cvt _ d a _ => [.vd d 1, .vs a 1]
  | .cvtn _ d a b sc _ => [.vrd d 1, .vs a 1, .vs b 1] ++ (match sc with | some x => [.vd x 1] | none => [])
  | .pack _ d a b _ => [.vd d 1, .vs a 1, .vs b 1]
  | .shfl _ d a b e f => [.vd d 1, .vs a 1, .vs b 1, .vs e 1, .pw f.pq]
  | .vred _ d a _ => [.vd d 1, .vs a 1]
  | .vscan _ d a _ => [.vd d 1, .vs a 1]
  | .pand _ d a b _ => [.pw d, .pr a, .pr b]
  | .por _ d a b _ => [.pw d, .pr a, .pr b]
  | .pxor _ d a b _ => [.pw d, .pr a, .pr b]
  | .pnot _ d a => [.pw d, .pr a]
  | .pmov _ k => (match k with | .p d a => [.pr a, .pw d] | .set d a => [.vs a 1, .pw d] | .nz d a => [.vs a 1, .pw d] | .v d a => [.vd d 1, .pr a])
  | .v2s _ d a b => [.sw d 1, .vs a 1] ++ optRef b
  | .vins _ d a b => [.vd d 1, .vs a 1, .ss b]
  | .ld _ d a f _ => [.vd d (szRegs f.sz), .ga a]
  | .st _ d a f _ => [.vs d (szRegs f.sz), .ga a]
  | .lds _ d a f _ => [.vd d (szRegs f.sz), .vs a 1]
  | .sts _ d a f _ => [.vs d (szRegs f.sz), .vs a 1]
  | .ldc _ d a f _ => [.vd d (szRegs f.sz), .vs a 1]
  | .stc _ d a f _ => [.vs d (szRegs f.sz), .vs a 1]
  | .sld _ d a f _ => [.sw d (szRegs f.sz), .sa a]
  | .sst _ d a f _ => [.sz d (szRegs f.sz), .sa a]
  | .pf _ a _ _ => [.ga a]
  | .seal _ a _ => [.ga a]
  | .unseal _ a _ => [.ga a]
  | .atom _ d a f _ => [.vrd d (atRegs f), .ga a]
  | .acas _ d a f _ => [.vrd d (2 * atRegs f), .ga a]
  | .red _ d a f _ => [.vs d (atRegs f), .ga a]
  | .redb _ d a f _ => [.vs d (atRegs f), .ga a]
  | .satom _ d a f _ => [.sr d (atRegs f), .sw d (atRegs f), .sr a 2]
  | .phase _ _ _ _ => []
  | .wait _ pq d a b t _ _ => [.sr a 2, .ss b, .ss t, .sw d 1, .pw pq]
  | .lda _ d a f _ => [.vd d (atRegs f), .ga a]
  | .barInitLane _ a b => [.ss a, .ss b]
  | .barInitByte _ a b => [.ss a, .ss b]
  | .barInitChunk _ a => [.ss a]
  | .barArrLane _ d a => [.sw d 1, .ss a]
  | .barArrByte _ a b e => [.ss a, .ss b, .ss e]
  | .barWait _ a b _ => [.ss a, .ss b]
  | .barSync _ a _ => [.ss a]
  | .barExp _ d a b e => [.sw d 1, .ss a, .ss b, .ss e]
  | .barWd _ => []
  | .barRd _ d a b => [.sw d 1, .ss a, .ss b]
  | .cmapWait _ a b => [.ss a, .sp b]
  | .cmapTest _ pq a b => [.ss a, .sp b, .pw pq]
  | .cmapClr _ a b => [.ss a, .sp b]
  | .cbar _ a _ => [.ss a]
  | .cpTile _ rec crd spo slot => [.sr rec 2, .sr crd 5, .ss spo, .ss slot]
  | .cpTileThen _ rec crd spo slot => [.sr rec 2, .sr crd 5, .ss spo, .ss slot]
  | .cpTilest _ rec crd spo slot => [.sr rec 2, .sr crd 5, .ss spo, .ss slot]
  | .cpGat _ rec crd spo slot msk => [.sr rec 2, .sr crd 5, .ss spo, .ss slot, .sr msk 2]
  | .cpSca _ rec crd spo slot msk => [.sr rec 2, .sr crd 5, .ss spo, .ss slot, .sr msk 2]
  | .cpLin _ dst src len slot _ => [.ce dst, .ce src, .ss len, .ss slot]
  | .recFence _ a => [.sr a 2]
  | .mx _ _ fda spa _ _ _ _ _ => [.fr fda, .ss spa]
  | .mxLdb _ _ fdb spb _ => [.fr fdb, .ss spb]
  | .mxZero _ _ => []
  | .mxRd _ d _ row => [.vd d 2, .ss row]
  | .mxWr _ _ row a => [.ss row, .vrs a 2]
  | .mxSt _ _ spd str sco _ _ => [.ss spd, .ss str] ++ optRef sco
  | .mxBatch _ d => [.sw d 1]
  | .mxWait _ _ => []
  | .fdl _ _ a => [.sp a]
  | .mxStat _ d _ => [.sw d 1]
  | .klaunch _ d a => [.sw d 1, .sr a 2]
  | .rgn _ q => [.pw q]
  | .ckacc _ a => [.vs a 1]
  | .ckaccClr _ => []
  | .chk _ a _ => [.sp a]
  | .memhintCompute _ a => [.ss a]
  | .pgInvalPage _ d a b => [.sw d 1, .sp a, .ss b]
  | .pgInvalAsid _ d b => [.sw d 1, .ss b]
  | .pgInvalAll _ d => [.sw d 1]
  | .psyswCreate _ d a b => [.sw d 1, .ss a, .sp b]
  | .psyswPreempt _ d a b => [.sw d 1, .ss a, .sp b]
  | .psyswRestore _ d a b => [.sw d 1, .ss a, .sp b]
  | .psyswDestroy _ d a b => [.sw d 1, .ss a, .sp b]
  | .psyswSetdl _ d a b => [.sw d 1, .ss a, .sp b]
  | .qctlOpen _ d a b => [.sw d 1, .ss a, .sp b]
  | .qctlPause _ d a b => [.sw d 1, .ss a, .sp b]
  | .qctlResume _ d a b => [.sw d 1, .ss a, .sp b]
  | .qctlDrain _ d a b => [.sw d 1, .ss a, .sp b]
  | .qctlFlush _ d a b => [.sw d 1, .ss a, .sp b]
  | .clauseEntry _ => []
  | .clauseWaitRelease _ => []
  | .codeFetchFault _ => []
  | .settleRelease _ => []
  | .variableResultWrite _ => []
  | .accessStatusReturn _ => []
  | .backoffRetry _ => []
  | .handlerEntry _ => []
  | .fragmentReplay _ => []
  | .exitCloseComplete _ => []
  | .blockRetire _ => []
  | .kernelSignalPerformed _ => []
  | .hostCompletionSend _ => []
  | .hostCompletionAck _ => []
  | .hostSendTimeout _ => []
  | .launchMessage _ _ _ => []
  | .dependenceWake _ _ => []
  | .dependencePoll _ => []
  | .kernelSelect => []
  | .groupHandout => []
  | .queueStatusRefresh _ => []
  | .queueDrainComplete _ => []
  | .blockRestSave _ => []
  | .preemptDeadlineExpiry _ => []
  | .contextSaved _ => []
  | .contextDrainComplete _ => []
  | .barWake _ => []
  | .byteCredit _ => []
  | .clusterSignal _ => []
  | .chunkLand _ _ => []
  | .watchWake _ => []
  | .waitTimeout _ => []
  | .watchPoll _ => []
  | .sleepExpiry _ => []
  | .homeSliceStore _ _ => []
  | .homeSliceAtomic _ _ => []
  | .lineFill _ _ _ => []
  | .closeComplete _ => []
  | .openBegin _ => []
  | .unsealComplete _ => []
  | .pgInvalComplete _ => []
  | .copyStart _ => []
  | .copyAccessReply _ _ => []
  | .copyRelease _ => []
  | .copyComplete _ => []
  | .mxStart _ => []
  | .mxCommit _ => []
  | .mxLdbStart _ => []
  | .mxLdbComplete _ => []
  | .mxStFinish _ => []
  | .twinCompare _ => []
  | .eyeMeasure _ _ => []
  | .linkReturn _ => []
  | .laneFail _ _ => []
  | .flitRetryExhausted _ => []
  | .linkTrainDone _ _ => []
  | .ethFrameReceive _ _ _ => []
  | .roceConnectRequest _ _ _ _ => []
  | .rdmaWrite _ _ _ _ => []
  | .rdmaRead _ _ _ _ => []
  | .fetchAndAdd _ _ _ _ => []
  | .compareAndSwap _ _ _ _ _ => []
  | .invalidRequestOp _ => []
  | .fence => []
  | .reset => []
  | .poweroff => []
  | .admitDie => []
  | .takeover => []
  | .retire => []
  | .getkey => []
  | .readmit => []
  | .dieErrorFence _ => []
  | .fencingQuiesced _ => []
  | .dieAdmitResult _ _ => []
  | .dieResetComplete _ => []
  | .cacheDieFault _ => []
  | .ioDie1Fault => []
  | .ioDie0UnitFault _ => []
  | .coldReset => []
  | .channelAutoRetire _ => []
  | .pageMove _ => []
  | .capsigWrite => []
  | .clkmhzRefresh => []
  | .arbiterGrant _ => []
  | .clockStep _ _ => []
  | .arbiterTakeover => []
  | .ethPortDown _ => []
  | .ethPortActive _ => []
  | .hbmRefresh _ => []

/-- The highest vector register number of a reference, with index registers as read now. -/
def refTop (s : State) (w : Wave) : Ref → Option Nat
  | .vs (.reg n) k => some (n.toNat + k - 1)
  | .vs (.ind x off) k => some (readX s w x.toNat + off.toNat + k - 1)
  | .vd d k => some (effV s w d + k - 1)
  | .vrd d k => some (effV s w d + k - 1)
  | .vrs d k => some (effV s w d + k - 1)
  | .ga (.vec d) => some (effV s w d + 1)
  | _ => none
/-- Decode check 8 (R50, R61): a vector register number at or above ALLOT. -/
def boundsBad (s : State) (w : Wave) (rs : List Ref) : Bool :=
  rs.any (fun r => match refTop s w r with
    | some n => decide (w.allot ≤ n)
    | none => false)

/-- k successive registers. -/
def runOf (f : Nat → Dst) (n k : Nat) : List Dst := (List.range k).map (fun i => f (n + i))
/-- The index register of an indirect destination. -/
def idxOf : VDst → List Dst
  | .ind x _ => [.x x.toNat]
  | _ => []
def ssReads (x : SSrc) (k : Nat) : List Dst :=
  match x with
  | .reg n => runOf .s n.toNat k
  | _ => []
/-- The registers a reference reads. -/
def refReads (s : State) (w : Wave) : Ref → List Dst
  | .vs (.reg n) k => runOf .v n.toNat k
  | .vs (.ind x off) k => .x x.toNat :: runOf .v (readX s w x.toNat + off.toNat) k
  | .vs (.sc n) k => runOf .s n.toNat k
  | .vs (.const _) _ => []
  | .vd d _ => idxOf d
  | .vrd d k => idxOf d ++ runOf .v (effV s w d) k
  | .vrs d k => idxOf d ++ runOf .v (effV s w d) k
  | .ss x => ssReads x 1
  | .sz x k => ssReads x k
  | .sp (.reg n) => runOf .s n.toNat 2
  | .sp (.const _) => []
  | .sr n k => runOf .s n.toNat k
  | .sw _ _ => []
  | .ga (.vec d) => idxOf d ++ runOf .v (effV s w d) 2
  | .ga (.sc n) => runOf .s n.toNat 2
  | .sa (.glob n) => runOf .s n.toNat 2
  | .sa (.spad x) => ssReads x 1
  | .ce (.glob n) => runOf .s n.toNat 2
  | .ce (.off x) => ssReads x 1
  | .pr n => [.p n.toNat]
  | .pw _ => []
  | .xr n => [.x n]
  | .fr n => [.fd n.toNat]
/-- A register with a write outstanding. -/
def busyReg (s : State) (w : Wave) (r : Dst) : Bool := w.pend.any (fun p => decide (p.dst = r) && outstanding (s.cyc w.die) p)
/-- The index registers a reference reads. -/
def refIdx : Ref → List Dst
  | .vs (.ind x _) _ => [.x x.toNat]
  | .vd d _ => idxOf d
  | .vrd d _ => idxOf d
  | .vrs d _ => idxOf d
  | .ga (.vec d) => idxOf d
  | _ => []
/-- An interlocked wave waits for the index registers before the bounds of what they name are checked (R48, R50). -/
def idxHazard (s : State) (w : Wave) (rs : List Ref) : Bool := w.ilk && rs.any (fun r => (refIdx r).any (busyReg s w))
/-- An interlocked wave waits for the registers an instruction reads, its guard among them (R48). -/
def hazard (s : State) (w : Wave) (c : Cm) (rs : List Ref) : Bool :=
  w.ilk && (busyReg s w (.p c.pg.toNat) || rs.any (fun r => (refReads s w r).any (busyReg s w)))

/-! ### Guard and execution set (R40) -/

def guardSet (s : State) (w : Wave) (c : Cm) (m : Mask) : Mask :=
  maskOf (fun l => m.getLsbD l && (xor (readP s w c.pg l).1 c.pn))
/-- Lanes of a mask whose guard predicate is poisoned. -/
def guardPoison (s : State) (w : Wave) (c : Cm) (m : Mask) : Mask :=
  maskOf (fun l => m.getLsbD l && (readP s w c.pg l).2)

end Sys2Proof.Machine
end

