-- ==== Sys2Proof/Machine/Ops.lean ====
section
/-! DEFINITION. The shared operations: cores, waves and splits; register writes in flight; fault records; aborting a kernel; taking a
wave-level trap and returning from the handler; parking a lane fault as a fragment; division, merge and arrival of splits; and the
issue of one instruction word, which every meaning goes through. -/

namespace Sys2Proof.Machine

/-! ### Objects -/

def State.core (s : State) (d c : Nat) : Core := tget (Core.fresh 0) s.cores (d, c)
def State.setCore (s : State) (d c : Nat) (x : Core) : State := { s with cores := tset s.cores (d, c) x }
def State.coreOf (s : State) (r : WaveRef) : Core := s.core r.die r.core
def State.setCoreOf (s : State) (r : WaveRef) (x : Core) : State := s.setCore r.die r.core x
def State.wave (s : State) (r : WaveRef) : Option Wave := tfind s.waves r
def State.setWave (s : State) (r : WaveRef) (w : Wave) : State := { s with waves := tset s.waves r w }
def State.updWave (s : State) (r : WaveRef) (f : Wave → Wave) : State := { s with waves := tupd s.waves r f }
def Wave.split (w : Wave) (k : Nat) : Split := lget Split.free w.splits k
def Wave.setSplit (w : Wave) (k : Nat) (x : Split) : Wave := { w with splits := lset w.splits k x }
def State.split (s : State) (u : SplitRef) : Split :=
  match s.wave u.w with
  | some w => w.split u.k
  | none => Split.free
def State.updSplit (s : State) (u : SplitRef) (f : Split → Split) : State :=
  s.updWave u.w (fun w => w.setSplit u.k (f (w.split u.k)))
def State.kern (s : State) (k : Nat) : Option Kern := tfind s.kerns k
def State.updKern (s : State) (k : Nat) (f : Kern → Kern) : State := { s with kerns := tupd s.kerns k f }
def State.queue (s : State) (q : Nat) : Queue := tget Queue.fresh s.queues q
def State.setQueue (s : State) (q : Nat) (x : Queue) : State := { s with queues := tset s.queues q x }
def State.op (s : State) (o : Nat) : Option Op := tfind s.ops o
def State.updOp (s : State) (o : Nat) (f : Op → Op) : State := { s with ops := tupd s.ops o f }
/-- A fresh name for an operation, block or kernel. -/
def State.fresh (s : State) : State × Nat := ({ s with nextId := s.nextId + 1 }, s.nextId)
/-- The launch record of a wave's kernel; a wave always has one. -/
def State.launchOf (s : State) (w : Wave) : Option Launch := (s.kern w.kernel).map (·.l)
/-- The copy of a block: where it is placed. -/
def State.place (s : State) (b c : Nat) : Option Place := (tfind s.blocks b).bind (fun x => x.places[c]?)
def sliceOfSlot (slot : Nat) : Nat := slot / 16
/-- Logical id of a die (R18). -/
def State.lidOf (s : State) (d : Nat) : Nat := ((s.die d).lid).getD 0
/-- The physical ACTIVE die that holds a logical id. -/
def State.dieOfLid (s : State) (lid : Nat) : Option Nat :=
  (List.range 18).find? (fun d => (s.die d).st == .active && (s.die d).lid == some lid)
/-- The cycle counter of a core (CLK). -/
def coreClock (s : State) (r : WaveRef) : Nat := s.cyc r.die - (s.coreOf r).clk0

/-! ### Register writes -/

def State.addPend (s : State) (r : WaveRef) (p : Pend) : State := s.updWave r (fun w => { w with pend := w.pend ++ [p] })
/-- A fixed-latency write of given lanes, `lat` cycles after issue (R42, R114). -/
def writeDst (s : State) (r : WaveRef) (d : Dst) (e : Mask) (vals : List (Nat × Val)) (lat : Nat) : State :=
  if e = 0 then s else s.addPend r ⟨d, e, vals, some (s.cyc r.die + lat), false, false, 0⟩
/-- A vector write: a value per lane of E (R13). -/
def writeV (s : State) (r : WaveRef) (n : Nat) (e : Mask) (f : Nat → Val) (lat : Nat) : State :=
  writeDst s r (.v n) e ((lanes e).map (fun l => (l, f l))) lat
/-- A scalar write. -/
def writeS (s : State) (r : WaveRef) (n : Nat) (v : Val) (lat : Nat) : State := writeDst s r (.s n) 1 [(0, v)] lat
/-- An index register write. -/
def writeX (s : State) (r : WaveRef) (n : Nat) (v : W32) (lat : Nat) : State := writeDst s r (.x n) 1 [(0, ⟨v, false⟩)] lat
/-- A format descriptor write (R346). -/
def writeFd (s : State) (r : WaveRef) (n : Nat) (v : W64) (lat : Nat) : State :=
  writeDst s r (.fd n) 3 [(0, ⟨v.extractLsb' 0 32, false⟩), (1, ⟨v.extractLsb' 32 32, false⟩)] lat
/-- A predicate write; p7 ignores it (Table 0.3). -/
def writeP (s : State) (r : WaveRef) (n : PReg) (e : Mask) (f : Nat → Bool × Bool) (lat : Nat) : State :=
  if n = 7 then s
  else writeDst s r (.p n.toNat) e ((lanes e).map (fun l => (l, ⟨if (f l).1 then 1 else 0, (f l).2⟩))) lat
/-- A variable-latency write that operation `o` will make: k registers from a first one. -/
def expect (s : State) (r : WaveRef) (f : Nat → Dst) (n k : Nat) (e : Mask) (o : Nat) : State :=
  (runOf f n k).foldl (fun s d => s.addPend r ⟨d, e, [], none, false, false, o⟩) s
/-- The same for a predicate. -/
def expectP (s : State) (r : WaveRef) (n : PReg) (e : Mask) (o : Nat) : State :=
  if n = 7 then s else s.addPend r ⟨.p n.toNat, e, [], none, false, false, o⟩

/-- Put values into one register of a wave, settled. -/
def putReg (w : Wave) (d : Dst) (vals : List (Nat × Val)) : Wave :=
  match d with
  | .v n => { w with v := tset w.v n (perLane (fun l => (tfind vals l).getD (baseV w n l))) }
  | .s n => match vals with
    | [] => w
    | (_, v) :: _ => { w with s := tset w.s n v }
  | .p n =>
    let f := fun l => (tfind vals l).getD (baseP w n l)
    { w with p := tset w.p n (maskOf (fun l => (f l).v != 0), maskOf (fun l => (f l).psn)) }
  | .x n => match vals with
    | [] => w
    | (_, v) :: _ => { w with x := tset w.x n v.v }
  | .fd n => match vals with
    | (_, lo) :: (_, hi) :: _ => { w with fd := tset w.fd n (hi.v ++ lo.v) }
    | _ => w

/-- Settle: writes made are put into the registers in issue order; an outstanding one keeps the lanes that no later made write
covers, since the last write issued determines the final value (R46). -/
def settleList (now : Nat) : List Pend → Wave → Wave × List Pend
  | [], w => (w, [])
  | p :: t, w =>
    if outstanding now p then
      let r := settleList now t w
      let cov := (t.filter (fun q => decide (q.dst = p.dst) && !outstanding now q)).foldl (fun m q => m ||| q.e) (0 : Mask)
      let e := p.e &&& ~~~cov
      (r.1, if e = 0 then r.2 else { p with e := e, old := true } :: r.2)
    else settleList now t (putReg w p.dst (p.vals.filter (fun v => p.e.getLsbD v.1)))
def settleWave (now : Nat) (w : Wave) : Wave :=
  let r := settleList now w.pend { w with pend := [] }
  { r.1 with pend := r.2 }
/-- The latest due cycle of the wave's fixed-latency writes (R43). -/
def fixedTill (w : Wave) : Nat := w.pend.foldl (fun m p => match p.due with | some d => max m d | none => m) 0

/-! ### Splits (R201 to R214) -/

def noneRpc : W64 := 0xFFFFFFFFFFFFFFFF
def Split.inUse (x : Split) : Bool := x.st != .unused && x.st != .exited
/-- AGE numbered from 0 in order among the entries in use (R202). -/
def renumber (l : List Split) : List Split :=
  l.map (fun x => if x.inUse then { x with age := (l.filter (fun y => y.inUse && decide (y.age < x.age))).length }
                  else { x with age := 0 })
/-- An entry leaves use. -/
def Wave.freeSplit (w : Wave) (k : Nat) (st : SplitSt) : Wave :=
  { w with splits := renumber (lset w.splits k { Split.free with st := st, pc := (w.split k).pc, hdr := (w.split k).hdr }) }
/-- The lowest free entry. -/
def Wave.freeEntry (w : Wave) : Option Nat := (List.range 4).find? (fun k => !(w.split k).inUse)
/-- A new split in a free entry, with AGE the number of entries in use (R202). -/
def Wave.newSplit (w : Wave) (x : Split) : Wave :=
  match w.freeEntry with
  | some k => w.setSplit k { x with age := (w.splits.filter Split.inUse).length }
  | none => w
/-- Lanes of the wave's splits. -/
def Wave.splitLanes (w : Wave) : Mask := (w.splits.filter Split.inUse).foldl (fun m x => m ||| x.mask) 0
def Wave.stackLanes (w : Wave) : Mask := w.stack.foldl (fun m x => m ||| x.mask) 0
/-- Lanes of the wave's fragments (R219). -/
def fragLanes (c : Core) (uid : Nat) : Mask :=
  c.frags.foldl (fun m f => if f.2.fstate != 0 && f.2.wuid == uid then m ||| f.2.mask else m) 0

/-- Whether another split in use, or a stack entry, is bound to a header. -/
def boundTo (w : Wave) (k : Nat) (h : Addr) : Bool :=
  (List.range 4).any (fun j => j != k && (w.split j).inUse && (w.split j).rpc == h.setWidth 64)
    || w.stack.any (fun e => e.rpc == h.setWidth 64)
/-- The state of a split that may go on: it is still in SETTLE where an S of it is not over (R43). -/
def Split.goOn (x : Split) : SplitSt := match x.settle with | some t => .settle t | none => .runnable
/-- A split arrives at header h (R211). -/
def arrive (w : Wave) (k : Nat) (h : Addr) : Wave :=
  let x := w.split k
  let m := x.rpc == h.setWidth 64 || (x.rpc == noneRpc && boundTo w k h)
  w.setSplit k { x with pc := h, hdr := h, hdrw := none, recheck := false, st := if m then .waitMerge else x.goOn }
/-- The later of two cycles by which an S is over. -/
def laterSettle (a b : Option Nat) : Option Nat :=
  match a, b with
  | some x, some y => some (max x y)
  | some x, none => some x
  | none, y => y

/-- The splits that wait to merge at a header (wsync waiters stand at a word inside a clause). -/
def waitsAt (x : Split) (h : Addr) : Bool := x.st == .waitMerge && x.pc == x.hdr && x.pc == h
/-- R212 at one header. -/
def mergeAt (w : Wave) (h : Addr) : Option Wave :=
  let ks := (List.range 4).filter (fun k => waitsAt (w.split k) h)
  let open' := (List.range 4).any (fun k => (w.split k).inUse && !waitsAt (w.split k) h && (w.split k).rpc == h.setWidth 64)
    || w.stack.any (fun e => e.rpc == h.setWidth 64)
  match ks with
  | [] => none
  | k0 :: _ =>
    if open' then none
    else
      let best := ks.foldl (fun b k => if (w.split k).age < (w.split b).age then k else b) k0
      let m := ks.foldl (fun m k => m ||| (w.split k).mask) (0 : Mask)
      let x := w.split best
      let x := { x with settle := ks.foldl (fun t k => laterSettle t (w.split k).settle) none }
      let w := w.setSplit best { x with mask := m, rpc := noneRpc, st := x.goOn, hdrw := none, recheck := false }
      some (ks.foldl (fun w k => if k = best then w else w.freeSplit k .unused) w)
def mergeAny (w : Wave) : Option Wave :=
  (w.splits.filter (fun x => x.st == .waitMerge && x.pc == x.hdr)).findSome? (fun x => mergeAt w x.pc)

/-- R209: a split waits at H, no entry is free, and the top of the stack is bound to H. Of several splits that wait at H the one in the lowest entry
takes it, and an entry whose TARGET is H is popped, so that the stack is one entry less deep although the rule's last sentence says that neither
case changes its depth (entry 58: the model's choices). -/
def swapTop (w : Wave) : Option Wave :=
  match w.stack with
  | [] => none
  | e :: t =>
    if w.freeEntry.isSome then none
    else
      match (List.range 4).find? (fun k => waitsAt (w.split k) (w.split k).pc && (w.split k).pc.setWidth 64 == e.rpc) with
      | none => none
      | some k =>
        let x := w.split k
        if e.target = x.pc then some ({ w with stack := t }.setSplit k { x with mask := x.mask ||| e.mask })
        else
          some (arrive ({ w with stack := ⟨x.mask, x.pc, x.pc.setWidth 64⟩ :: t }.setSplit k
            { x with mask := e.mask, rpc := e.rpc, st := .runnable }) k e.target)

/-- wsync completes (R214): every lane not exited is in WSM. A split that goes on inside a clause has the clause's waits evaluated again, as every
resume inside a clause has, though R37 does not name this one (entry 59: the model's choice; the same in `wsyncRetry`). -/
def wsyncDone (w : Wave) : Option Wave :=
  if w.wsm != 0 && (w.wsm ||| w.exited) == 0xFFFFFFFF then
    let t := if w.wsTill = 0 then none else some w.wsTill
    some ({ w with wsm := 0, wsTill := 0 }.newSplit
      { Split.free with pc := w.wsNext, hdr := w.wsHdr, mask := w.wsm, rpc := noneRpc, settle := t
                        st := ({ Split.free with settle := t }).goOn, recheck := decide (w.wsNext ≠ w.wsHdr) })
  else none
/-- Splits held at another wsync word go on when WSM is empty. -/
def wsyncRetry (w : Wave) : Option Wave :=
  if w.wsm == 0 && w.splits.any (fun x => x.st == .waitMerge && x.pc != x.hdr) then
    some { w with splits := w.splits.map (fun x => if x.st == .waitMerge && x.pc != x.hdr then { x with st := .runnable, recheck := true, settle := none } else x) }
  else none

/-- The earliest accepted RESUMABLE fragment of a wave. -/
def nextResumable (c : Core) (uid : Nat) : Option (Nat × Frag) :=
  (c.frags.filter (fun f => f.2.fstate == 2 && f.2.wuid == uid)).foldl
    (fun b f => match b with
      | none => some f
      | some g => if f.2.order < g.2.order then some f else some g) none
/-- The split a fragment becomes (R220): it opens, then replays; inside a clause the header is not checked again (R37). -/
def splitOfFrag (f : Frag) (frozen : Bool) : Split :=
  { Split.free with
    pc := f.pc, hdr := f.hdr, rpc := f.rpc, mask := f.mask, st := .runnable, recheck := decide (f.pc ≠ f.hdr), hold := .replay
    replay := some (if f.cap then some ⟨f.lanes⟩ else none), frozen := frozen }

/-- One change of a wave's split table that the device makes by itself: wsync, merge, swap, or an offered free entry (R203). -/
def tidyStep (s : State) (r : WaveRef) : Option State :=
  match s.wave r with
  | none => none
  | some w =>
    match wsyncDone w with
    | some w => some (s.setWave r w)
    | none => match wsyncRetry w with
      | some w => some (s.setWave r w)
      | none => match mergeAny w with
        | some w => some (s.setWave r w)
        | none => match swapTop w with
          | some w => some (s.setWave r w)
          | none =>
            if w.freeEntry.isNone then none
            else match nextResumable (s.coreOf r) w.uid with
              | some (i, f) =>
                let c := s.coreOf r
                some ((s.setCoreOf r { c with frags := tset c.frags i { f with fstate := 0 } }).setWave r
                  (w.newSplit (splitOfFrag f w.hmode)))
              | none => match w.stack, w.freeEntry with
                | e :: t, some k =>
                  let fz := w.hmode && decide (w.stack.length ≤ w.hdepth)
                  some (s.setWave r (arrive ({ w with stack := t }.newSplit
                    { Split.free with pc := e.target, hdr := e.target, rpc := e.rpc, mask := e.mask, st := .runnable, frozen := fz }) k e.target))
                | _, _ => none
def tidyN : Nat → State → WaveRef → State
  | 0, s, _ => s
  | n + 1, s, r => match tidyStep s r with
    | some s => tidyN n s r
    | none => s

/-- Whether no lane of the wave is in a split, the stack, a fragment or WSM (R218). -/
def waveEmpty (s : State) (r : WaveRef) (w : Wave) : Bool :=
  w.splitLanes == 0 && w.stack.isEmpty && w.wsm == 0 && fragLanes (s.coreOf r) w.uid == 0

/-! ### Operations in flight -/

/-- Stores for WS and closes: stores, atomics, reductions, seals. -/
def isStoreKind : OpKind → Bool
  | .store _ _ => true
  | .atom _ _ _ _ => true
  | .seal => true
  | .unseal => true
  | _ => false
def isLoadKind : OpKind → Bool
  | .load _ _ _ => true
  | .lda _ => true
  | .atom _ _ _ ret => ret
  | _ => false
/-- An operation whose accesses are all performed, satisfied or faulted; a lane whose store faulted is outside a close (R279). -/
def Op.performed (x : Op) : Bool :=
  let all := x.lanes.all (fun l => l.fin || l.cause != 0)
  x.fin || (match x.kind with
    | .load _ _ _ => all
    | .store _ _ => all
    | .lda _ => all
    | .atom _ _ _ _ => all
    | .seal => all
    | .pf _ => all
    | _ => false)
/-- The wave's operations of a kind that are not yet performed, but for those in its replay queue, which start again at tret: what a handler issues
does not wait for them (entry 79: the model's choice). -/
def opsOf (s : State) (uid : Nat) (p : OpKind → Bool) : List Nat :=
  (s.ops.filter (fun (o : Nat × Op) => o.2.wuid == uid && !o.2.performed && !o.2.inRq && p o.2.kind)).map (·.1)
/-- Arrivals of the wave that wait for its stores: bar.sync.gl and cbar, at the slots that a predicate picks. -/
def syncsOut (s : State) (w : Wave) (p : Nat → Bool) : Bool :=
  s.ops.any (fun (o : Nat × Op) => o.2.wuid == w.uid && (match o.2.kind with
    | .cmd (.barSync n _ _) => p n
    | .cmd (.cbar n _ _) => p n
    | _ => false))
/-- An operation that this copy of a twin never performs: the trailing copy's (R353). -/
def trailing (s : State) (x : Op) : Bool := x.twin == 3 || (x.twin == 1 && (s.wave x.w).any (fun w => w.copy != 0))
/-- Kinds that the replay queue holds (R147): stores, atomics, copy and matrix commands; seal and unseal stand with the stores
(entry 23). -/
def isCapturedKind : OpKind → Bool
  | .store _ _ => true
  | .atom _ _ _ _ => true
  | .seal => true
  | .unseal => true
  | .mx _ => true
  | .cmd (.recFence _) => true
  | _ => false
/-- Stores of a wave that are not performed into their own or a peer's scratchpad yet (R48); those in its replay queue start again only at
tret. -/
def spadStoresOut (s : State) (uid : Nat) : Bool :=
  s.ops.any (fun (o : Nat × Op) => o.2.wuid == uid && !o.2.performed && !o.2.inRq && isStoreKind o.2.kind && o.2.space != .glob)
/-- Captured operations that have not left the core (R147). -/
def captured (s : State) (uid : Nat) : List Nat :=
  (s.ops.filter (fun (o : Nat × Op) => o.2.wuid == uid && !o.2.performed && !o.2.left && isCapturedKind o.2.kind)).map (·.1)
/-- The linear index of the block of a wave. -/
def blockOfWave (s : State) (r : WaveRef) : Nat := (((s.wave r).bind (fun w => tfind s.blocks w.block)).map (·.idx)).getD 0
/-- A new operation of a wave, which keeps its block's index for the records about it; its name is the state's next one. -/
def State.newOp (s : State) (o : Op) : State :=
  { s with nextId := s.nextId + 1, ops := s.ops ++ [(s.nextId, { o with blk := blockOfWave s o.w })] }

/-- The exit close of a wave with no lane left (R218). -/
def exitCheck (s : State) (r : WaveRef) : State :=
  match s.wave r with
  | none => s
  | some w =>
    if w.exitOp.isNone && waveEmpty s r w then
      let o : Op := ⟨r, w.uid, w.kernel, 0, w.asid, .cmd .exit, .none, 0, 0, 0, 0, 0, 0, [], opsOf s w.uid isStoreKind, true, false, true, true, 0, 0, false, 0⟩
      let id := s.nextId
      (s.newOp o).setWave r { w with exitOp := some id }
    else s
/-- Everything the device does by itself to a wave after a change. -/
def tidy (s : State) (r : WaveRef) : State := exitCheck (tidyN 48 s r) r

/-! ### Fault records (R151) -/

/-- Who a record names: die, core, slot, block, PC and clock. -/
structure Who where
  die : Nat
  core : Nat
  slot : Nat
  block : Nat
  pc : Nat
  clk : Nat
deriving DecidableEq, Repr

def whoNone (s : State) : Who := ⟨0, 0, 0, 0, 0, s.ns⟩
def whoWave (s : State) (r : WaveRef) (w : Wave) (pc : Nat) : Who :=
  ⟨s.lidOf r.die, r.core, r.slot, ((tfind s.blocks w.block).map (·.idx)).getD 0, pc, coreClock s r⟩
/-- The wave that issued an operation, which may be there no more. -/
def whoOp (s : State) (x : Op) : Who := ⟨s.lidOf x.w.die, x.w.core, x.w.slot, x.blk, x.pc.toNat, coreClock s x.w⟩

/-- The bytes of Table 6.6. -/
def recordBytes (kind cause fid lmask va : Nat) (who : Who) : List Byte :=
  leBytes 8 (who.slot * 2 ^ 48 + who.core * 2 ^ 40 + who.die * 2 ^ 32 + kind * 2 ^ 26 + cause * 2 ^ 16 + fid)
    ++ leBytes 8 lmask ++ leBytes 8 who.pc ++ leBytes 8 va ++ leBytes 8 who.block ++ leBytes 8 who.clk ++ leBytes 16 0

/-- A context's fault queue as the device reads it: none where it is unusable, else PROD and PROD − CONS. -/
def fqLook (s : State) (asid : Nat) : State × Option (Nat × Nat) :=
  let c := s.ctx asid
  if c.fqBase = 0 then (s, none)
  else
    match devRead s 0 c.fqBase 8 with
    | (s, d, cause, _) =>
      if cause ≠ 0 then (s, none)
      else
        let prod := leVal (d.take 4)
        let cons := leVal (d.drop 4)
        (s, some (prod, (prod + 2 ^ 32 - cons) % 2 ^ 32))
/-- Places of a context's fault queue that records of kind 0 on their way will take. -/
def placesKept (s : State) (asid : Nat) : Nat := (s.recq.filter (fun r => r.asid == asid && r.kind == 0)).length
/-- Append to a usable queue; answers whether the record was lost. A poisoned line at the record's slot makes the queue unusable (R151); a DROPS word that
cannot be read or written does not: the record that finds the queue full is dropped, with no count (entry 60: the model's choice). -/
def appendTo (s : State) (asid kind : Nat) (bytes : List Byte) : State × Bool :=
  match fqLook s asid with
  | (s, none) => (s, true)
  | (s, some (prod, fill)) =>
    let base := (s.ctx asid).fqBase
    if fill + placesKept s asid = 2 ^ (s.ctx asid).fqLog2 then
      if kind = 0 then (s, false)
      else
        match devRead s 0 (base + 8) 4 with
        | (s, d, c, _) => if c ≠ 0 then (s, false)
                          else ((devWrite s 0 (base + 8) (leBytes 4 (min (leVal d + 1) 0xFFFFFFFF))).1, false)
    else
      let at' := base + 64 + 64 * (prod % 2 ^ (s.ctx asid).fqLog2)
      match devRead s 0 at' 64 with
      | (s, _, c, _) =>
        if c ≠ 0 then (s, true)
        else match devWrite s 0 at' bytes with
          | (s, c, _) =>
            if c ≠ 0 then (s, true)
            else match devWrite s 0 base (leBytes 4 (prod + 1)) with
              | (s, c, _) => (s, c ≠ 0)
/-- Write a fault record; a lost one is reported to ASID 0's queue as 0x307 (R151). -/
def writeRec (s : State) (r : LateRec) : State :=
  match appendTo s r.asid r.kind r.bytes with
  | (s, false) => s
  | (s, true) => if r.asid = 0 then s else (appendTo s 0 2 r.lost).1
def mkRec (after : List Nat) (asid kind cause fid lmask va : Nat) (who : Who) : LateRec :=
  ⟨after, asid, kind, recordBytes kind cause fid lmask va who, recordBytes 2 0x307 0 0 asid who⟩
/-- A record of an event without an issuing wave. -/
def record (s : State) (asid kind cause fid lmask va : Nat) (who : Who) : State := writeRec s (mkRec [] asid kind cause fid lmask va who)
/-- The compute dies whose levee is raised. -/
def fencedDies (s : State) : List Nat := (List.range 18).filter (leveeUp s)
/-- A request of a slice or of the queue engine, to drop lines or records, reaches the fenced compute dies and is refused there: a record of kind 2 each,
cause 0x106 (R370; entry 56 gives its queue and VA). -/
def refuseDrops (s : State) : State := (fencedDies s).foldl (fun s d => record s 0 2 0x106 0 0 (d * 256) (whoNone s)) s
/-- A record about a wave is written once the stores that the wave has issued are performed (R284), but for operation `self`, which the event is
about. -/
def recordAfter (s : State) (uid self asid kind cause fid lmask va : Nat) (who : Who) : State :=
  let after := (opsOf s uid isStoreKind).filter (· != self)
  let q := mkRec after asid kind cause fid lmask va who
  if after.isEmpty then writeRec s q else { s with recq := s.recq ++ [q] }
/-- A RECORD OF A WAVE'S EVENT (R151, R284). -/
def recordOf (s : State) (r : WaveRef) (w : Wave) (self kind cause fid lmask va pc : Nat) : State :=
  recordAfter s w.uid self w.asid kind cause fid lmask va (whoWave s r w pc)
/-- A record of an operation's event: it names the wave that issued it. -/
def recordOp (s : State) (x : Op) (self kind cause va : Nat) : State := recordAfter s x.wuid self x.asid kind cause 0 0 va (whoOp s x)
/-- A record whose close is done: what it waits for is performed, or stands in a replay queue. -/
def recReady (s : State) (r : LateRec) : Bool :=
  r.after.all (fun o => match s.op o with | some x => x.performed || x.inRq | none => true)
/-- The records whose closes are done are written, in order. -/
def writeRecs (s : State) : State :=
  (s.recq.filter (recReady s)).foldl (fun s r => writeRec { s with recq := s.recq.erase r } r) s
/-- The lines that the access of an operation found with an uncorrectable error: kind 2, cause 0x104, in the context's queue, naming the wave
that issued it (R308). -/
def noteFlaws (s : State) (x : Op) (self : Nat) : State :=
  s.flawed.foldl (fun s f => recordAfter s x.wuid self f.1 2 0x104 0 0 (128 * f.2) (whoOp s x)) { s with flawed := [] }

/-- The lines that are to stay in their slices for the requests that have been checked and are still to be performed (R298). -/
def pinsOf (s : State) : List (Nat × Nat) :=
  (s.ops.flatMap (fun (y : Nat × Op) =>
    if y.2.space == .glob && !trailing s y.2 then (y.2.lanes.filter (fun l => l.chk && !l.fin && l.cause == 0)).map (fun l => (y.2.asid, lineOf l.addr))
    else [])).eraseDups
/-- The records of the step: those whose closes are done, one for each line that an engine found with an uncorrectable error (R308), and one
for each poisoned bucket that a walk met (R294): kind 2, cause 0x104, in ASID 0's queue. -/
def stepRecords (s : State) : State :=
  let s := writeRecs s
  let s := s.flawed.foldl (fun s f => record s f.1 2 0x104 0 0 (128 * f.2) (whoNone s)) { s with flawed := [] }
  s.walkBad.foldl (fun s va => record s 0 2 0x104 0 0 va (whoNone s)) { s with walkBad := [] }

/-! ### Ending a wave or a kernel (R180, Table 10.5) -/

/-- A wave's slot and rows are free from the next cycle on (R187). -/
def freeRows (s : State) (r : WaveRef) (w : Wave) : State :=
  { s with freed := s.freed ++ [⟨r.die, r.core, 0, 0, 0, 0, [], [(r.slot, w.rowBase, w.allot)]⟩] }
/-- A place's scratchpad, barrier slots and tiles are free from the next cycle on (R187). -/
def freeShare (s : State) (p : Place) (l : Launch) : State :=
  { s with freed := s.freed ++ [⟨p.die, p.core, p.spadBase, l.spad, p.barBase, l.bars, p.tiles, []⟩] }

/-- A store that will not be performed: its bytes leave the L1 of its core, whose lines go (R253). -/
def forgetStore (s : State) (x : Op) : State :=
  match x.kind, x.space with
  | .store _ _, .glob =>
    let c := s.coreOf x.w
    if x.told then s.setCoreOf x.w { c with l1 := c.l1.filter (fun l => !(l.asid == x.asid && x.lanes.any (fun z => !z.fin && lineOf z.addr == l.va))) }
    else s
  | _, _ => s
/-- Remove operations that will not be performed, with the registers they were to write and their twin entries. -/
def discardOps (s : State) (p : Nat → Op → Bool) : State :=
  let gone := s.ops.filter (fun (o : Nat × Op) => p o.1 o.2)
  let s := gone.foldl (fun s o => forgetStore s o.2) s
  let ids := gone.map (·.1)
  { s with
    ops := s.ops.filter (fun (o : Nat × Op) => !p o.1 o.2)
    twins := s.twins.filter (fun t => !ids.contains t.2.op)
    waves := s.waves.map (fun (w : WaveRef × Wave) => (w.1, { w.2 with pend := w.2.pend.filter (fun q => !(q.due.isNone && ids.contains q.op)) })) }

/-- Nothing is left that waits for the statuses of a wave's operations. -/
def tellAll (s : State) (uid : Nat) : State :=
  { s with ops := s.ops.map (fun (o : Nat × Op) => (o.1, if o.2.wuid == uid then { o.2 with told := true } else o.2)) }
/-- What is performed once it has left the core, though its wave is gone (R180): a store, atomic or reduction, and a pg.inval, which the stalled
copies of its pages wait for (Table 15.5). -/
def outlives : OpKind → Bool
  | .cmd (.pgInval _ _ _ _) => true
  | k => isStoreKind k
/-- Drop a wave and everything of it that has not left the core; what has is performed (R180). Its fragments return their permits. -/
def dropWave (s : State) (r : WaveRef) : State :=
  match s.wave r with
  | none => s
  | some w =>
    let s := freeRows s r w
    let c := s.coreOf r
    let s := s.setCoreOf r { c with
      frags := c.frags.map (fun f => (f.1, if f.2.wuid == w.uid then { f.2 with fstate := 0, permit := false, lanes := [] } else f.2))
      slices := c.slices.map (fun x => (x.1, if x.2.run.map (·.1) == some r.slot then { x.2 with run := none } else x.2)) }
    let s := tellAll (discardOps s (fun _ o => o.wuid == w.uid && (!o.left || o.twin == 1 || o.twin == 3 || !outlives o.kind))) w.uid
    { s with
      waves := tdel s.waves r
      mxs := s.mxs.filter (fun m => m.2.wuid != w.uid)
      copies := s.copies.map (fun (c : Nat × Copy) => if c.2.wuid == w.uid && c.2.st == .held then (c.1, { c.2 with st := .dropped }) else c)
      twins := s.twins.filter (fun t => !(t.2.block == w.block && t.2.waveId == w.waveId))
      watches := s.watches.filter (fun x => match x.2.target with | .split u => !decide (u.w = r) | .dep _ _ => true) }
/-! ### STATUS words (R140, R166) -/

def ctxCode : CtxSt → Nat
  | .free => 0
  | .building => 1
  | .ready => 2
  | .running => 3
  | .preempting => 4
  | .saved => 5
  | .draining => 6
  | .dead => 7
def queueCode : QueueSt → Nat
  | .closed => 0
  | .opened => 1
  | .paused => 2
  | .draining => 3
  | .faulted => 4
/-- The device writes a context's STATUS; SEQ rises by one. -/
def ctxStatus (s : State) (asid : Nat) : State :=
  if asid = 0 then s
  else
    let c := s.ctx asid
    let c := { c with seqn := (c.seqn + 1) % 2 ^ 32 }
    (devWrite (s.setCtx asid c) 0 c.recVa
      (leBytes 8 (c.seqn * 2 ^ 32 + c.result * 2 ^ 16 + c.lastCmd * 2 ^ 8 + ctxCode c.st))).1
/-- A queue's PEND, ACCEPTED, REJECTS and QPN words (Table 7.1). -/
def queueCounts (s : State) (q : Nat) : State :=
  let x := s.queue q
  let s := s.setQueue q { x with stale := false }
  (devWrite s 0 (x.recVa + 0x20)
    (leBytes 8 (x.pend.length * 2 ^ 32 + x.accepted) ++ leBytes 8 x.rejects ++ leBytes 8 x.qpn)).1
/-- The device writes a queue's STATUS, with its counts (R166). -/
def queueStatus (s : State) (q : Nat) : State :=
  let s := queueCounts s q
  let x := s.queue q
  let x := { x with seqn := (x.seqn + 1) % 2 ^ 32 }
  (devWrite (s.setQueue q x) 0 x.recVa
    (leBytes 8 (x.seqn * 2 ^ 32 + x.result * 2 ^ 16 + x.lastCmd * 2 ^ 8 + queueCode x.st))).1
/-- RUNNING with no wave resident and no block group in dispatch: READY (Table 6.2). The system context stays RUNNING (R137). -/
def ctxIdle (s : State) (asid : Nat) : State :=
  if asid ≠ 0 && (s.ctx asid).st == .running && s.waves.all (fun (w : WaveRef × Wave) => w.2.asid != asid)
      && s.kerns.all (fun (k : Nat × Kern) => !(k.2.asid == asid && k.2.st == .dispatching)) then
    ctxStatus (s.setCtx asid { s.ctx asid with st := .ready }) asid
  else s

/-- Macros that a block owns become EMPTY (R326, R331). -/
def emptyMacros (s : State) (b : Nat) : State :=
  { s with cores := s.cores.map (fun (c : (Nat × Nat) × Core) =>
      (c.1, { c.2 with macros := c.2.macros.filter (fun (m : Nat × Macro) => m.2.owner != b) })) }
/-- The waves that stand in core images. -/
def savedUids (s : State) (p : Image → Bool) : List Nat :=
  s.ctxs.flatMap (fun (c : Nat × Ctx) => (c.2.images.filter p).flatMap (fun i => i.waves.map (fun w => w.2.uid)))
/-- Drop a block with the waves of its copies; its copies are DROPPED and its matrix commands go (R325, R336). -/
def dropBlock (s : State) (b : Nat) : State :=
  let rs := (s.waves.filter (fun (x : WaveRef × Wave) => x.2.block == b)).map (·.1)
  let s := match (tfind s.blocks b).bind (fun x => (s.kern x.kernel).map (fun k => (x, k.l))) with
    | some (x, l) => (x.places.filter (fun p => !p.retired && !p.saved)).foldl (fun s p => freeShare s p l) s
    | none => s
  let s := rs.foldl dropWave s
  let saved := savedUids s (fun i => i.block == b)
  let s := discardOps s (fun _ o => saved.contains o.wuid)
  let s := emptyMacros s b
  { s with
    blocks := tdel s.blocks b
    ctxs := s.ctxs.map (fun (c : Nat × Ctx) => (c.1, { c.2 with images := c.2.images.filter (fun (i : Image) => i.block != b) }))
    mxs := s.mxs.filter (fun (m : Nat × MxCmd) => m.2.block != b)
    copies := s.copies.map (fun (c : Nat × Copy) =>
      if c.2.block == b && c.2.st != .done then (c.1, { c.2 with st := .dropped }) else c) }
/-- A launch leaves its queue's store; the dependences of a head go with it (R171). -/
def leaveQueue (s : State) (q k : Nat) : State :=
  let x := s.queue q
  let s := if x.pend.head? = some k then
      { s with watches := s.watches.filter (fun (w : Nat × Watch) => match w.2.target with | .split _ => true | .dep p _ => p != q) }
    else s
  s.setQueue q { x with
    pend := x.pend.filter (· != k)
    deps := if x.pend.head? = some k then [] else x.deps
    stale := x.stale || x.pend.contains k }
/-- An aborted kernel takes a STOPERR queue to FAULTED (R167); so does one that FLUSH aborts in an OPEN or PAUSED queue, where the rule's two rows
differ (entry 61: the model's choice). -/
def faultQueue (s : State) (q : Nat) : State :=
  let x := s.queue q
  if x.stopErr && (x.st == .opened || x.st == .paused) then queueStatus (s.setQueue q { x with st := .faulted }) q else s
/-- A kernel takes an abort event (Table 8.2): reason and cause make the error word; its waves stop and go. One that is aborted while PENDING has
left READY at no time, and its TSTART stays 0 (entry 45: the model's choice). -/
def abortKernel (s : State) (k reason cause : Nat) : State :=
  match s.kern k with
  | none => s
  | some x =>
    if x.st == .completing || x.st == .done || x.st == .aborted then s
    else
      let word : W32 := BitVec.ofNat 32 (2 ^ 31 + reason * 2 ^ 28 + cause)
      let s := s.updKern k (fun x => { x with st := .aborted, word := word, tstart := if x.st == .ready then s.ns else x.tstart, tend := s.ns, phase := 1 })
      let s := leaveQueue s x.l.queue k
      let s := ((s.blocks.filter (fun (b : Nat × Block) => b.2.kernel == k)).map (·.1)).foldl dropBlock s
      ctxIdle (faultQueue s x.l.queue) x.asid

/-! ### Abandoned mx operations (R336) -/

/-- The wave's accepted mx that have not committed leave the array, their shadows discarded; at a trap or at a forced save. -/
def abandonMx (s : State) (uid : Nat) (forced : Bool) : State :=
  { s with mxs := s.mxs.map (fun (m : Nat × MxCmd) =>
      if m.2.wuid == uid && m.2.st != .held then
        (match m.2.kind with
          | .mx _ _ _ _ _ _ => (m.1, { m.2 with st := .held, shadow := [], psn := false, units := [], saved := forced })
          | _ => m)
      else m) }
/-- One abandoned mx is accepted again: its place in the orders is that of its re-injection (R336). A load of one of its macros that was accepted
meanwhile comes before it, and it reads what that load brought (entry 69: the model's choice). -/
def reinjectOne (s : State) (r : WaveRef) (old : Nat) : State :=
  match tfind s.mxs old with
  | none => s
  | some m =>
    let id := s.nextId
    let ren := fun (l : List Nat) => l.map (fun n => if n = old then id else n)
    let renHold := fun (h : Hold) => match h with | .batch l => .batch (ren l) | h => h
    let s := { s with
      nextId := id + 1
      mxs := tdel s.mxs old ++ [(id, { m with w := r, st := .waiting, saved := false })]
      copies := s.copies.map (fun (c : Nat × Copy) => if c.2.follow = some old then (c.1, { c.2 with follow := some id }) else c) }
    s.updWave r (fun w => { w with
      splits := w.splits.map (fun (x : Split) => { x with hold := renHold x.hold, cw := { x.cw with mx := ren x.cw.mx } })
      openBatch := ren w.openBatch
      batches := w.batches.map (fun (b : Batch) => { b with cmds := ren b.cmds }) })
/-- The abandoned mx of a wave that a predicate picks. -/
def heldMx (s : State) (uid : Nat) (p : MxCmd → Bool) : List Nat :=
  (s.mxs.filter (fun (m : Nat × MxCmd) => m.2.wuid == uid && m.2.st == .held && p m.2)).map (·.1)
def reinjectMx (s : State) (r : WaveRef) (uid : Nat) (p : MxCmd → Bool) : State := (heldMx s uid p).foldl (fun s o => reinjectOne s r o) s
/-- Abandoned mx are dropped (tret with DISCARD). -/
def dropHeldMx (s : State) (uid : Nat) : State :=
  { s with mxs := s.mxs.filter (fun (m : Nat × MxCmd) => !(m.2.wuid == uid && m.2.st == .held)) }

/-! ### Wave-level traps (R146 to R150) -/

/-- Operations of a wave that the handler's entry waits for. -/
def drainWait (s : State) (uid : Nat) : Bool :=
  s.ops.any (fun (o : Nat × Op) => o.2.wuid == uid && !o.2.inRq && (o.2.fin || o.2.kind != .result))

def stCode : SplitSt → Nat
  | .runnable => 0
  | .waitMerge => 1
  | .waitBar _ _ _ _ => 2
  | .waitMap _ _ _ => 2
  | .waitWatch _ _ _ _ _ _ _ _ _ _ _ _ => 3
  | .sleep _ => 4
  | .settle _ => 5
  | .exited => 6
  | .unused => 7
def splitBytes (x : Split) : List Byte :=
  let m : Mask := if x.inUse then x.mask else 0
  leBytes 8 x.pc.toNat ++ leBytes 8 x.rpc.toNat ++ leBytes 8 (m.toNat + stCode x.st * 2 ^ 32 + x.age * 2 ^ 40)
/-- The frame of Table 6.4. -/
def frameBytes (s : State) (w : Wave) (t : TrapIn) : List Byte :=
  let rq := w.rq.take 8
  let q := rq.map (fun o => match s.op o with | some x => x.pc.toNat + x.word.toNat / 2 ^ 56 * 2 ^ 56 | none => 0)
  leBytes 8 t.pc.toNat ++ leBytes 8 t.hdr.toNat ++ leBytes 8 (rq.length * 2 ^ 20 + t.k * 2 ^ 16 + t.cause) ++ leBytes 8 t.info
    ++ (List.range 4).flatMap (fun k => splitBytes (w.split k))
    ++ (List.range 8).flatMap (fun i => leBytes 8 (lget 0 q i))
    ++ (List.range 4).flatMap (fun i => leBytes 4 (baseS w i).v.toNat) ++ leBytes 48 0
/-- The address of a wave's frame (R146, R148). -/
def frameAddr (s : State) (r : WaveRef) (w : Wave) : Nat :=
  (s.ctx w.asid).frameBase + 256 * (64 * (40 * s.lidOf r.die + r.core) + r.slot)

/-- A store that a core performs for itself: at the home slices, and into its L1 lines that are present. -/
def coreStoreNow (s : State) (d c asid va : Nat) (bs : List Byte) : State × Nat :=
  match devWrite s asid va bs with
  | (s, cause, _) =>
    if cause ≠ 0 then (s, cause)
    else
      let x := s.core d c
      let f := fun (ln : L1Line) =>
        if ln.asid == asid then
          { ln with data := (List.range 128).map (fun (j : Nat) =>
              if va ≤ ln.va * 128 + j ∧ ln.va * 128 + j < va + bs.length then bs.getD (ln.va * 128 + j - va) 0 else ln.data.getD j 0) }
        else ln
      (s.setCore d c { x with l1 := x.l1.map f }, 0)

/-- Stop a wave with a record of kind 1 and abort its kernel with reason 2 (R146, R149, R150). -/
def endKernel (s : State) (r : WaveRef) (w : Wave) (pc cause info trapCause : Nat) : State :=
  abortKernel (recordOf s r w 0 1 cause 0 0 info pc) w.kernel 2 trapCause

/-- Write the frame and start the handler (R146), once what has left the core is complete and the wave's fixed-latency results are written (R147); the
trap stands in the wave. A frame line that cannot be written, or is poisoned, ends the kernel (R150). HANDLER is a code address: its bits above
55 do not count (Table 10.1; entry 46). A replay that the trap interrupted is kept for the issue after tret (R220). -/
def enterHandler (s : State) (r : WaveRef) : State :=
  match s.wave r with
  | none => s
  | some w =>
    match w.trap with
    | none => s
    | some t =>
      if drainWait s w.uid || decide (s.cyc r.die < fixedTill w) then s
      else
        let w := settleWave (s.cyc r.die) w
        let f := frameAddr s r w
        match devRead s w.asid f 256 with
        | (s, _, c0, _) =>
          match (if c0 ≠ 0 then (s, c0) else coreStoreNow s r.die r.core w.asid f (frameBytes s w t)) with
          | (s, c) =>
            if c ≠ 0 then endKernel s r w t.pc.toNat 0x306 0 0x306
            else
              let h : Addr := BitVec.ofNat 56 (s.ctx w.asid).handler
              let sv := fun (w : Wave) (n x : Nat) => { w with s := tset w.s n ⟨BitVec.ofNat 32 x, false⟩ }
              let psn := (List.range 4).map (fun n => (baseS w n).psn)
              let w := sv (sv (sv (sv w 0 (f % 2 ^ 32)) 1 (f / 2 ^ 32)) 2 t.cause) 3 t.k
              let x := w.split t.k
              let w := { w with
                splits := w.splits.map (fun (y : Split) => { y with frozen := true })
                savedPsn := psn, savedRep := x.replay.map (fun c => (t.pc, c)), hmode := true, frame := f, hdepth := w.stack.length, trap := none }
              s.setWave r (w.setSplit t.k
                { x with pc := h, hdr := h, hdrw := none, recheck := false, st := .runnable, hold := .none, settle := none, frozen := false
                         replay := none })

/-- The operations of a wave that go to the replay queue when its issue stops (R146, R147). -/
def toReplay (s : State) (uid : Nat) : List Nat :=
  let out := (s.ops.filter (fun (o : Nat × Op) => o.2.wuid == uid && !o.2.performed && o.2.kind != .result
    && (o.2.left || !isCapturedKind o.2.kind))).foldl (fun m o => max m o.1) 0
  (s.ops.filter (fun (o : Nat × Op) => o.2.wuid == uid && !o.2.performed && !o.2.left && isCapturedKind o.2.kind && decide (out < o.1))).map (·.1)
/-- TAKING A WAVE-LEVEL TRAP (R146): cause and INFO, raised by a split with the frame PC and HDRPC. Issue stops, operations not yet
accepted outside the core go to the replay queue, a trap in handler mode is a double trap, no handler ends the kernel; the frame is
written as soon as what has left the core is complete. Operations leave the core in issue order, and a load, prefetch, close, open or
command that the replay queue does not hold completes with all before it (entry 21). -/
def takeTrap (s : State) (u : SplitRef) (pc hdr : Addr) (cause info : Nat) : State :=
  match s.wave u.w with
  | none => s
  | some w =>
    if w.hmode then endKernel s u.w w pc.toNat 0x305 cause 0x305
    else if (s.ctx w.asid).handler = 0 then endKernel s u.w w pc.toNat cause 0 cause
    else
      let rq := toReplay s w.uid
      let s := { s with ops := s.ops.map (fun (o : Nat × Op) => (o.1, if rq.contains o.1 then { o.2 with inRq := true } else o.2)) }
      let s := abandonMx (s.setWave u.w { w with trap := some ⟨u.k, pc, hdr, cause, info⟩, rq := w.rq ++ rq }) w.uid false
      enterHandler s u.w

/-! ### Issue of an instruction word -/

/-- What a meaning sees: the split, the wave as it stood at issue, the word, the execution set and the guard's poison. -/
structure Issue where
  u : SplitRef
  w : Wave
  sp : Split
  word : W64
  word1 : W64
  e : Mask
  gp : Mask
  /-- the captured operands where the issue is a replay with CAP = 1 (R220) -/
  cap : Option Capture
deriving DecidableEq, Repr

/-- Words in a clause (Table 2.2). -/
def clauseWords (h : W64) : Nat := (h.extractLsb' 56 4).toNat + 1
/-- The header that follows a clause. -/
def nextHeader (x : Split) : Addr := x.hdr + BitVec.ofNat 56 (8 * (clauseWords (x.hdrw.getD 0) + 1))
/-- Where execution goes after n words: PC, and whether it is the next header. -/
def wordAfter (x : Split) (n : Nat) : Addr × Bool :=
  let p := x.pc + BitVec.ofNat 56 (8 * n)
  if (p - x.hdr).toNat ≤ 8 * clauseWords (x.hdrw.getD 0) then (p, false) else (nextHeader x, true)
/-- The split past the issued words; at the end of the clause it stands at the next header, not yet arrived. -/
def advanceSplit (now n : Nat) (x : Split) : Split :=
  let p := wordAfter x n
  let x := { x with pc := p.1, last := now + 1, replay := none, bo := 128 }
  if p.2 then { x with hdr := p.1, hdrw := none, recheck := false } else x
def State.advance (s : State) (u : SplitRef) (n : Nat) : State := s.updSplit u (advanceSplit (s.cyc u.w.die) n)

/-- A trap of the issuing instruction: the split stands where it stood, nothing else has changed (R14). -/
def trapIs (s : State) (i : Issue) (cause info : Nat) : State :=
  takeTrap (s.updSplit i.u (fun _ => i.sp)) i.u i.sp.pc i.sp.hdr cause info

/-- A split that is runnable at a header it has not entered arrives there (R211). -/
def arriveIf (s : State) (u : SplitRef) : State :=
  s.updWave u.w (fun w =>
    let x := w.split u.k
    if x.st == .runnable && x.pc == x.hdr && x.hdrw.isNone then arrive w u.k x.hdr else w)

/-- The settle bit (R43): the split issues nothing until the fixed-latency results are written; where it is in a wait state, what is
left of that time follows the wait. -/
def applySettle (s : State) (u : SplitRef) (c : Cm) : State :=
  if !c.s then s
  else s.updWave u.w (fun w =>
    let x := w.split u.k
    if w.ilk || w.trap.isSome || !x.inUse then w
    else w.setSplit u.k { x with settle := some (fixedTill w), st := if x.st == .runnable then .settle (fixedTill w) else x.st })
/-- A settle point of the wave (R45): a wait, WL or S has completed. -/
def settlePoint (s : State) (r : WaveRef) : State := s.updWave r (fun w => settleWave (s.cyc r.die) w)

def isPriv : Instr → Bool
  | .pgInvalPage _ _ _ _ => true
  | .pgInvalAsid _ _ _ => true
  | .pgInvalAll _ _ => true
  | .psyswCreate _ _ _ _ => true
  | .psyswPreempt _ _ _ _ => true
  | .psyswRestore _ _ _ _ => true
  | .psyswDestroy _ _ _ _ => true
  | .psyswSetdl _ _ _ _ => true
  | .qctlOpen _ _ _ _ => true
  | .qctlPause _ _ _ _ => true
  | .qctlResume _ _ _ _ => true
  | .qctlDrain _ _ _ _ => true
  | .qctlFlush _ _ _ _ => true
  | _ => false

/-- The frame of an issue. -/
def issueOf (s : State) (c : Cm) (cu : Cur) (w : Wave) : Issue :=
  let sp := w.split cu.u.k
  match sp.replay with
  | some (some cp) => ⟨cu.u, w, sp, cu.word, cu.word1, sp.mask, 0, some cp⟩
  | _ => ⟨cu.u, w, sp, cu.word, cu.word1, guardSet s w c sp.mask, guardPoison s w c sp.mask, none⟩

/-- After the body: the settle bit, arrival at the next header, merges and offered entries. -/
def finishIssue (s : State) (u : SplitRef) (c : Cm) : State := tidy (arriveIf (applySettle s u c) u) u.w

/-- ONE ISSUE (R36, R40, R42, R61 checks 5 and 8, R48): a body answers the state after the instruction, or none where the
instruction stalls at issue; the body gets the state with the split already past the word. A replay with CAP = 1 makes check 8 and the interlocked wait
for an index register afresh, for operands that stand captured too (entry 67: the model's choice). -/
def issueOp (s : State) (i : Instr) (c : Cm) (n : Nat) (body : State → Issue → Option State) : Host.Outcome State Fault Refusal :=
  match s.cur with
  | none => .next s
  | some cu =>
    match s.wave cu.u.w with
    | none => .next s
    | some w =>
      let is := issueOf s c cu w
      if isPriv i && w.asid != 0 then .next (trapIs s is 0x010 0)
      else if idxHazard s w (refsOf i) then .next s
      else if boundsBad s w (refsOf i) then .next (trapIs s is 0x003 0)
      else if is.cap.isNone && hazard s w c (refsOf i) then .next s
      else match body (s.advance cu.u n) is with
        | none => .next s
        | some t => .next (finishIssue t cu.u c)
/-- The common case: one word, never stalls. -/
def issue1 (s : State) (i : Instr) (c : Cm) (body : State → Issue → State) : Host.Outcome State Fault Refusal :=
  issueOp s i c 1 (fun s is => some (body s is))
/-- Split-scalar (R41): once if E is not empty. -/
def issueS (s : State) (i : Instr) (c : Cm) (body : State → Issue → State) : Host.Outcome State Fault Refusal :=
  issue1 s i c (fun s is => if is.e = 0 then s else body s is)

/-! ### Return from the handler -/

/-- A split at rest behind an operation goes past its word: the instruction is complete, or has been dropped. -/
def goPast (s : State) (u : SplitRef) : State :=
  arriveIf (s.updSplit u (fun x => { advanceSplit (s.cyc u.w.die) 1 x with hold := .none, last := x.last })) u
/-- A split whose instruction was dropped from the replay queue goes past it. -/
def releaseDropped (s : State) (r : WaveRef) (rq : List Nat) : State :=
  (List.range 4).foldl (fun s k =>
    match (s.split ⟨r, k⟩).hold with
    | .access o => if rq.contains o then goPast s ⟨r, k⟩ else s
    | .op o => if rq.contains o then goPast s ⟨r, k⟩ else s
    | _ => s) s
/-- RETURN FROM THE HANDLER (R160): the frame's PC, HDRPC, DISCARD and SAVEDS are read back, s0 to s3 with their poison (R257); the
replay queue is re-injected or dropped; the split resumes, and every other split with it, each evaluating its clause's waits again
(R37); a fragment's replay that the trap interrupted is made now where the frame's PC is still its word (R220). A frame that cannot be read is a fault in handler mode (R149); for a PC or HDRPC that is no multiple of 8 its INFO is 0x105, and their bits above 55 are dropped (entry 46: the
model's choices, as that a word which the handler stored to SAVEDS keeps the poison saved with the register). -/
def trapReturn (s : State) (u : SplitRef) : State :=
  match s.wave u.w with
  | none => s
  | some w =>
    match devRead s w.asid w.frame 256 with
    | (s, d, c, _) =>
      let q := fun i => leVal ((d.drop (8 * i)).take 8)
      let pc := q 0
      let hpc := q 1
      if c ≠ 0 then endKernel s u.w w (w.split u.k).pc.toNat 0x305 c 0x305
      else if pc % 8 ≠ 0 ∨ hpc % 8 ≠ 0 then endKernel s u.w w (w.split u.k).pc.toNat 0x305 0x105 0x305
      else
        let drop := (q 2).testBit 32
        let rq := w.rq
        let s := if drop then releaseDropped (discardOps s (fun o _ => rq.contains o)) u.w rq
                 else { s with ops := s.ops.map (fun (o : Nat × Op) => (o.1, if rq.contains o.1 then { o.2 with inRq := false } else o.2)) }
        let pca : Addr := BitVec.ofNat 56 pc
        let hda : Addr := BitVec.ofNat 56 hpc
        let s := s.updWave u.w (fun w => { w with
          hmode := false, rq := [], savedRep := none
          splits := w.splits.map (fun (y : Split) => { y with frozen := false, recheck := y.recheck || (y.inUse && y.hdrw.isSome && decide (y.pc ≠ y.hdr)) }) })
        let s := (List.range 4).foldl (fun s i =>
          writeS s u.w i ⟨BitVec.ofNat 32 (leVal ((d.drop (0xC0 + 4 * i)).take 4)), lget false w.savedPsn i⟩ 0) s
        let s := s.updSplit u (fun x => { x with
          pc := pca, hdr := hda, hdrw := none, recheck := decide (pca ≠ hda), st := .runnable
          replay := w.savedRep.bind (fun r => if r.1 = pca then some r.2 else none) })
        let s := arriveIf s u
        if drop then dropHeldMx s w.uid else reinjectMx s u.w w.uid (fun _ => true)

/-! ### Lane faults (R219, R152) -/

/-- Trap permits that a core's fragments hold (R152). -/
def permitsHeld (c : Core) : Nat := (c.frags.filter (fun (f : Nat × Frag) => f.2.permit)).length
/-- A permit is free and the context's fault queue takes a record of kind 0. -/
def canPark (s : State) (r : WaveRef) (asid : Nat) : State × Bool :=
  match fqLook s asid with
  | (s, x) =>
    (s, decide (permitsHeld (s.coreOf r) < 4)
      && (match x with
        | some (_, fill) => fill + placesKept s asid != 2 ^ (s.ctx asid).fqLog2
        | none => true))

/-- The cause and address of the lowest faulting lane. -/
def firstFault (ls : List LaneA) : Nat × Nat :=
  match ls.find? (fun l => l.cause ≠ 0) with
  | some l => (l.cause, l.addr)
  | none => (0, 0)

/-- How parking ended. -/
inductive Parked where
  | yes (s : State)
  /-- the state already stands after a double trap, trap 0x302 or the start of a back-off -/
  | no (s : State)

/-- Park the lanes with a cause as one fragment of the split whose state before the instruction is `sp` (R219): double trap, trap
0x302, back-off, or the fragment with its record and permit; the lanes leave the split. -/
def parkLanes (s : State) (u : SplitRef) (sp : Split) (word : W64) (cap : Bool) (ls : List LaneA) (self : Nat) : Parked :=
  match s.wave u.w with
  | none => .no s
  | some w =>
    let fs := ls.filter (fun l => l.cause ≠ 0)
    let fm := maskOf (fun i => fs.any (fun l => l.lane == i))
    let c := s.coreOf u.w
    let (cause, va) := firstFault fs
    if w.hmode then .no (endKernel s u.w w sp.pc.toNat 0x305 cause 0x305)
    else match (List.range 32).find? (fun i => (tget Frag.fresh c.frags i).fstate == 0) with
      | none => .no (takeTrap (s.updSplit u (fun _ => sp)) u sp.pc sp.hdr 0x302 0)
      | some idx =>
        match canPark s u.w w.asid with
        | (s, false) =>
          .no (s.updSplit u (fun _ => { sp with hold := .backoff (s.cyc u.w.die + sp.bo), bo := min (2 * sp.bo) 4096 }))
        | (s, true) =>
          let old := tget Frag.fresh c.frags idx
          let gen := if old.gen = 2047 then 1 else old.gen + 1
          let blk := ((tfind s.blocks w.block).map (·.idx)).getD 0
          let f : Frag := ⟨gen, 1, w.asid, u.w.slot, w.uid, cap, fm, word.toNat / 2 ^ 56, sp.pc, sp.hdr, sp.rpc, blk, fs, true, 0⟩
          let s := recordOf s u.w w self 0 cause (gen * 32 + idx) fm.toNat (if cap then va else 0) sp.pc.toNat
          let c := s.coreOf u.w
          let s := s.setCoreOf u.w { c with frags := tset c.frags idx f }
          .yes (s.updWave u.w (fun w =>
            let x := w.split u.k
            let m := x.mask &&& ~~~fm
            if m = 0 then w.freeSplit u.k .unused else w.setSplit u.k { x with mask := m }))

/-- LaneFault, then the rest (R14): with no faulting lane, or once the faulting lanes are parked, `k` runs with them taken out
of E; otherwise the instruction has no effect in any lane. -/
def faultThen (s : State) (i : Issue) (cap : Bool) (ls : List LaneA) (k : State → Issue → State) : State :=
  if ls.all (fun l => l.cause == 0) then k s i
  else match parkLanes s i.u i.sp i.word cap ls 0 with
    | .no s => s
    | .yes s =>
      let fm := maskOf (fun j => ls.any (fun l => l.lane == j && l.cause != 0))
      k s { i with e := i.e &&& ~~~fm }

/-- A lane with a cause and nothing captured (CAP = 0). -/
def bareLane (cause l : Nat) : LaneA := ⟨l, 0, 0, 0, false, false, false, true, true, cause, 0, false⟩
/-- Fault the lanes of a mask with one cause, CAP = 0. -/
def faultMask (m : Mask) (cause : Nat) : List LaneA := (lanes m).map (bareLane cause)
/-- Fault all of E if an operand is poisoned, else run the rest. -/
def poisonGate (s : State) (i : Issue) (bad : Bool) (k : State → Issue → State) : State :=
  if bad then faultThen s i false (faultMask i.e 0x104) (fun s _ => s) else k s i

/-- Park the lanes of a whole split before any word issued: the header or word at an address could not be fetched, and is the replay point
(R39, R220). Where they cannot be parked the split stays where it is. -/
def fetchFault (s : State) (u : SplitRef) (at' : Addr) (cause : Nat) : State :=
  match s.wave u.w with
  | none => s
  | some w =>
    let x := w.split u.k
    let park := fun sp => parkLanes s u sp 0 false (faultMask x.mask cause) 0
    match park { x with pc := at' } with
    | .yes s => tidy s u.w
    | .no _ => match park x with
      | .yes s => s
      | .no s => s

/-! ### Division (R207) -/

/-- Lane sets by destination, ordered by their lowest lane. -/
def laneSets : List (Nat × Addr) → List (Mask × Addr)
  | [] => []
  | (l, a) :: t =>
    let rest := laneSets t
    let mine := maskOf (fun i => i == l || (rest.any (fun x => x.2 == a && x.1.getLsbD i)))
    (mine, a) :: rest.filter (fun x => x.2 != a)

/-- Divide the split into its lane sets with a reconvergence PC. The new splits arrive at once (R211), the issuing one after the
instruction's S (`finishIssue`). One set keeps the split's RPC (R207), that of a ret too, of which R217 says that each set takes RPC none (entry 62: the
model's choice). -/
def divide (s : State) (i : Issue) (dests : List (Nat × Addr)) (rpc : W64) : State :=
  match laneSets dests with
  | [] => s
  | [(_, a)] => s.updSplit i.u (fun x => { x with st := .runnable, pc := a, hdr := a, hdrw := none, recheck := false })
  | (m0, a0) :: t =>
    match s.wave i.u.w with
    | none => s
    | some w =>
      let f := (w.splits.filter (fun x => !x.inUse)).length
      let now := t.take f
      let later := t.drop f
      let w := w.setSplit i.u.k { w.split i.u.k with mask := m0, rpc := rpc, pc := a0, hdr := a0, hdrw := none, recheck := false }
      let w := now.foldl (fun w x => w.newSplit { Split.free with pc := x.2, hdr := x.2, rpc := rpc, mask := x.1, st := .runnable, frozen := false }) w
      let w := { w with
        stack := later.map (fun x => ⟨x.1, x.2, rpc⟩) ++ w.stack
        splovf := BitVec.ofNat 32 (min (w.splovf.toNat + later.length) 0xFFFFFFFF) }
      let w := (List.range 4).foldl (fun w k =>
        if k ≠ i.u.k && (w.split k).inUse && now.any (fun x => x.1 == (w.split k).mask) then arrive w k (w.split k).pc else w) w
      s.setWave i.u.w w
/-- The sets need more places than there are (trap 0x304). -/
def divideBad (s : State) (i : Issue) (dests : List (Nat × Addr)) : Bool :=
  match s.wave i.u.w with
  | none => false
  | some w => decide ((w.splits.filter (fun x => !x.inUse)).length + (16 - w.stack.length) < (laneSets dests).length - 1)

/-- A transfer: lanes that fault park (after the check for 0x304), the others divide. -/
def transfer (s : State) (i : Issue) (faults : List LaneA) (dest : Nat → Addr) (rpc : W64) (pre : State → Issue → State) : State :=
  let fm := maskOf (fun j => faults.any (fun l => l.lane == j && l.cause != 0))
  let m := i.sp.mask &&& ~~~fm
  let dests := (lanes m).map (fun l => (l, dest l))
  if divideBad s i dests then trapIs s i 0x304 0
  else faultThen s i false faults (fun s j => divide (pre s j) j dests rpc)

end Sys2Proof.Machine
end

