-- ==== Sys2Proof/Machine/Fetch.lean ====
section
/-! DEFINITION. Code fetch, clause entry and its waits (R33 to R39), which split a slice issues next (R204 to R206), and the checks
of a word before its meaning (R61). -/

namespace Sys2Proof.Machine

/-- The values a code word has had in reads made since the kernel's launch (R39). -/
def oldWords (s : State) (k : Nat) (pc : Addr) : List W64 :=
  match s.kern k with
  | some y => (y.oldCode.filter (fun p => p.1 == pc)).map (·.2)
  | none => []
/-- One header or word as a slice fetches it: the value, or the cause. A word written during the kernel's run may have its old value,
where a read since the launch found it (R39). -/
def fetchWord (s : State) (w : Wave) (pc : Addr) : State × W64 × Nat :=
  match homeLoad s w.asid pc.toNat 8 .fetch with
  | (s, d, psn, c) =>
    let v := BitVec.ofNat 64 (leVal d)
    (s, pick s pc.toNat v (v :: oldWords s w.kernel pc), if c ≠ 0 then c else if psn then 0x104 else 0)
/-- A slice reads a code word ahead of its fetch; a read that fails leaves nothing (R39). -/
def codeRead (s : State) (k : Nat) (pc : Addr) : State :=
  match s.kern k with
  | none => s
  | some y => match homeLoad s y.asid pc.toNat 8 .fetch with
    | (t, d, psn, c) => if c ≠ 0 ∨ psn = true ∨ pc.toNat % 8 ≠ 0 then s
                        else t.updKern k (fun y => { y with oldCode := (pc, BitVec.ofNat 64 (leVal d)) :: y.oldCode })

/-- Class of an opcode: 0 ALU, 1 MEM, 2 ENGINE, 3 CTRL; nop fits every clause (Table 2.14). -/
def classOf (op : Nat) : Nat :=
  if op < 0x20 then 3
  else if op < 0x90 then 0
  else if op < 0xB0 then 1
  else if op < 0xC0 then 3
  else if op ≤ 0xE0 then 2
  else if op = 0xE2 then 0
  else if op = 0xE4 then 1
  else 3
def fitsClause (h : W64) (op : Nat) : Bool :=
  let c := (h.extractLsb' 60 4).toNat
  op == 0 || c == 3 || classOf op == c
/-- The transfer instructions (R35). -/
def isTransfer (op : Nat) : Bool := (decide (1 ≤ op) && decide (op ≤ 7)) || op == 0x0F

/-- Checks 1 and 2 of Table 2.15. -/
def headerCause (h : W64) : Nat :=
  if 4 ≤ (h.extractLsb' 60 4).toNat then 0x004
  else if h.extractLsb' 0 47 ≠ 0 ∨ (!h.getLsbD 53 ∧ h.extractLsb' 48 5 ≠ 0) then 0x002
  else 0

/-! ### Clause waits (R38) -/

/-- An operation has been accepted: nothing it waits for is unfinished. -/
def finished (s : State) (o : Nat) : Bool :=
  match s.op o with
  | some x => x.performed
  | none => true
def accepted (s : State) (x : Op) : Bool := x.after.all (finished s)
/-- A store performed into L1, as far as its core sees it (R253): its statuses are merged, and nothing it waits for is unfinished. A seal or unseal is
at its channel alone: what waits for it waits until it has taken effect (R301, R302). -/
def inL1 (s : State) (x : Op) : Bool :=
  x.space == .glob && x.told && accepted s x && x.twin != 1 && x.kind != .seal && x.kind != .unseal
/-- What a close at a scope waits for in a store (R279): that it is performed; at `.blk` a store into L1 is, but for one that a twin's match is still
to perform (R354). -/
def closedAt (s : State) (scp o : Nat) : Bool :=
  match s.op o with
  | some x => x.performed || (scp == 1 && x.twin == 0 && inL1 s x)
  | none => true
/-- Nothing that an operation waits for is left: a close keeps its scope in `reg`. -/
def waitOver (s : State) (x : Op) : Bool := x.after.all (closedAt s (if x.kind == .close then x.reg else 4))
/-- The stores named are performed into L1, their own or a peer scratchpad (WS). -/
def storesIn (s : State) (os : List Nat) : Bool :=
  os.all (fun o => match s.op o with | some x => x.performed || inL1 s x | none => true)
/-- The register results of the operations named are written (WL). -/
def resultsIn (w : Wave) (os : List Nat) : Bool := w.pend.all (fun p => p.due.isSome || p.done || !os.contains p.op)
/-- A matrix command has finished. -/
def mxFinished (s : State) (c : Nat) : Bool :=
  match tfind s.mxs c with
  | some x => x.st == .finished
  | none => true
/-- The commands that a wait for batch n is about (R339): none where n is not closed or has finished, else those of n and of every
batch closed before it. -/
def batchCmds (s : State) (w : Wave) (n : Nat) : List Nat :=
  match w.batches.findIdx? (fun b => b.num == n) with
  | none => []
  | some i =>
    if ((w.batches.drop i).take 1).all (fun b => b.cmds.all (mxFinished s)) then []
    else ((w.batches.take (i + 1)).flatMap (·.cmds)).filter (fun c => !mxFinished s c)
/-- A command on its way to its sluice: a rec.fence that is not done (R311), but for a trailing copy's. -/
def isFence (o : Op) : Bool := (match o.kind with | .cmd (.recFence _) => true | _ => false) && o.twin != 3
/-- Commands of a core in the sluice's queue (R311): a core has four credits. -/
def queuedBy (s : State) (d c : Nat) : Nat :=
  (s.copies.filter (fun (x : Nat × Copy) => x.2.w.die == d && x.2.w.core == c
    && (x.2.st == .queued || (x.2.st == .held && x.2.peer.isNone)))).length
  + (s.ops.filter (fun (x : Nat × Op) => isFence x.2 && x.2.w.die == d && x.2.w.core == c)).length
/-- A copy stands in a core image: the block whose wave issued it is saved, and the copy holds no entry of its sluice (Table 15.5). -/
def copySaved (s : State) (x : Copy) : Bool := (s.place x.block x.bcopy).any (fun p => p.saved)
/-- The block copies that a copy reads, writes or tells. -/
def copyBlocks (x : Copy) : List (Nat × Nat) :=
  let of := fun (e : End) => match e with
    | .spad b cp _ => [(b, cp)]
    | .glob _ => []
  ((x.tblock, x.tcopy) :: x.accs.flatMap (fun a => of a.dst ++ (match a.src with | some e => of e | none => []))).eraseDups
/-- A sluice has a free entry of its 16 and the core a credit: commands on their way, QUEUED and STALLED copies hold an entry (R311; entry 30). -/
def sluiceRoom (s : State) (d c : Nat) : Bool :=
  let stalled := (s.copies.filter (fun (x : Nat × Copy) => x.2.die == d && x.2.cluster == c / 4 && x.2.st == .stalled && !copySaved s x.2)).length
  decide (queuedBy s d c < 4)
    && decide (((List.range 4).map (fun i => queuedBy s d (4 * (c / 4) + i))).foldl (· + ·) stalled < 16)
/-- The wave's outstanding work as a split enters a clause with header h (R38). -/
def clauseWork (s : State) (w : Wave) (h : W64) : ClauseWork :=
  ⟨((w.pend.filter (fun p => p.due.isNone && !p.done)).map (·.op)).eraseDups, opsOf s w.uid isStoreKind,
    if h.getLsbD 53 then batchCmds s w (h.extractLsb' 48 5).toNat else []⟩
/-- The waits a header requests are satisfied (R38), for the work outstanding as the split entered the clause; an interlocked wave ignores
them (R48). -/
def clauseReady (s : State) (r : WaveRef) (w : Wave) (cw : ClauseWork) (h : W64) : Bool :=
  w.ilk ||
    ((!h.getLsbD 55 || resultsIn w cw.res) && (!h.getLsbD 54 || storesIn s cw.stores)
      && (!h.getLsbD 53 || cw.mx.all (mxFinished s)) && (!h.getLsbD 47 || decide (queuedBy s r.die r.core < 4)))
/-- A header requests some wait. -/
def headerWaits (h : W64) : Bool := h.getLsbD 55 || h.getLsbD 54 || h.getLsbD 53 || h.getLsbD 47

/-- The slice runs a split's clause. -/
def setRun (s : State) (u : SplitRef) : State :=
  let c := s.coreOf u.w
  let sl := sliceOfSlot u.w.slot
  let x := tget SliceSt.fresh c.slices sl
  s.setCoreOf u.w { c with slices := tset c.slices sl { x with run := some (u.w.slot, u.k), lastSlot := u.w.slot % 16 } }
def stopRun (s : State) (d c sl : Nat) : State :=
  let x := s.core d c
  s.setCore d c { x with slices := tupd x.slices sl (fun y => { y with run := none }) }

/-- The waits of a clause are satisfied: the split may issue, from the first word unless it resumes inside the clause (R37); the waits
are a settle point (R45). -/
def releaseClause (s : State) (u : SplitRef) (h : W64) : State :=
  s.updWave u.w (fun w =>
    let w := if headerWaits h && !w.ilk then settleWave (s.cyc u.w.die) w else w
    let x := w.split u.k
    w.setSplit u.k { x with pc := if x.pc = x.hdr then x.hdr + 8 else x.pc, hdrw := some h, recheck := false, hold := .none })

/-- The split is in SETTLE and its results are written (R43). -/
def settleOver (s : State) (r : WaveRef) (x : Split) : Bool :=
  match x.st with
  | .settle t => decide (t ≤ s.cyc r.die)
  | _ => false
/-- What a split's clause, its mx.wait, its back-off or its S waits for is done. -/
def holdOver (s : State) (r : WaveRef) (w : Wave) (x : Split) : Bool :=
  match x.hold with
  | .batch cs => cs.all (mxFinished s)
  | .clause => clauseReady s r w x.cw (x.hdrw.getD 0)
  | .backoff t => decide (t ≤ s.cyc r.die)
  | .none => settleOver s r x
  | _ => false
/-- The S of a split is over: a settle point of the wave (R43, R45). -/
def releaseSettle (s : State) (u : SplitRef) : State :=
  tidy (arriveIf (s.updWave u.w (fun w =>
    let w := settleWave (s.cyc u.w.die) w
    w.setSplit u.k { w.split u.k with st := .runnable, settle := none })) u) u.w
/-- The split goes on: past its mx.wait (R339), which is a settle point (R45), into its clause, or from its back-off (R152) or its S (R43). -/
def releaseHold (s : State) (u : SplitRef) : State :=
  let x := s.split u
  match x.hold with
  | .batch _ => tidy (goPast (settlePoint s u.w) u) u.w
  | .backoff _ => s.updSplit u (fun x => { x with hold := .none })
  | .none => releaseSettle s u
  | _ => releaseClause s u (x.hdrw.getD 0)

/-- CLAUSE ENTRY (R36): the header is fetched, checked unless the split resumes inside the clause (R37), and its waits evaluated for the
work outstanding now (R38). -/
def enterClause (s : State) (u : SplitRef) : State :=
  match s.wave u.w with
  | none => s
  | some w =>
    let x := w.split u.k
    match fetchWord s w x.hdr with
    | (s, h, c) =>
      if c ≠ 0 then fetchFault s u x.hdr c
      else
        let bad := if x.recheck then 0 else headerCause h
        let cw := clauseWork s w h
        if bad ≠ 0 then takeTrap s u x.hdr x.hdr bad 0
        else if clauseReady s u.w w cw h then setRun (releaseClause s u h) u
        else s.updSplit u (fun x => { x with hdrw := some h, hold := .clause, cw := cw })

/-! ### Which split issues (R204, R205) -/

/-- A split that may issue now, or go on to its next word. -/
def canIssue (s : State) (w : Wave) (x : Split) : Bool :=
  x.st == .runnable && x.hold == .none && !x.frozen && w.trap.isNone && !w.stopped
    && !((s.ctx w.asid).st == .saved || (s.ctx w.asid).st == .dead || (s.ctx w.asid).st == .draining)
/-- A split that the slice may choose (R204, R205): it may issue, or once its clause's waits, its mx.wait, its back-off or its S are over or its
core has opened. -/
def canGo (s : State) (r : WaveRef) (w : Wave) (x : Split) : Bool :=
  canIssue s w { x with hold := .none, st := if settleOver s r x then .runnable else x.st } && (match x.hold with
    | .none => true
    | .replay => true
    | _ => holdOver s r w x)
/-- The split of a wave whose last issue lies furthest back, ties to the lowest AGE. -/
def nextSplit (s : State) (r : WaveRef) (w : Wave) : Option Nat :=
  ((List.range 4).filter (fun k => canGo s r w (w.split k))).foldl
    (fun b k => match b with
      | none => some k
      | some j =>
        let x := w.split j
        let y := w.split k
        if y.last < x.last ∨ (y.last = x.last ∧ y.age < x.age) then some k else b) none
/-- Round-robin over the slots of a slice, starting after the one chosen last. -/
def nextOfSlice (s : State) (d c sl : Nat) : Option SplitRef :=
  let last := (tget SliceSt.fresh (s.core d c).slices sl).lastSlot
  (List.range 16).findSome? (fun i =>
    let slot := 16 * sl + (last + 1 + i) % 16
    let r : WaveRef := ⟨d, c, slot⟩
    match s.wave r with
    | none => none
    | some w => (nextSplit s r w).map (fun k => ⟨r, k⟩))

/-- The two words at a split's PC, checks 3 to 8 of Table 2.15 that need no register, and the instruction. -/
inductive Fetched where
  /-- the state already stands after a fault or a trap -/
  | gone (s : State)
  | go (s : State) (cu : Cur) (i : Instr)

def errCause : DecErr → Nat
  | .badOp => 0x001
  | .badFunc => 0x001
  | .reserved => 0x002
  | .bounds => 0x003
  | .placement => 0x004

/-- Whether a word needs the word after it (brm, cp.tile.then). -/
def twoWords (w : W64) : Bool := fOp w == 0x02 || (fOp w == 0xC0 && w.getLsbD 0)
/-- Placement (R35): words after this one in its clause are `left`. -/
def placementBad (w w1 : W64) (left : Nat) : Bool :=
  let op := (fOp w).toNat
  if op = 2 then left != 1
  else if isTransfer op then left != 0
  else if fOp w == 0xC0 && w.getLsbD 0 then left == 0 || !(fOp w1 == 0xD0 || fOp w1 == 0xD1)
  else false

/-- THE FETCH OF A WORD and its checks (R39, R61). The spec does not say where the fetch of the word after brm or cp.tile.then stands among the
checks of word 0: here its fault comes after checks 3 and 4 and before checks 5 to 8 (entry 57: the model's choice). -/
def fetchInstr (s : State) (u : SplitRef) : Fetched :=
  match s.wave u.w with
  | none => .gone s
  | some w =>
    let x := w.split u.k
    let h := x.hdrw.getD 0
    match fetchWord s w x.pc with
    | (s, w0, c) =>
      if c ≠ 0 then .gone (fetchFault s u x.pc c)
      else
        let left := clauseWords h - ((x.pc - x.hdr).toNat / 8)
        match (if twoWords w0 && left != 0 then fetchWord s w (x.pc + 8) else (s, 0, 0)) with
        | (s, w1, c) =>
          let op := (fOp w0).toNat
          let trap := fun cause => Fetched.gone (takeTrap s u x.pc x.hdr cause 0)
          if (decRow op (decCm w0) w0 none).isNone then trap 0x001
          else if !fitsClause h op || placementBad w0 (if c ≠ 0 then 0xD000000000000000 else w1) left then trap 0x004
          else if c ≠ 0 then .gone (fetchFault s u x.pc c)
          else if 0xF0 ≤ op && w.asid != 0 then trap 0x010
          else match decode w0 (some w1) with
            | .error e => trap (errCause e)
            | .ok i => .go s ⟨u, w0, w1⟩ i

/-- After an issue: the clause's run ends where the split left the clause or cannot go on (R36). -/
def afterIssue (s : State) (u : SplitRef) : State :=
  let s := { s with cur := none }
  match s.wave u.w with
  | none => stopRun s u.w.die u.w.core (sliceOfSlot u.w.slot)
  | some w =>
    let x := w.split u.k
    let settling := match x.st with | .settle _ => true | _ => false
    if x.hdrw.isSome && w.trap.isNone && (settling || (x.st == .runnable && x.hold == .none)) then s
    else stopRun s u.w.die u.w.core (sliceOfSlot u.w.slot)

/-- What a slice does in a cycle: enter a clause, go on into one whose waits are satisfied, open for a fragment's replay, issue the next
word of its clause, or nothing. -/
inductive SliceAct where
  | none
  | enter (u : SplitRef)
  | release (u : SplitRef)
  | replay (u : SplitRef)
  | word (u : SplitRef)
deriving DecidableEq, Repr

def sliceAct (s : State) (d c sl : Nat) : SliceAct :=
  let byChoice := match nextOfSlice s d c sl with
    | none => SliceAct.none
    | some u => let x := s.split u
                if x.hold == .replay then .replay u
                else if x.hold != Hold.none || x.st != .runnable then .release u
                else if x.hdrw.isNone || x.recheck then .enter u else .word u
  match (tget SliceSt.fresh (s.core d c).slices sl).run with
  | some (slot, k) =>
    let u : SplitRef := ⟨⟨d, c, slot⟩, k⟩
    match s.wave u.w with
    | none => byChoice
    | some w =>
      let x := w.split k
      match x.st with
      | .settle t => if s.cyc d < t then .none else .release u
      | _ => if canIssue s w x && x.hdrw.isSome && !x.recheck then .word u else byChoice
  | none => byChoice

/-- Opcodes open to pair issue (R60, R136, R206). -/
def pairOpen (w : W64) : Bool :=
  let op := (fOp w).toNat
  decide (0x40 ≤ op) && decide (op ≤ 0x89) && op != 0x81 && op != 0x82 && op != 0x88 && !(op == 0x78 && w.getLsbD 4)
/-- A sibling that may pair-issue with split u (R206): RUNNABLE and at a word, or at a clause whose header passes its checks and whose
waits are satisfied, which it then enters. -/
def pairReady (s : State) (u : SplitRef) (k : Nat) : Option State :=
  match s.wave u.w with
  | none => none
  | some w =>
    let x := w.split k
    let v : SplitRef := ⟨u.w, k⟩
    if k = u.k ∨ x.st ≠ .runnable ∨ !canGo s u.w w x ∨ !(x.hold = .none ∨ x.hold = .clause) then none
    else if x.hold = .clause then some (releaseClause s v (x.hdrw.getD 0))
    else if x.hdrw.isSome && !x.recheck then some s
    else match fetchWord s w x.hdr with
      | (t, h, c) =>
        if c = 0 ∧ (x.recheck ∨ headerCause h = 0) ∧ clauseReady t u.w w (clauseWork t w h) h then some (releaseClause t v h) else none

end Sys2Proof.Machine
end

