-- ==== Sys2Proof/Machine/Place.lean ====
section
/-! DEFINITION. A wave at its start (R178, R190, R202, R347), and a program placed from outside for one instruction (entry 3). -/

namespace Sys2Proof.Machine

/-- A launch record with every field zero. -/
def Launch.zero : Launch :=
  ⟨0, 0, 1, 1, 1, 0, 0, 8, 0, 0, 0, false, false, false, false, 0, 0, 0, 0, 0, [], 0, 0, 0, 0, 0⟩
/-- A kernel as it enters its queue (R180). -/
def Kern.pending (l : Launch) (asid acc : Nat) : Kern :=
  ⟨l, asid, .pending, false, 0, [], 15, 0, 0, 0, 0, 0, 0, 0, acc, 0, 0, none, [], []⟩

/-- A split at an entry point with every lane (R202). -/
def Split.start (pc : Addr) : Split :=
  { Split.free with pc := pc, hdr := pc, rpc := noneRpc, mask := 0xFFFFFFFF, st := .runnable }
/-- The region record at wave start (R347). -/
def Region.start (pc : Addr) : Region := ⟨pc, pc, 0xFFFFFFFF, 0, 0, false, 0, 0, []⟩

/-- A wave at its start (R178): s0:1 hold PARAM_VA, every other register holds zero, one split. -/
def Wave.start (uid die block copy kernel asid waveId rowBase allot : Nat) (ilk twin preq : Bool) (param : Nat) (pc : Addr) : Wave where
  uid := uid
  die := die
  block := block
  copy := copy
  kernel := kernel
  asid := asid
  waveId := waveId
  rowBase := rowBase
  allot := allot
  ilk := ilk
  twin := twin
  v := []
  s := [(0, ⟨BitVec.ofNat 32 param, false⟩), (1, ⟨BitVec.ofNat 32 (param / 2 ^ 32), false⟩)]
  p := []
  x := []
  pend := []
  fd := []
  splits := [Split.start pc, Split.free, Split.free, Split.free]
  stack := []
  wsm := 0
  wspc := 0
  wsTill := 0
  wsNext := 0
  wsHdr := 0
  exited := 0
  hmode := false
  frame := 0
  hdepth := 0
  trap := none
  savedPsn := []
  savedRep := none
  fences := []
  rq := []
  splovf := 0
  nandrop := false
  preq := preq
  clkHi := 0
  live := none
  wdm := 0
  bc := 0
  openBatch := []
  batches := []
  ck0 := 0
  ck1 := 0
  ckp := false
  region := Region.start pc
  rseq := 0
  pendRgn := []
  epoch := 0
  keyCnt := []
  sdivTill := 0
  exitOp := none
  lastExit := 0
  stopped := false

/-- The line of code that holds a placed instruction: it stands at VA 0x10000 of ASID 0, on an executable page. -/
def slotVa : Nat := 0x10000
def slotLine (bytes : List Byte) : SLine :=
  ⟨(leBytes 128 0).mapIdx (fun i _ => bytes.getD i 0), false, 4, 256, true, true, false, false, false, false⟩

/-- The placed wave: slot 0 of core 0 of die 0, its split at the word after a CTRL header of sixteen words. -/
def slotHeader (n : Nat) : W64 := if n ≤ 1 then 0x3000000000000000 else 0x3100000000000000
def slotWave (n : Nat) : Wave :=
  let pc : Addr := BitVec.ofNat 56 slotVa
  let w := Wave.start 1 0 0 0 0 0 0 0 256 false false false 0 pc
  w.setSplit 0 { Split.start pc with pc := pc + 8, hdrw := some (slotHeader n) }

/-- PLACE ONE INSTRUCTION (entry 3): a kernel of ASID 0 with one block and one wave, whose clause the slice is running, with the
instruction's words at the split's PC; the next move is that slice's issue. -/
def placeWords (s : State) (n : Nat) (bytes : List Byte) : State :=
  let r : WaveRef := ⟨0, 0, 0⟩
  let l := { Launch.zero with codeVa := slotVa, allot := 256, spad := 384, bars := 1024, tiles := 16 }
  let s := { s with
    agenda := [.issue 0 0 0]
    cur := none
    kerns := tset s.kerns 0 { Kern.pending l 0 1 with st := .running, nextGroup := 1 }
    blocks := tset s.blocks 0 ⟨0, 0, 0, [⟨0, 0, 0, 0, List.range 16, false, false⟩]⟩
    slines := tset s.slines (0, slotVa / 128) (slotLine (leBytes 8 (slotHeader n).toNat ++ bytes)) }
  let s := s.setWave r (slotWave n)
  setRun s ⟨r, 0⟩

end Sys2Proof.Machine
end

