-- ==== Sys2Proof/Machine/BarOps.lean ====
section
/-! DEFINITION. The barrier file: slots of a block's share, arrival, withdrawal, completion checks and the wake of waiting splits
(R226 to R236). -/

namespace Sys2Proof.Machine

/-- A slot of a core by its physical number. -/
def barAt (c : Core) (i : Nat) : Bar := tget Bar.fresh c.bars i
/-- Physical slot number of slot n of a block's copy, with its die and core. -/
def slotOf (s : State) (b cp n : Nat) : Option (Nat × Nat × Nat) := (s.place b cp).map (fun p => (p.die, p.core, p.barBase + n))
/-- Slot n of a block's copy. -/
def State.bar (s : State) (b cp n : Nat) : Bar :=
  match slotOf s b cp n with
  | some (d, c, i) => barAt (s.core d c) i
  | none => Bar.fresh
def State.setBar (s : State) (b cp n : Nat) (x : Bar) : State :=
  match slotOf s b cp n with
  | some (d, c, i) => let k := s.core d c
                      s.setCore d c { k with bars := tset k.bars i x }
  | none => s
/-- Slots of a block (BARS). -/
def barsOf (s : State) (b : Nat) : Nat := (((tfind s.blocks b).bind (fun x => s.kern x.kernel)).map (·.l.bars)).getD 0
/-- Blocks of the group, G (R176): the last group may be short. -/
def groupOf (s : State) (b : Nat) : Nat × Nat × Nat :=
  match tfind s.blocks b with
  | none => (0, 1, 0)
  | some x => match s.kern x.kernel with
    | none => (0, 1, 0)
    | some k =>
      let g := k.l.gsize + 1
      let n := k.l.gx * k.l.gy * k.l.gz
      (x.group, min (g * x.group + g) n - g * x.group, x.idx - g * x.group)
/-- The block of a rank in the group of block b, if it is resident. -/
def peerBlock (s : State) (b rank : Nat) : Option Nat :=
  match tfind s.blocks b with
  | none => none
  | some x => ((s.blocks.filter (fun (y : Nat × Block) => y.2.kernel == x.kernel && y.2.group == x.group
      && y.2.idx == x.idx - (groupOf s b).2.2 + rank)).map (·.1)).head?
/-- A block's copy has retired or is no longer there (R194). -/
def retired (s : State) (b cp : Nat) : Bool :=
  match s.place b cp with
  | some p => p.retired
  | none => true

/-- A block's copy stands in a core image and not on its core (R156). -/
def savedOut (s : State) (b cp : Nat) : Bool := (s.place b cp).any (fun p => p.saved)

/-- Lanes of a wave that take no further part. -/
def goneLanes (w : Wave) : Mask := w.wdm ||| w.exited

/-- Wake the splits of a block's copy that wait on a slot for a phase (R236): they become RUNNABLE by BAR_WAKE. -/
def wakeWaiters (s : State) (b cp n : Nat) (ph : Bool) : State :=
  { s with waves := s.waves.map (fun (x : WaveRef × Wave) =>
      if x.2.block == b && x.2.copy == cp then
        (x.1, { x.2 with splits := x.2.splits.map (fun (y : Split) =>
          match y.st with
          | .waitBar k t o false => if k = n ∧ t = ph then { y with st := .waitBar k t o true } else y
          | _ => y) })
      else x) }
/-- Wake the splits that wait for bits of a CHUNK slot's map. -/
def wakeMaps (s : State) (b cp n : Nat) (m : W64) : State :=
  { s with waves := s.waves.map (fun (x : WaveRef × Wave) =>
      if x.2.block == b && x.2.copy == cp then
        (x.1, { x.2 with splits := x.2.splits.map (fun (y : Split) =>
          match y.st with
          | .waitMap k need false => if k = n ∧ m &&& need = need then { y with st := .waitMap k need true } else y
          | _ => y) })
      else x) }
/-- Splits in WAIT_BAR on a slot (Table 11.1). -/
def waitersOf (s : State) (b cp n : Nat) : Nat :=
  ((s.waves.filter (fun (x : WaveRef × Wave) => x.2.block == b && x.2.copy == cp)).flatMap (fun x => x.2.splits)).countP
    (fun y => match y.st with
      | .waitBar k _ _ _ => k == n
      | .waitMap k _ _ => k == n
      | _ => false)

def bump (a b : Nat) : Nat := min (a + b) 0xFFFFFFFF

/-! ### LANE and CLUSTER (R229 to R231, R235) -/

/-- The phase of a CLUSTER slot ends when the local part is complete and every peer has signalled. -/
def clusterCheck (s : State) (b cp n : Nat) : State :=
  let x := s.bar b cp n
  let g := (groupOf s b).2.1
  let rc := if x.ph then x.rc1 else x.rc0
  if x.kind == 4 && x.loc && rc == g - 1 then
    let y := { x with count := 0, loc := false, ph := !x.ph }
    let y := if x.ph then { y with rc1 := 0 } else { y with rc0 := 0 }
    wakeWaiters (s.setBar b cp n y) b cp n x.ph
  else s
/-- One signal to every other block of the group. -/
def sendSignals (s : State) (b cp n : Nat) (q : Bool) : State :=
  let (_, g, own) := groupOf s b
  ((List.range g).filter (· != own)).foldl (fun s rank =>
    match peerBlock s b rank with
    | some pb => { s with nextId := s.nextId + 1, msgs := s.msgs ++ [(s.nextId, .signal pb cp n q b)] }
    | none => s) s
/-- The completion check after an arrival or a withdrawal (R230). -/
def laneCheck (s : State) (b cp n : Nat) : State :=
  let x := s.bar b cp n
  if x.count < x.exp then s
  else
    let ovf := x.ovf || decide (x.exp < x.count)
    if x.kind == 1 then
      wakeWaiters (s.setBar b cp n { x with ovf := ovf, count := 0, ph := !x.ph }) b cp n x.ph
    else if x.loc then s.setBar b cp n { x with ovf := ovf }
    else clusterCheck (sendSignals (s.setBar b cp n { x with ovf := ovf, loc := true }) b cp n x.ph) b cp n
/-- Arrival of k lanes. -/
def arriveLanes (s : State) (b cp n k : Nat) : State :=
  let x := s.bar b cp n
  laneCheck (s.setBar b cp n { x with count := x.count + k }) b cp n
/-- Lanes of the block that are neither exited nor withdrawn, in waves that a mask names. -/
def lanesIn (s : State) (b cp : Nat) (named : Nat → Bool) : Nat :=
  (s.waves.filter (fun (x : WaveRef × Wave) => x.2.block == b && x.2.copy == cp && named x.2.waveId)).foldl
    (fun n x => n + popcount (~~~(goneLanes x.2))) 0
/-- Withdrawal of lanes of a wave from every LANE and CLUSTER slot of its block (R231, R241). -/
def withdraw (s : State) (r : WaveRef) (f : Mask) : State :=
  match s.wave r with
  | none => s
  | some w =>
    let k := popcount (f &&& ~~~(goneLanes w))
    let s := s.setWave r { w with wdm := w.wdm ||| f }
    (List.range (barsOf s w.block)).foldl (fun s n =>
      let x := s.bar w.block w.copy n
      if (x.kind == 1 && x.wmask.getLsbD w.waveId) || x.kind == 4 then
        laneCheck (s.setBar w.block w.copy n { x with exp := x.exp - k }) w.block w.copy n
      else s) s
/-- An UNINIT slot becomes CLUSTER.0 on its first cbar or peer signal (R235). -/
def becomeCluster (s : State) (b cp n : Nat) : State :=
  let x := s.bar b cp n
  if x.kind == 0 then s.setBar b cp n { x with kind := 4, exp := lanesIn s b cp (fun _ => true) } else s

/-! ### BYTE and CHUNK (R232 to R234) -/

def named8 (x : Bar) : List Nat := (List.range 8).filter (fun i => x.named.testBit i)
/-- The completion check of a BYTE slot. -/
def byteCheck (s : State) (b cp n : Nat) : State :=
  let x := s.bar b cp n
  let ns := named8 x
  if x.kind == 2 && !ns.isEmpty && ns.all (fun i => x.epost.testBit i && decide (tget 0 x.expi i ≤ tget 0 x.cnt i)) then
    let y := ns.foldl (fun (y : Bar) i =>
      let c := tget 0 y.cnt i - tget 0 y.expi i
      { y with cnt := tset y.cnt i c, ovf := y.ovf || decide (0 < c), expi := tset y.expi i 0 }) x
    wakeWaiters (s.setBar b cp n { y with epost := 0, ph := !x.ph }) b cp n x.ph
  else s
/-- Bytes credited to a producer (R232). -/
def creditBytes (s : State) (b cp n i k : Nat) : State :=
  if retired s b cp || barsOf s b ≤ n then s
  else
    let x := s.bar b cp n
    if x.kind == 0 || x.kind == 2 then byteCheck (s.setBar b cp n { x with cnt := tset x.cnt i (bump (tget 0 x.cnt i) k) }) b cp n
    else s.setBar b cp n { x with ovf := true }
/-- A chunk bit of a CHUNK slot is set (R234); a landing at a slot of another kind is discarded. -/
def setChunk (s : State) (b cp n bit : Nat) : State :=
  let x := s.bar b cp n
  if x.kind == 3 then
    let m := x.map ||| (1#64 <<< bit)
    wakeMaps (s.setBar b cp n { x with map := m, ovf := x.ovf || x.map.getLsbD bit }) b cp n m
  else s.setBar b cp n { x with ovf := true }
/-- A peer's signal reaches slot n (R235). -/
def peerSignal (s : State) (b cp n : Nat) (q : Bool) : State :=
  if retired s b cp then s
  else
    let s := becomeCluster s b cp n
    let x := s.bar b cp n
    if x.kind == 4 then
      let y := if q then { x with rc1 := x.rc1 + 1 } else { x with rc0 := x.rc0 + 1 }
      clusterCheck (s.setBar b cp n y) b cp n
    else s.setBar b cp n { x with ovf := true }

/-- The word of Table 11.1 that a selector names (R242). -/
def barWord (s : State) (b cp n sel : Nat) : Nat :=
  let x := s.bar b cp n
  if sel = 0 then
    x.kind + x.ph.toNat * 8 + x.ovf.toNat * 16 + x.rc0 * 2 ^ 6 + x.named * 2 ^ 8 + waitersOf s b cp n * 2 ^ 16 + x.rc1 * 2 ^ 24
  else if sel = 1 then x.count
  else if sel = 2 then x.exp
  else if sel = 3 then x.wmask.toNat
  else if sel = 4 then x.map.toNat % 2 ^ 32
  else if sel = 5 then x.map.toNat / 2 ^ 32
  else if sel = 6 then x.epost
  else if 8 ≤ sel ∧ sel < 16 then tget 0 x.cnt (sel - 8)
  else if 16 ≤ sel ∧ sel < 24 then tget 0 x.expi (sel - 16)
  else 0

end Sys2Proof.Machine
end

