-- ==== Sys2Proof/Machine/Twin.lean ====
section
/-! DEFINITION. Twin launches: entries of the compare buffers, their signatures, the SLACK limit (R353, R354), and the restart of a
wave at its region entry (R349, R356). -/

namespace Sys2Proof.Machine

/-- A compared issue: the wave is a twin wave and not in handler mode (Table 17.1). -/
def compares (i : Issue) : Bool := i.w.twin && !i.w.hmode
/-- SLACK of the wave's kernel. -/
def slackOf (s : State) (w : Wave) : Nat := ((s.launchOf w).map (·.slack)).getD 0
/-- Unmatched entries that a copy of a block holds. -/
def unmatched (s : State) (b cp : Nat) : Nat := (s.twins.filter (fun t => t.2.block == b && t.2.copy == cp)).length
/-- The issue would exceed SLACK (R354). -/
def slackStall (s : State) (i : Issue) : Bool := compares i && decide (slackOf s i.w ≤ unmatched s i.w.block i.w.copy)

/-- The byte string of a signature (R353): the word, E, four zero bytes, then the blocks. -/
def sigBytes (word : W64) (e : Mask) (blocks : List Byte) : List Byte := leBytes 8 word.toNat ++ leBytes 4 e.toNat ++ leBytes 4 0 ++ blocks
/-- The lane block of a per-lane instruction of access size n. -/
def laneBlock (n : Nat) (l : LaneA) : List Byte := leBytes 8 l.addr ++ leBytes 16 (l.data % 2 ^ (8 * n)) ++ leBytes 16 (l.cmp % 2 ^ (8 * n))
/-- The blocks of a split-scalar instruction. -/
def fieldBlocks (xs : List Nat) : List Byte := xs.flatMap (leBytes 8)

/-- Form the entry of an issue for operation, copy or region entry `o`: keyed with the lowest lane of E (R353). Its signature is known at
once, or where `blocks` is none once the statuses of the instruction have returned. -/
def addTwin (s : State) (i : Issue) (o : Nat) (blocks : Option (List Byte)) (isRgn : Bool) : State :=
  if !compares i then s
  else match s.wave i.u.w with
    | none => s
    | some w =>
      let key := (i.w.rseq, i.sp.pc.toNat, (lanes i.e).headD 0)
      let n := tget 0 w.keyCnt key
      let t : TwinE := ⟨o, w.block, w.copy, w.waveId, i.w.rseq, key.2.1, key.2.2, n, w.epoch, blocks.map (fun b => crc64 (sigBytes i.word i.e b)), i.word, isRgn⟩
      let s := s.setWave i.u.w { w with keyCnt := tset w.keyCnt key (n + 1) }
      { s with nextId := s.nextId + 1, twins := s.twins ++ [(s.nextId, t)] }
/-- Two entries have one key. -/
def sameKey (a b : TwinE) : Bool :=
  a.block == b.block && a.waveId == b.waveId && a.rseq == b.rseq && a.va == b.va && a.lane == b.lane && a.n == b.n && a.epoch == b.epoch

/-! ### Restart (R349) -/

/-- The waves of both copies of a wave's block with its WAVEID. -/
def twinWaves (s : State) (w : Wave) : List WaveRef :=
  (s.waves.filter (fun (x : WaveRef × Wave) => x.2.block == w.block && x.2.waveId == w.waveId)).map (·.1)

/-- The fragments of a wave: entry and GEN. -/
def fragsOf (c : Core) (uid : Nat) : List (Nat × Nat) := (c.frags.filter (fun f => f.2.fstate != 0 && f.2.wuid == uid)).map (fun f => (f.1, f.2.gen))
/-- Free the fragments of a wave parked since its region entry. -/
def freeFrags (c : Core) (uid : Nat) (before : List (Nat × Nat)) : Core :=
  let hit := fun (f : Nat × Frag) => f.2.fstate != 0 && f.2.wuid == uid && !before.contains (f.1, f.2.gen)
  { c with
    frags := c.frags.map (fun f => if hit f then (f.1, { f.2 with fstate := 0, permit := false, lanes := [] }) else f) }

/-- What a restart leaves out of a wave's operations: those that have not left the core, results that are still to come, an arrival that is held, and
the close of an exit. -/
def restartDrops (uid : Nat) (o : Op) : Bool :=
  o.wuid == uid && decide (o.twin < 2) && !o.performed
    && ((!o.left && isCapturedKind o.kind) || (!o.told && !isStoreKind o.kind) || (!o.fin && o.kind == .result)
      || (match o.kind with
        | .cmd (.barSync _ _ _) => true
        | .cmd (.cbar _ _ _) => true
        | .cmd .exit => true
        | _ => false))
/-- One wave goes back to its region entry; a trap it was taking, or the handler it was in, goes with its splits (entry 20). Lanes whose exit is not
complete, since its close is open (R354), run again; they stay withdrawn from the block's slots (R231; entry 83). -/
def restartWave (s : State) (r : WaveRef) : State :=
  match s.wave r with
  | none => s
  | some w =>
    let g := w.region
    let s := s.setCoreOf r (freeFrags (s.coreOf r) w.uid g.frags)
    let s := tellAll (discardOps s (fun _ o => restartDrops w.uid o)) w.uid
    let s := { s with
      mxs := s.mxs.filter (fun (m : Nat × MxCmd) => !(m.2.wuid == w.uid && m.2.st != MxSt.finished
        && (match m.2.kind with | .mx _ _ _ _ _ _ => true | _ => false)))
      watches := s.watches.filter (fun x => match x.2.target with | .split u => !decide (u.w = r) | .dep _ _ => true) }
    let back := if w.exitOp.isSome then w.lastExit &&& g.mask else 0
    let gone := w.exited &&& ~~~back
    let m := g.mask &&& ~~~gone
    let x0 : Split := { Split.free with pc := g.pc, hdr := g.hdr, rpc := noneRpc, mask := m, st := .runnable, recheck := true }
    let s := s.setWave r { w with
      splits := [if m = 0 then Split.free else x0, Split.free, Split.free, Split.free]
      stack := []
      wsm := 0
      wsTill := 0
      trap := none
      hmode := false
      savedRep := none
      rq := []
      pend := ((s.wave r).map (·.pend)).getD []
      ck0 := g.ck0
      ck1 := g.ck1
      ckp := g.ckp
      exited := gone
      exitOp := none
      rseq := g.rseq
      region := { g with rcnt := g.rcnt + 1 }
      pendRgn := []
      epoch := w.epoch + 1
      keyCnt := [] }
    exitCheck (s.setCoreOf r { s.coreOf r with
      slices := (s.coreOf r).slices.map (fun (x : Nat × SliceSt) => (x.1, if x.2.run.map (·.1) == some r.slot then { x.2 with run := none } else x.2)) }) r

/-- Discard the unmatched entries a predicate picks: their operations and copies are never performed. -/
def discardEntries (s : State) (p : TwinE → Bool) : State :=
  let gone := (s.twins.filter (fun t => p t.2)).map (·.2.op)
  let s := discardOps s (fun o _ => gone.contains o)
  { s with
    twins := s.twins.filter (fun t => !p t.2)
    copies := s.copies.map (fun (c : Nat × Copy) => if gone.contains c.1 then (c.1, { c.2 with st := .dropped }) else c) }
/-- A mismatch, or a failing chk.restart of a twin wave (R356): entries dropped, both copies restart or the kernel is aborted; the record has the PC of
the word whose operation it is about (R151). At the eighth restart R356 decides, not the trap of R351 (entry 84: the model's choice). -/
def twinRestart (s : State) (w : Wave) (pc : Nat) : State :=
  let s := discardEntries s (fun t => t.block == w.block && t.waveId == w.waveId)
  let rs := twinWaves s w
  if w.region.rcnt < 8 then
    let s := rs.foldl restartWave s
    match rs.find? (fun r => (s.wave r).any (fun x => x.copy == 0)) with
    | some r => match s.wave r with
      | some x => recordOf s r x 0 2 0x382 0 0 0 pc
      | none => s
    | none => s
  else abortKernel s w.kernel 2 0x382

end Sys2Proof.Machine
end

