-- ==== Sys2Proof/Machine/MemOps.lean ====
section
/-! DEFINITION. What the memory instructions share: the scratchpad, the checks of R262, closes and opens (R279, R280), the L1 as a
core sees it (R253), starting an operation in flight, and writing its result registers. -/

namespace Sys2Proof.Machine

/-! ### Scratchpad -/

/-- Physical byte address of an offset in a block copy's scratchpad: its die, core and byte (R185). -/
def spadAt (s : State) (b cp off : Nat) : Option (Nat × Nat × Nat) := (s.place b cp).map (fun p => (p.die, p.core, 1024 * p.spadBase + off))
/-- Bytes of the block's scratchpad allocation (R186). -/
def spadSize (s : State) (w : Wave) : Nat := 1024 * ((s.launchOf w).map (·.spad)).getD 0
def spadBytes (c : Core) (a n : Nat) : List Byte := (List.range n).map (fun i => tget 0 c.spad (a + i))
/-- Bytes at an offset, and whether a line read is poisoned. -/
def spadRead (s : State) (b cp off n : Nat) : List Byte × Bool :=
  match spadAt s b cp off with
  | none => (leBytes n 0, false)
  | some (d, c, a) =>
    let k := s.core d c
    (spadBytes k a n, (List.range n).any (fun i => k.spadPsn.contains ((a + i) / 128)))
/-- Bytes as a table of address and byte. -/
def cellsOf (a : Nat) (bs : List Byte) : List (Nat × Byte) := bs.mapIdx (fun i b => (a + i, b))
/-- Lines that a set of written bytes covers whole. -/
def coversLine (cells : List (Nat × Byte)) (ln : Nat) : Bool := (List.range 128).all (fun i => (tfind cells (128 * ln + i)).isSome)
/-- Write bytes that one instruction or copy writes together: a line they cover whole loses its poison (R258). -/
def spadPut (s : State) (asid b cp : Nat) (cells : List (Nat × Byte)) : State :=
  match spadAt s b cp 0 with
  | none => s
  | some (d, c, a) =>
    let k := s.core d c
    let cs := cells.map (fun x => (a + x.1, x.2))
    s.setCore d c { k with
      spad := cs.foldl (fun m x => tset m x.1 x.2) k.spad
      spadCtx := cs.foldl (fun m x => tset m x.1 asid) k.spadCtx
      spadPsn := k.spadPsn.filter (fun ln => !coversLine cs ln) }

/-! ### Forms of an access -/

/-- What a memory form is: its kind and size, the scope of the close before and the open after it (0: none), its space, whether it is
split-scalar, compared in a twin wave (Table 17.1), and held for its statuses (R298). -/
structure Form where
  kind : OpKind
  n : Nat
  cls : Nat
  opn : Nat
  /-- 0 global, 1 scratchpad, 2 cluster window -/
  sp : Nat
  scalar : Bool
  compared : Bool
  held : Bool
deriving DecidableEq, Repr

def szBytes : Sz → Nat
  | .n8 => 1
  | .s8 => 1
  | .n16 => 2
  | .s16 => 2
  | .b32 => 4
  | .b64 => 8
  | .b128 => 16
def szSigned : Sz → Bool
  | .s8 => true
  | .s16 => true
  | _ => false

/-- Checks 1 to 4 of R262 for one lane; 0 passes. -/
def issueCause (s : State) (w : Wave) (f : Form) (l : LaneA) : Nat :=
  let al := if f.kind = .seal ∨ f.kind = .unseal then 1 else f.n
  if l.apsn || l.dpsn || l.cpsn then 0x104
  else if f.sp = 0 ∧ 2 ^ 56 ≤ l.addr then 0x102
  else if l.addr % al ≠ 0 then 0x105
  else if f.sp = 1 ∧ spadSize s w ≤ l.addr then 0x102
  else if f.sp = 2 ∧ (2 ^ 22 ≤ l.addr ∨ (groupOf s w.block).2.1 ≤ l.addr / 2 ^ 20 ∨ spadSize s w ≤ l.addr % 2 ^ 20) then 0x102
  else 0
def checkLanes (s : State) (w : Wave) (f : Form) (ls : List LaneA) : List LaneA :=
  ls.map (fun l => { l with fin := false, got := 0, gpsn := false, cause := issueCause s w f l })
/-- The one access of a split-scalar form stands for every lane of E (R265, R271). -/
def spread (f : Bool) (e : Mask) (ls : List LaneA) : List LaneA :=
  if f then (lanes e).flatMap (fun j => ls.map (fun l => { l with lane := j })) else ls
def laneSet (ls : List LaneA) : Mask := maskOf (fun i => ls.any (fun l => l.lane == i))

/-- Bytes of one lane's access. -/
def opBytes : OpKind → Nat
  | .load n _ _ => n
  | .store n _ => n
  | .lda n => n
  | .atom _ n _ _ => n
  | _ => 1

/-! ### Closes and opens -/

/-- The stores a close at a scope waits for (R279): at `.blk` those not yet performed into L1 or a scratchpad, and those a twin's match is
still to perform (R354). A close that a handler makes does not wait for the stores of the replay queue, which are made again at tret (entry 79: the
model's choice). -/
def closeSet (s : State) (uid scp : Nat) : List Nat := (opsOf s uid isStoreKind).filter (fun o => !closedAt s scp o)
/-- A blank operation of an issuing split. -/
def blankOp (i : Issue) (k : OpKind) (after : List Nat) : Op :=
  ⟨i.u.w, i.w.uid, i.w.kernel, i.u.k, i.w.asid, k, .glob, 0, i.sp.pc, i.sp.hdr, i.sp.rpc, i.word, i.e, [], after, false, false, true, false, 0, 0, false, 0⟩
/-- Add an operation; its name. -/
def addOp (s : State) (o : Op) : State × Nat := (s.newOp o, s.nextId)
/-- Remove a finished operation. -/
def endOp (s : State) (o : Nat) : State := { s with ops := s.ops.filter (fun (x : Nat × Op) => x.1 != o) }
/-- A close at a scope for the issuing wave: the operations to wait for (none where nothing is outstanding). -/
def closeFor (s : State) (i : Issue) (scp : Nat) : State × List Nat :=
  let set := closeSet s i.w.uid scp
  if set.isEmpty then (s, []) else let r := addOp s { blankOp i .close set with reg := scp }
                                   (r.1, [r.2])
/-- Drop the non-sealed L1 lines of a context on a core (R280, R287). -/
def dropOpen (s : State) (d c asid : Nat) : State :=
  let k := s.core d c
  s.setCore d c { k with l1 := k.l1.filter (fun l => l.asid != asid || l.sealed) }
/-- Earlier loads that an open waits for. -/
def loadsOut (s : State) (uid : Nat) : List Nat := opsOf s uid isLoadKind
/-- An open at a scope after the operations named and the wave's earlier loads. -/
def openFor (s : State) (i : Issue) (scp : Nat) (after : List Nat) : State :=
  let a := after ++ loadsOut s i.w.uid
  if a.all (finished s) then (if scp = 1 then s else dropOpen s i.u.w.die i.u.w.core i.w.asid)
  else s.newOp (blankOp i (.openDev (scp != 1)) a)
/-- Opens of the wave that have not begun: its later loads wait for them (R280). -/
def opensOut (s : State) (uid : Nat) : List Nat :=
  opsOf s uid (fun k => match k with | .openDev _ => true | _ => false)
/-- A `phase` close of lanes of the split is not done: it issues no store, atomic, reduction, engine command, klaunch or phase (R283). -/
def fenced (s : State) (i : Issue) : Bool := i.w.fences.any (fun f => f.2 &&& i.sp.mask != 0 && !finished s f.1)

/-! ### L1 -/

def l1Find (c : Core) (asid ln : Nat) : Option L1Line := c.l1.find? (fun l => l.asid == asid && l.va == ln)
def l1Drop (s : State) (d c asid ln : Nat) : State :=
  let k := s.core d c
  s.setCore d c { k with l1 := k.l1.filter (fun l => !(l.asid == asid && l.va == ln)) }
/-- A line is placed; where the cache is full, a line of a free choice is replaced (R253). -/
def l1Put (s : State) (d c : Nat) (l : L1Line) : State :=
  let k := s.core d c
  let t := k.l1.filter (fun x => !(x.asid == l.asid && x.va == l.va))
  s.setCore d c { k with l1 := l :: (if t.length < Config.l1Lines then t else t.eraseIdx (pick s l.va 0 (List.range t.length))) }
/-- Replace the bytes of a line's data that a store writes. -/
def patchCells (ln : Nat) (d : List Byte) (cells : List (Nat × Byte)) : List Byte :=
  d.mapIdx (fun i b => tget b cells (128 * ln + i))
/-- The bytes the lanes of a store write, the highest lane last in force (R256). -/
def laneCells (n : Nat) (ls : List LaneA) : List (Nat × Byte) :=
  ls.foldl (fun m l => (cellsOf l.addr (leBytes n l.data)).foldl (fun m x => tset m x.1 x.2) m) []
/-- Operations of the core of a wave in one context's global memory that were issued before operation `o`, out of every replay queue, and
have a lane that a predicate picks. That a load does not wait for, nor observe, a store that stands in a replay queue is the model's choice
(entry 79). -/
def earlier (s : State) (o : Nat) (r : WaveRef) (asid : Nat) (p : Op → LaneA → Bool) : Bool :=
  s.ops.any (fun (y : Nat × Op) => decide (y.1 < o) && y.2.w.die == r.die && y.2.w.core == r.core && y.2.asid == asid && y.2.space == .glob
    && !y.2.inRq && y.2.lanes.any (p y.2))
/-- Two ranges of bytes meet. -/
def meets (a n b m : Nat) : Bool := decide (a < b + m) && decide (b < a + n)
/-- Lanes of an operation still to be performed in a line. -/
def pendingLane (ln : Nat) (l : LaneA) : Bool := !l.fin && l.cause == 0 && lineOf l.addr == ln
/-- What a load's or lda's lane waits for: an earlier atomic or reduction of the core to the line (R253), an earlier store to the bytes that is
not yet in the core's path (R275; for lda, not yet performed, R271), an earlier load of the bytes (R276). -/
def loadWaits (s : State) (o : Nat) (r : WaveRef) (asid : Nat) (k : OpKind) (l : LaneA) : Bool :=
  let n := opBytes k
  let lda := match k with | .lda _ => true | _ => false
  earlier s o r asid (fun y m => !m.fin && m.cause == 0 && match y.kind with
    | .atom _ _ _ _ => lineOf m.addr == lineOf l.addr
    | .store k _ => (!y.told || lda) && meets m.addr k l.addr n
    | .load k _ _ => meets m.addr k l.addr n
    | .lda k => meets m.addr k l.addr n
    | _ => false)
/-- Stores of a core to a line of global memory that it has accepted and that are not yet performed, over the line's bytes (R253). -/
def mergeOwn (s : State) (d c asid ln : Nat) (data : List Byte) : List Byte :=
  s.ops.foldl (fun b (o : Nat × Op) =>
    match o.2.kind with
    | .store n _ =>
      if o.2.w.die == d && o.2.w.core == c && o.2.asid == asid && o.2.space == .glob && o.2.told && !o.2.inRq then
        patchCells ln b (laneCells n (o.2.lanes.filter (pendingLane ln)))
      else b
    | _ => b) data
/-- Satisfy the lanes of a load from a line's bytes. -/
def satisfy (n ln : Nat) (data : List Byte) (psn : Bool) (ls : List LaneA) : List LaneA :=
  ls.map (fun l =>
    if !l.fin && l.cause == 0 && lineOf l.addr == ln then
      { l with fin := true, got := if psn then 0 else leVal ((data.drop (l.addr % 128)).take n), gpsn := psn }
    else l)
/-- What an atomic, reduction or lda does to the core's own L1 lines when it issues (R253). -/
def l1AtIssue (s : State) (i : Issue) (f : Form) (ls : List LaneA) : State :=
  let drop := ls.foldl (fun s l => l1Drop s i.u.w.die i.u.w.core i.w.asid (lineOf l.addr)) s
  if f.sp ≠ 0 then s
  else match f.kind with
    | .atom _ _ _ _ => drop
    | .lda _ => drop
    | _ => s
/-- A STORE INTO L1 (R253, R264), once its statuses are merged and its close is done: the lines that are present take its bytes; with
`.nc` they are dropped. -/
def l1Store (s : State) (x : Op) : State :=
  let d := x.w.die
  let c := x.w.core
  let good := x.lanes.filter (fun l => l.cause == 0)
  match x.kind, x.space with
  | .store n nc, .glob =>
    if nc then good.foldl (fun s l => l1Drop s d c x.asid (lineOf l.addr)) s
    else
      let k := s.core d c
      let cells := laneCells n good
      s.setCore d c { k with l1 := k.l1.map (fun l => if l.asid == x.asid then { l with data := patchCells l.va l.data cells } else l) }
  | _, _ => s
/-- Lanes that a load satisfies from valid L1 lines as it issues; a lane that has to wait for an earlier operation of the core is not among
them. -/
def l1Hits (s : State) (i : Issue) (f : Form) (ls : List LaneA) : List LaneA :=
  match f.kind with
  | .load n _ _ =>
    if f.sp ≠ 0 ∨ !(opensOut s i.w.uid).isEmpty then ls
    else ls.map (fun l =>
      if loadWaits s s.nextId i.u.w i.w.asid f.kind l then l
      else match l1Find (s.coreOf i.u.w) i.w.asid (lineOf l.addr) with
        | some c => (satisfy n c.va c.data c.psn [l]).headD l
        | none => l)
  | _ => ls

/-! ### Checks at the home slice (R297, R301) -/

/-- Where a lane of a scratchpad or window access goes: block, copy, offset. -/
def destOf (s : State) (x : Op) (l : LaneA) : Option (Nat × Nat × Nat) :=
  match x.space with
  | .spad b c => some (b, c, l.addr)
  | .none => (s.wave x.w).bind (fun w =>
      if w.uid = x.wuid then (peerBlock s w.block (l.addr / 2 ^ 20)).map (fun b => (b, w.copy, l.addr % 2 ^ 20)) else none)
  | .glob => none
/-- The block and copy it goes to. -/
def destBlock (s : State) (x : Op) (l : LaneA) : Option (Nat × Nat) := (destOf s x l).map (fun d => (d.1, d.2.1))
/-- A lane of one operation and a lane of another reach a common byte: of one context's global memory, or of one scratchpad. -/
def shareByte (s : State) (x : Op) (l : LaneA) (y : Op) (m : LaneA) : Bool :=
  if x.space = .glob then y.space == .glob && y.asid == x.asid && meets m.addr (opBytes y.kind) l.addr (opBytes x.kind)
  else y.space != .glob && (match destOf s x l, destOf s y m with
    | some a, some b => a.1 == b.1 && a.2.1 == b.2.1 && meets b.2.2 (opBytes y.kind) a.2.2 (opBytes x.kind)
    | _, _ => false)
/-- Operations of the core of an operation that were issued before it, out of every replay queue, and have a lane still to be performed that a
predicate picks. -/
def before (s : State) (o : Nat) (x : Op) (p : Op → LaneA → Bool) : Bool :=
  s.ops.any (fun (y : Nat × Op) => decide (y.1 < o) && y.2.w.die == x.w.die && y.2.w.core == x.w.core && !y.2.inRq
    && y.2.lanes.any (fun m => !m.fin && m.cause == 0 && p y.2 m))
/-- Checks 3 and 4 of R297 for a seal, against a page's entry. -/
def sealTrans (s : State) (t : Trans) : Nat := if transBad s t then 0x102 else if t.w0.getLsbD 62 then 0 else 0x102
/-- The page checks of a seal or unseal (R301): the cause, 0 where they pass. They look at the first line of the page that the slice holds, whichever
it is, and where it holds none at the entry (entry 73: the model's choice). A page in transit is checked against the entry that its engine
moves (R374). -/
def checkSeal (s : State) (asid va : Nat) : State × Nat :=
  let vpn := vpnOf va
  if inWindow asid va then
    (s, if 512 ≤ winChan va || (s.chan (winChan va)).st == .retired then 0x106 else 0x102)
  else match s.slines.find? (fun e => e.1.1 == asid && vpnOf (e.1.2 * 128) == vpn), s.inTransit asid vpn, s.home asid va with
    | _, none, none => (s, 0x106)
    | some e, _, _ => (s, lineCause e.2 .sealK)
    | none, some (_, t), _ => (s, sealTrans s ⟨asid, vpn, BitVec.ofNat 64 t.w0, BitVec.ofNat 64 t.w1⟩)
    | none, none, some ch => match translate s ch asid vpn with
      | (s, none) => (s, 0x101)
      | (s, some t) => (s, sealTrans s t)
/-- The slice that a line of a context goes to has no room for another checked request's line. -/
def noRoom (s : State) (asid va : Nat) : Bool :=
  (tfind s.slines (asid, lineOf va)).isNone && slicePinned s (cachedAt s asid va)
/-- THE CHECK OF A LINE REQUEST (R297, R298, R301): the cause for a lane of the line, 0 where it passes; none where it cannot be made
now, because the peer is saved or the slice has no room. -/
def lineCheck (s : State) (x : Op) (l : LaneA) : State × Option Nat :=
  let va := 128 * lineOf l.addr
  let reach := fun (k : AccK) =>
    if noRoom s x.asid va then (s, none)
    else match reachLine s x.asid va k with
      | (s, .bad c) => (s, some c)
      | (s, .ok _) => (s, some 0)
  let page := match checkSeal s x.asid va with
    | (s, c) => (s, some c)
  match x.space with
  | .glob => (match x.kind with
    | .load _ _ _ => reach .rd
    | .lda _ => reach .rd
    | .store _ _ => reach .wr
    | .atom _ _ _ _ => reach .wr
    | .seal => page
    | .unseal => page
    | _ => (s, some 0))
  | .spad _ _ => (s, some 0)
  | .none => (match destOf s x l with
    | none => (s, some 0x107)
    | some (b, cp, _) => if savedOut s b cp then (s, none) else (s, some (if retired s b cp then 0x107 else 0)))

/-! ### Result values -/

/-- Word m of a lane's result. -/
def resWord (k : OpKind) (l : LaneA) (m : Nat) : W32 :=
  match k with
  | .load n sgn _ =>
    if sgn then (BitVec.ofNat (8 * n) l.got).signExtend 32 else BitVec.ofNat 32 (l.got / 2 ^ (32 * m))
  | _ => BitVec.ofNat 32 (l.got / 2 ^ (32 * m))
/-- The values of an operation for one of its destination registers. -/
def resVals (x : Op) (d : Dst) : List (Nat × Val) :=
  let ok := x.lanes.filter (fun l => l.cause == 0)
  match d with
  | .v n => ok.map (fun l => (l.lane, ⟨resWord x.kind l (n - x.reg), l.gpsn⟩))
  | .s n => (ok.take 1).map (fun l => (0, ⟨resWord x.kind l (n - x.reg), l.gpsn⟩))
  | _ => []
/-- The values that the lanes satisfied so far give the pending registers of an operation (R42, R45): each lane's is written as it arrives. -/
def arriveResult (s : State) (o : Nat) : State :=
  match s.op o with
  | some x =>
    if isLoadKind x.kind then
      let y := { x with lanes := x.lanes.filter (·.fin) }
      s.updWave x.w (fun w => if w.uid = x.wuid then { w with pend := w.pend.map (fun p =>
        if p.op = o ∧ p.due.isNone ∧ !p.done then { p with vals := resVals y p.dst } else p) } else w)
    else s
  | none => s

/-! ### Starting an operation -/

def hasResult (k : OpKind) : Bool := isLoadKind k || k == .result
/-- Registers of a result: the constructor and the first number. -/
structure DstRun where
  scalar : Bool
  n : Nat
  k : Nat
deriving DecidableEq, Repr
def DstRun.dst (r : DstRun) : Nat → Dst := if r.scalar then .s else .v
/-- The address pair of a split-scalar form: its address without the word's offset. -/
def pairOf (word : W64) (l : LaneA) : Nat := (l.addr + 2 ^ 64 - ((word.extractLsb' 7 24).signExtend 64).toNat) % 2 ^ 64
def spaceOf (f : Form) (i : Issue) : Space := if f.sp = 0 then .glob else if f.sp = 1 then .spad i.w.block i.w.copy else .none
/-- The operation of an issue: its lanes, what it waits for, its L1 effects, its pending registers, its twin entry, the open that
follows it, and the wait of the split for its statuses. The space of a window access is found per lane (`Space.none`). -/
def startOp (s : State) (i : Issue) (f : Form) (ls : List LaneA) (dst : Option DstRun) : State :=
  let (s, cl) := if f.cls = 0 then (s, []) else closeFor s i f.cls
  let after := cl ++ (if isLoadKind f.kind then opensOut s i.w.uid else [])
  let good := ls.filter (fun l => l.cause == 0)
  let s := l1AtIssue s i f good
  let ls := l1Hits s i f ls
  let em := if f.scalar then i.e else laneSet good
  let tw := f.compared && compares i
  let wait := f.held && (tw || decide (em = 0) || ls.any (fun l => !l.fin))
  let id := s.nextId
  let s := s.newOp { blankOp i f.kind after with
    space := spaceOf f i, lanes := ls, told := !wait, scalar := f.scalar, twin := if tw then 1 else 0, reg := (dst.map (·.n)).getD 0 }
  let s := match dst with
    | some r => if em = 0 then s else expect s i.u.w r.dst r.n r.k (if r.scalar then 1 else em) id
    | none => s
  let s := arriveResult s id
  let s := if tw then addTwin s i id none false else s
  let s := if f.opn = 0 then s else openFor s i f.opn [id]
  if wait then s.updSplit i.u (fun x => { i.sp with st := x.st, last := x.last, hold := .access id, recheck := false }) else s

/-- ONE MEMORY INSTRUCTION (R259 to R272): operands captured or replayed, the checks 1 to 4 of R262 made at issue, then the operation, whose
line requests meet check 5. A replay with CAP = 1 takes address, data and compare operands as captured, and reads the index register of an indirect
destination afresh (entry 67: the model's choice). A compared access of a twin wave always becomes one, since even an issue whose lanes all fault forms an
entry (R353). -/
def access (s : State) (ins : Instr) (c : Cm) (f : Form) (cap : State → Issue → List LaneA) (dst : State → Issue → Option DstRun) :
    Host.Outcome State Fault Refusal :=
  issueOp s ins c 1 (fun s i =>
    if i.e = 0 then some s
    else if isCapturedKind f.kind && (fenced s i || decide (8 ≤ (captured s i.w.uid).length) || (f.compared && slackStall s i)) then none
    else
      let raw := match i.cap with
        | some cp => if f.scalar then cp.lanes.take 1 else cp.lanes
        | none => cap s i
      let ls := checkLanes s i.w f raw
      if f.held && (ls.any (fun l => l.cause == 0) || (f.compared && compares i)) then some (startOp s i f ls (dst s i))
      else some (faultThen s i true (spread f.scalar i.e (ls.filter (fun l => l.cause != 0))) (fun s j =>
        let good := ls.filter (fun l => l.cause == 0)
        if good.isEmpty || j.e = 0 then s else startOp s j f good (dst s i))))

/-! ### Results -/

/-- Fill in and write the pending registers of an operation. -/
def writeResult (s : State) (o : Nat) (x : Op) : State :=
  s.updWave x.w (fun w => if w.uid = x.wuid then { w with pend := w.pend.map (fun p =>
    if p.op = o ∧ p.due.isNone then { p with vals := if x.kind = .result then p.vals else resVals x p.dst, done := true } else p) } else w)
/-- A value that an operation will write to a register; it arrives later (R42). -/
def giveS (s : State) (r : WaveRef) (o n : Nat) (v : Val) : State :=
  s.updWave r (fun w => { w with pend := w.pend.map (fun p => if p.op = o ∧ p.dst = .s n then { p with vals := [(0, v)] } else p) })
def giveP (s : State) (r : WaveRef) (o : Nat) (n : PReg) (v : Bool) : State :=
  s.updWave r (fun w => { w with pend := w.pend.map (fun p =>
    if p.op = o ∧ p.dst = .p n.toNat then { p with vals := (lanes p.e).map (fun l => (l, ⟨if v then 1 else 0, false⟩)) } else p) })
/-- A command's status words become known; the result is written by VARIABLE_RESULT_WRITE. A twin's trailing copy gets the same. -/
def giveStatus (s : State) (o : Nat) (d : SReg) (vals : List W32) : State :=
  let one := fun (s : State) (o : Nat) => match s.op o with
    | none => s
    | some x =>
      let s := (vals.mapIdx (fun i v => (i, v))).foldl (fun s v => giveS s x.w o (d.toNat + v.1) ⟨v.2, false⟩) s
      s.updOp o (fun x => { x with kind := .result, fin := true, left := true })
  match s.op o with
  | none => s
  | some x => let s := one s o
              if x.twin = 2 then one s x.peer else s
/-- A scalar result that comes from outside the slice (R42), known at issue. -/
def resultS (s : State) (i : Issue) (d : SReg) (vals : List Val) : State :=
  let id := s.nextId
  let s := s.newOp { blankOp i .result [] with fin := true, left := true, reg := d.toNat }
  (vals.mapIdx (fun k v => (k, v))).foldl (fun s v => giveS (expect s i.u.w .s (d.toNat + v.1) 1 1 id) i.u.w id (d.toNat + v.1) v.2) s

/-! ### Commands after a close (R284) -/

/-- Issue a command of the wave: it takes effect once the operations it waits for are finished and, in a twin wave, its entry is
matched; at once where neither holds it. `n` scalar registers from d receive its result. -/
def command (s : State) (i : Issue) (cmd : Cmd) (compared : Bool) (blocks : List Nat) (after : List Nat) (d : Option SReg) (n : Nat)
    (run : State → Nat → State) : State :=
  let id := s.nextId
  let tw := compared && compares i
  let o : Op := { blankOp i (.cmd cmd) after with twin := if tw then 1 else 0, reg := (d.map (·.toNat)).getD 0 }
  let s := s.newOp o
  let s := match d with
    | some d => expect s i.u.w .s d.toNat n 1 id
    | none => s
  let s := if tw then addTwin s i id (some (fieldBlocks blocks)) false else s
  if !tw && after.all (finished s) then run s id else s
/-- A fault that a split-scalar command finds at its issue: the lanes of E park; a compared one forms its entry all the same, for an operation that
does nothing (R353). -/
def faultEntry (s : State) (i : Issue) (cap : Bool) (ls : List LaneA) (compared : Bool) (blocks : List Nat) : State :=
  faultThen s i cap ls (fun s _ =>
    if compared && compares i then addTwin { s with nextId := s.nextId + 1 } i s.nextId (some (fieldBlocks blocks)) false else s)
/-- What a command that closes first waits for: the wave's stores (device scope) and its earlier commands, which take effect in
issue order (R170, R222). -/
def cmdAfter (s : State) (i : Issue) : List Nat :=
  opsOf s i.w.uid isStoreKind ++ opsOf s i.w.uid (fun k => match k with | .cmd c => c != .exit | _ => false)
/-- A klaunch or engine command stalls at issue behind a phase close (R283) or SLACK (R354); the other commands know only the second. -/
def cmdStall (s : State) (i : Issue) (compared : Bool) : Bool := fenced s i || (compared && slackStall s i)
/-- A copy or matrix command stalls also as a ninth captured operation (R147). -/
def engStall (s : State) (i : Issue) (compared : Bool) : Bool := cmdStall s i compared || decide (8 ≤ (captured s i.w.uid).length)
/-- An engine command that is not captured (R41): once if E is not empty, and not behind a phase close of its lanes (R283). -/
def issueE (s : State) (i : Instr) (c : Cm) (body : State → Issue → Option State) : Host.Outcome State Fault Refusal :=
  issueOp s i c 1 (fun s is => if is.e = 0 then some s else if fenced s is then none else body s is)
/-- An interlocked wave's engine command that reads scratchpad waits for the wave's earlier stores into scratchpad (R48). -/
def spadStall (s : State) (i : Issue) : Bool := i.w.ilk && spadStoresOut s i.w.uid

end Sys2Proof.Machine
end

