-- ==== Sys2Proof/Machine/Access.lean ====
section
/-! DEFINITION. The meanings of the memory instructions 0x90 to 0xA7 (chapters 11, 12 and 13) as they issue. -/

namespace Sys2Proof.Machine

/-! ### Captured operands -/

/-- A lane's address in global memory (R261). -/
def globAt (s : State) (w : Wave) (a : GAddr) (off : BitVec 24) (l : Nat) : Nat × Bool :=
  let x := gaddr s w a l
  ((x.1 + (off.signExtend 64).toNat) % 2 ^ 64, x.2)
/-- A lane's offset address (R261). -/
def offAt (x : Val) (off : BitVec 24) : Nat × Bool := ((x.v + off.signExtend 32).toNat, x.psn)
/-- The value of k registers as one number, low register first, and its poison. -/
def wide (f : Nat → Val) (k : Nat) : Nat × Bool :=
  ((List.range k).foldl (fun n i => n + (f i).v.toNat * 2 ^ (32 * i)) 0, (List.range k).any (fun i => (f i).psn))
/-- A captured lane. -/
def mkLane (l : Nat) (addr data cmp : Nat × Bool) : LaneA := ⟨l, addr.1, data.1, cmp.1, addr.2, data.2, cmp.2, false, false, 0, 0, false⟩
def noData : Nat × Bool := (0, false)
/-- Captured lanes of a per-lane form. -/
def capLanes (i : Issue) (addr data cmp : Nat → Nat × Bool) : List LaneA := (lanes i.e).map (fun l => mkLane l (addr l) (data l) (cmp l))
/-- Captured operands of a split-scalar form: one access, kept under the lowest lane of E. -/
def capOne (i : Issue) (addr data : Nat × Bool) : List LaneA := ((lanes i.e).take 1).map (fun l => mkLane l addr data noData)
/-- A vector destination's registers. -/
def vRun (d : VDst) (k : Nat) (s : State) (i : Issue) : Option DstRun := some ⟨false, effV s i.w d, k⟩
def sRun (d : SReg) (k : Nat) (_ : State) (_ : Issue) : Option DstRun := some ⟨true, d.toNat, k⟩
def noRun (_ : State) (_ : Issue) : Option DstRun := none

/-! ### Loads and stores (R263 to R265) -/

def ldForm (f : LdF) : Form := ⟨.load (szBytes f.sz) (szSigned f.sz) f.spc, szBytes f.sz, 0, f.scp.toNat, 0, false, false, true⟩
def stForm (f : LdF) : Form := ⟨.store (szBytes f.sz) f.spc, szBytes f.sz, f.scp.toNat, 0, 0, false, true, true⟩

def execLd (c : Cm) (d : VDst) (a : GAddr) (f : LdF) (off : BitVec 24) (s : State) : Host.Outcome State Fault Refusal :=
  access s (.ld c d a f off) c (ldForm f)
    (fun s i => capLanes i (globAt s i.w a off) (fun _ => noData) (fun _ => noData)) (vRun d (szRegs f.sz))
def execSt (c : Cm) (d : VSrc) (a : GAddr) (f : LdF) (off : BitVec 24) (s : State) : Host.Outcome State Fault Refusal :=
  access s (.st c d a f off) c (stForm f)
    (fun s i => capLanes i (globAt s i.w a off) (fun l => wide (fun k => vsrc s i.w .int d k l) (szRegs f.sz)) (fun _ => noData)) noRun
def execLds (c : Cm) (d : VDst) (a : VSrc) (f : LdF) (off : BitVec 24) (s : State) : Host.Outcome State Fault Refusal :=
  access s (.lds c d a f off) c { ldForm f with opn := 0, sp := 1, held := false }
    (fun s i => capLanes i (fun l => offAt (vsrc s i.w .int a 0 l) off) (fun _ => noData) (fun _ => noData)) (vRun d (szRegs f.sz))
def execSts (c : Cm) (d a : VSrc) (f : LdF) (off : BitVec 24) (s : State) : Host.Outcome State Fault Refusal :=
  access s (.sts c d a f off) c { stForm f with cls := 0, sp := 1, compared := false, held := false }
    (fun s i => capLanes i (fun l => offAt (vsrc s i.w .int a 0 l) off)
      (fun l => wide (fun k => vsrc s i.w .int d k l) (szRegs f.sz)) (fun _ => noData)) noRun
def execLdc (c : Cm) (d : VDst) (a : VSrc) (f : LdF) (off : BitVec 24) (s : State) : Host.Outcome State Fault Refusal :=
  access s (.ldc c d a f off) c { ldForm f with sp := 2 }
    (fun s i => capLanes i (fun l => offAt (vsrc s i.w .int a 0 l) off) (fun _ => noData) (fun _ => noData)) (vRun d (szRegs f.sz))
def execStc (c : Cm) (d a : VSrc) (f : LdF) (off : BitVec 24) (s : State) : Host.Outcome State Fault Refusal :=
  access s (.stc c d a f off) c { stForm f with sp := 2, compared := false }
    (fun s i => capLanes i (fun l => offAt (vsrc s i.w .int a 0 l) off)
      (fun l => wide (fun k => vsrc s i.w .int d k l) (szRegs f.sz)) (fun _ => noData)) noRun

/-- The address of a split-scalar access: global, or an own-scratchpad offset with `.sp`. -/
def scalAddr (s : State) (w : Wave) (a : SAddr) (off : BitVec 24) : Nat × Bool :=
  match a with
  | .glob n => globAt s w (.sc n) off 0
  | .spad x => offAt (ssrc s w x) off
def isSpadA : SAddr → Bool
  | .glob _ => false
  | .spad _ => true
def execSld (c : Cm) (d : SReg) (a : SAddr) (f : LdF) (off : BitVec 24) (s : State) : Host.Outcome State Fault Refusal :=
  access s (.sld c d a f off) c
    { ldForm f with kind := .load (szBytes f.sz) (szSigned f.sz) false, sp := if isSpadA a then 1 else 0, scalar := true, held := !isSpadA a }
    (fun s i => capOne i (scalAddr s i.w a off) noData) (sRun d (szRegs f.sz))
def execSst (c : Cm) (d : SSrc) (a : SAddr) (f : LdF) (off : BitVec 24) (s : State) : Host.Outcome State Fault Refusal :=
  access s (.sst c d a f off) c
    { stForm f with kind := .store (szBytes f.sz) false, sp := if isSpadA a then 1 else 0, scalar := true
                    compared := !isSpadA a, held := !isSpadA a }
    (fun s i => capOne i (scalAddr s i.w a off)
      (wide (fun k => if k = 0 then ssrc s i.w d else ssrcHi s i.w d) (szRegs f.sz))) noRun

/-- pf (R266): lanes that fail a check are dropped; no register, no fault, no order. -/
def execPf (c : Cm) (a : GAddr) (sl : Bool) (off : BitVec 24) (s : State) : Host.Outcome State Fault Refusal :=
  issue1 s (.pf c a sl off) c (fun s i =>
    let f : Form := ⟨.pf sl, 1, 0, 0, 0, false, false, false⟩
    let raw := match i.cap with
      | some cp => cp.lanes
      | none => capLanes i (globAt s i.w a off) (fun _ => noData) (fun _ => noData)
    let ls := (checkLanes s i.w f raw).filter (fun l => l.cause == 0)
    if ls.isEmpty then s else s.newOp { blankOp i (.pf sl) [] with lanes := ls, told := true })

/-! ### seal and unseal (R301, R302) -/

def sealForm (k : OpKind) (cls : Nat) : Form := ⟨k, 1, cls, 0, 0, false, true, true⟩
def execSeal (c : Cm) (a : GAddr) (off : BitVec 24) (s : State) : Host.Outcome State Fault Refusal :=
  access s (.seal c a off) c (sealForm .seal 0) (fun s i => capLanes i (globAt s i.w a off) (fun _ => noData) (fun _ => noData)) noRun
def execUnseal (c : Cm) (a : GAddr) (off : BitVec 24) (s : State) : Host.Outcome State Fault Refusal :=
  access s (.unseal c a off) c (sealForm .unseal 4) (fun s i => capLanes i (globAt s i.w a off) (fun _ => noData) (fun _ => noData)) noRun

/-! ### Atomics (R267 to R271) -/

def atBytes (f : AtF) : Nat := if f.w64 then 8 else 4
def atForm (f : AtF) (cas ret : Bool) : Form :=
  ⟨.atom f.opr.toNat (atBytes f) cas ret, atBytes f, if f.cls then 4 else 0, if f.opn then 4 else 0, 0, false, true, true⟩
/-- The value of k registers of a vector destination from register i on. -/
def vdWide (s : State) (w : Wave) (d : VDst) (i k l : Nat) : Nat × Bool := wide (fun j => readV s w (effV s w d + i + j) l) k

def execAtom (c : Cm) (d : VDst) (a : GAddr) (f : AtF) (off : BitVec 24) (s : State) : Host.Outcome State Fault Refusal :=
  access s (.atom c d a f off) c (atForm f false true)
    (fun s i => capLanes i (globAt s i.w a off) (vdWide s i.w d 0 (atRegs f)) (fun _ => noData)) (vRun d (atRegs f))
def execAcas (c : Cm) (d : VDst) (a : GAddr) (f : AtF) (off : BitVec 24) (s : State) : Host.Outcome State Fault Refusal :=
  access s (.acas c d a f off) c (atForm f true true)
    (fun s i => capLanes i (globAt s i.w a off) (vdWide s i.w d (atRegs f) (atRegs f)) (vdWide s i.w d 0 (atRegs f))) (vRun d (atRegs f))
/-- What a reduction's data operand is read as, for the pattern of a constant (Table 2.5a, Table 12.5). -/
def atTy (f : AtF) : OTy := if f.opr = 15 then .bf16 else if f.opr = 14 then .f16 else if 11 ≤ f.opr.toNat then .f32 else .int
def execRed (c : Cm) (d : VSrc) (a : GAddr) (f : AtF) (off : BitVec 24) (s : State) : Host.Outcome State Fault Refusal :=
  access s (.red c d a f off) c (atForm f false false)
    (fun s i => capLanes i (globAt s i.w a off) (fun l => wide (fun k => vsrc s i.w (atTy f) d k l) (atRegs f)) (fun _ => noData)) noRun
def execRedb (c : Cm) (d : VSrc) (a : GAddr) (f : AtF) (off : BitVec 24) (s : State) : Host.Outcome State Fault Refusal :=
  access s (.redb c d a f off) c (atForm f false false)
    (fun s i => capLanes i (globAt s i.w a off) (fun l => wide (fun k => vsrc s i.w (atTy f) d k l) (atRegs f)) (fun _ => noData)) noRun
def execSatom (c : Cm) (d a : SReg) (f : AtF) (off : BitVec 24) (s : State) : Host.Outcome State Fault Refusal :=
  access s (.satom c d a f off) c { atForm f false true with scalar := true }
    (fun s i => capOne i (globAt s i.w (.sc a) off 0) (wide (fun k => readS s i.w (d.toNat + k)) (atRegs f))) (sRun d (atRegs f))
/-- lda (R271). -/
def execLda (c : Cm) (d : VDst) (a : GAddr) (f : AtF) (off : BitVec 24) (s : State) : Host.Outcome State Fault Refusal :=
  access s (.lda c d a f off) c ⟨.lda (atBytes f), atBytes f, 0, if f.opn then 4 else 0, 0, false, false, true⟩
    (fun s i => capLanes i (globAt s i.w a off) (fun _ => noData) (fun _ => noData)) (vRun d (atRegs f))

/-! ### phase (R282, R283) -/

/-- A close of the split: what its lanes' later stores wait for is noted in the wave, whichever split those lanes are in then. -/
def closeSplit (s : State) (i : Issue) (scp : Nat) : State × List Nat :=
  let r := closeFor s i scp
  (r.1.updWave i.u.w (fun w => { w with
    fences := w.fences.filter (fun f => !finished r.1 f.1) ++ r.2.map (fun o => (o, i.sp.mask)) }), r.2)
def execPhase (c : Cm) (scp : BitVec 3) (cls opn : Bool) (s : State) : Host.Outcome State Fault Refusal :=
  issueOp s (.phase c scp cls opn) c 1 (fun s i =>
    if i.e = 0 then some s
    else if fenced s i then none
    else
      let r := if cls then closeSplit s i scp.toNat else (s, [])
      some (if opn then openFor r.1 i scp.toNat r.2 else r.1))

/-! ### wait (R246 to R249) -/

/-- A word at its home slice: value, cause. A poisoned line reads as zero (R257). -/
def homeWord (s : State) (asid va : Nat) : State × W32 × Bool × Nat :=
  match homeLoad s asid va 4 .rd with
  | (s, d, psn, c) => (s, if psn then 0 else BitVec.ofNat 32 (leVal d), psn, c)
/-- Slice of a word: the slice that homes its channel. -/
def sliceAt (s : State) (asid va : Nat) : Nat := sliceOf (if inWindow asid va then winChan va else (s.home asid va).getD 0)
/-- An earlier store, atomic or reduction of a core to bytes is not yet performed (R248); what a replay queue holds has not been issued
again. -/
def bytesBusy (s : State) (r : WaveRef) (asid va n before : Nat) : Bool :=
  s.ops.any (fun (o : Nat × Op) => decide (o.1 < before) && o.2.w.die == r.die && o.2.w.core == r.core && o.2.asid == asid && o.2.space == .glob
    && !o.2.inRq && isStoreKind o.2.kind && o.2.lanes.any (fun l => !l.fin && l.cause == 0 && decide (l.addr < va + n) && decide (va < l.addr + opBytes o.2.kind)))
/-- Entries of a slice's watch table in use (R245). -/
def watchCount (s : State) (sl : Nat) : Nat := (s.watches.filter (fun x => x.2.slice == sl)).length
/-- Arm a watch entry for a target, or answer that the table is full. -/
def armWatch (s : State) (asid va : Nat) (cond : WCond) (val : W32) (t : WTarget) : State × Bool :=
  let sl := sliceAt s asid va
  if Config.watchEntries ≤ watchCount s sl then (s, false)
  else ({ s with nextId := s.nextId + 1, watches := s.watches ++ [(s.nextId, ⟨sl, asid, va, cond, val, t⟩)] }, true)
/-- The registers a wait writes: D the value observed, PQ the condition in every lane of E. A word on a poisoned line gives D poison and 0 (R257), and PQ
the condition of that 0, without poison (entry 72: the model's choice). -/
def waitRegs (s : State) (r : WaveRef) (o : Nat) (pq : PReg) (d : SReg) (v : Val) (ok : Bool) : State :=
  giveP (giveS s r o d.toNat v) r o pq ok
/-- wait (R246, R247). That its first read does not wait for an open of the wave that has not begun, as its loads do (R280), is the model's choice
(entry 26). -/
def execWait (c : Cm) (pq : PReg) (d a : SReg) (b t : SSrc) (cond : WCond) (opn : Bool) (s : State) : Host.Outcome State Fault Refusal :=
  issueOp s (.wait c pq d a b t cond opn) c 1 (fun s i =>
    if i.e = 0 then some s
    else
      let va := sreg64 s i.w a
      let x := ssrc s i.w b
      let tm := ssrc s i.w t
      let bad := fun k => some (faultThen s i false (faultMask i.e k) (fun s _ => s))
      if va.2 || x.psn || tm.psn then bad 0x104
      else if va.1.toNat % 4 ≠ 0 then bad 0x105
      else if 2 ^ 56 ≤ va.1.toNat then bad 0x102
      else if bytesBusy s i.u.w i.w.asid va.1.toNat 4 s.nextId then none
      else
        match homeWord s i.w.asid va.1.toNat with
        | (s, v, psn, k) =>
          if k ≠ 0 then some (faultThen s i false (faultMask i.e k) (fun s _ => s))
          else
            let id := s.nextId
            let s := s.newOp { blankOp i .result [] with fin := true, left := true, reg := d.toNat }
            let s := expectP (expect s i.u.w .s d.toNat 1 1 id) i.u.w pq i.e id
            let ok := wcond cond v x.v
            if ok || tm.v = 0 then
              let s := waitRegs s i.u.w id pq d ⟨v, psn⟩ ok
              some (settlePoint (if opn then openFor s i 4 [] else s) i.u.w)
            else
              let s := s.updOp id (fun o => { o with fin := false })
              let arm := armWatch s i.w.asid va.1.toNat cond x.v (.split i.u)
              let till := if tm.v = 0xFFFFFFFF then none else some (s.cyc i.u.w.die + tm.v.toNat)
              some (arm.1.updSplit i.u (fun y => { y with
                st := .waitWatch va.1.toNat cond x.v till (!arm.2) (s.cyc i.u.w.die + 1024) pq d i.e opn id none })))

end Sys2Proof.Machine
end

