-- ==== Sys2Proof/Machine/Barrier.lean ====
section
/-! DEFINITION. The barrier instructions 0xB0 to 0xBA (R226 to R244) and the events of the barrier file. -/

namespace Sys2Proof.Machine

/-- An operation of the wave at a slot of its own block is still on its way: a credit, or an arrival that waits for stores. -/
def slotOut (s : State) (w : Wave) (slot : Nat) : Bool :=
  syncsOut s w (· == slot)
  || s.ops.any (fun (o : Nat × Op) => o.2.wuid == w.uid && (match o.2.kind with
    | .cmd (.byteCredit n rank _ _) => n == slot && peerBlock s w.block rank == some w.block
    | _ => false))
  || s.msgs.any (fun m => match m.2 with
    | .credit b cp n _ _ src => b == w.block && cp == w.copy && n == slot && src == w.uid
    | _ => false)
/-- A barrier instruction on slot A: split-scalar, and behind the wave's own operations at the slot, since the barrier operations of one wave
take effect at a slot in issue order (R244). -/
def issueBar (s : State) (ins : Instr) (c : Cm) (a : SSrc) (body : State → Issue → State) : Host.Outcome State Fault Refusal :=
  issueOp s ins c 1 (fun s i =>
    if i.e = 0 then some s else if slotOut s i.w (ssrc s i.w a).v.toNat then none else some (body s i))
/-- R228 and R244: a poisoned operand faults E; a slot at or above BARS, a kind not accepted or a parameter out of its limits traps. -/
def barGate (s : State) (i : Issue) (psn : Bool) (slot : W32) (kinds : Nat → Bool) (bad : Bool) (k : State → Issue → State) : State :=
  poisonGate s i psn (fun s i =>
    if barsOf s i.w.block ≤ slot.toNat ∨ !kinds (s.bar i.w.block i.w.copy slot.toNat).kind ∨ bad then trapIs s i 0x303 0
    else k s i)
def anyKind (_ : Nat) : Bool := true

/-- bar.init.lane (R229). -/
def execBarInitLane (c : Cm) (a b : SSrc) (s : State) : Host.Outcome State Fault Refusal :=
  issueBar s (.barInitLane c a b) c a (fun s i =>
    let x := ssrc s i.w a
    let y := ssrc s i.w b
    barGate s i (x.psn || y.psn) x.v anyKind (decide (waitersOf s i.w.block i.w.copy x.v.toNat ≠ 0)) (fun s i =>
      let n := lanesIn s i.w.block i.w.copy (fun w => y.v.getLsbD w)
      s.setBar i.w.block i.w.copy x.v.toNat { Bar.fresh with kind := 1, wmask := y.v, exp := n }))
/-- bar.init.byte (R233): counts already credited to an UNINIT slot stay. -/
def execBarInitByte (c : Cm) (a b : SSrc) (s : State) : Host.Outcome State Fault Refusal :=
  issueBar s (.barInitByte c a b) c a (fun s i =>
    let x := ssrc s i.w a
    let y := ssrc s i.w b
    barGate s i (x.psn || y.psn) x.v anyKind (decide (waitersOf s i.w.block i.w.copy x.v.toNat ≠ 0 ∨ 256 ≤ y.v.toNat)) (fun s i =>
      let o := s.bar i.w.block i.w.copy x.v.toNat
      s.setBar i.w.block i.w.copy x.v.toNat
        { Bar.fresh with kind := 2, named := y.v.toNat, cnt := if o.kind = 0 then o.cnt else [] }))
/-- bar.init.chunk (R234). -/
def execBarInitChunk (c : Cm) (a : SSrc) (s : State) : Host.Outcome State Fault Refusal :=
  issueBar s (.barInitChunk c a) c a (fun s i =>
    let x := ssrc s i.w a
    barGate s i x.psn x.v anyKind (decide (waitersOf s i.w.block i.w.copy x.v.toNat ≠ 0)) (fun s i =>
      s.setBar i.w.block i.w.copy x.v.toNat { Bar.fresh with kind := 3 }))

/-- bar.arr.lane (R238). -/
def execBarArrLane (c : Cm) (d : SReg) (a : SSrc) (s : State) : Host.Outcome State Fault Refusal :=
  issueBar s (.barArrLane c d a) c a (fun s i =>
    let x := ssrc s i.w a
    let n := x.v.toNat
    barGate s i x.psn x.v (· == 1) (!(s.bar i.w.block i.w.copy n).wmask.getLsbD i.w.waveId) (fun s i =>
      let ph := (s.bar i.w.block i.w.copy n).ph
      arriveLanes (writeS s i.u.w d.toNat ⟨if ph then 1 else 0, false⟩ 4) i.w.block i.w.copy n (popcount (i.e &&& ~~~i.w.wdm))))

/-- The wave's arrivals at a slot that are held: its later credit there takes effect after them (R244). -/
def syncsAt (s : State) (w : Wave) (slot : Nat) : List Nat :=
  opsOf s w.uid (fun k => match k with
    | .cmd (.barSync n _ _) => n == slot
    | .cmd (.cbar n _ _) => n == slot
    | _ => false)
/-- A credit leaves a wave for a slot of the group (R232, R238). -/
def sendCredit (s : State) (b cp rank slot prod n src : Nat) : State :=
  match peerBlock s b rank with
  | some pb => { s with nextId := s.nextId + 1, msgs := s.msgs ++ [(s.nextId, .credit pb cp slot prod n src)] }
  | none => s
/-- The effect of a bar.arr.byte once the wave's scratchpad and window stores are performed. -/
def runByteCredit (rank slot prod n : Nat) (s : State) (o : Nat) : State :=
  match s.op o with
  | some x => match s.wave x.w with
    | some w => endOp (sendCredit s w.block w.copy rank slot prod n w.uid) o
    | none => endOp s o
  | none => s
def execBarArrByte (c : Cm) (a b e : SSrc) (s : State) : Host.Outcome State Fault Refusal :=
  issueS s (.barArrByte c a b e) c (fun s i =>
    let x := ssrc s i.w a
    let y := ssrc s i.w b
    let z := ssrc s i.w e
    let rank := bits y.v.toNat 8 2
    let prod := bits y.v.toNat 0 3
    barGate s i (x.psn || y.psn || z.psn) x.v anyKind
      (decide (bits y.v.toNat 3 5 ≠ 0 ∨ 1024 ≤ y.v.toNat ∨ (groupOf s i.w.block).2.1 ≤ rank)) (fun s i =>
        if (match peerBlock s i.w.block rank with | some pb => retired s pb i.w.copy | none => true) then
          faultThen s i false (faultMask i.e 0x107) (fun s _ => s)
        else
          let after := (opsOf s i.w.uid isStoreKind).filter (fun o => (s.op o).any (fun q => q.space != .glob))
            ++ opsOf s i.w.uid (fun k => match k with | .cmd (.byteCredit _ _ _ _) => true | _ => false)
            ++ (if peerBlock s i.w.block rank = some i.w.block then syncsAt s i.w x.v.toNat else [])
          command s i (.byteCredit x.v.toNat rank prod z.v.toNat) false [] after none 0 (runByteCredit rank x.v.toNat prod z.v.toNat)))

/-- The split waits on a slot for a phase to end; it goes on at once where it has ended (R236), and that wait is a settle point (R45). -/
def waitPhase (s : State) (u : SplitRef) (b cp slot : Nat) (token opn : Bool) : State :=
  let x := s.bar b cp slot
  if x.ph ≠ token then (if opn then s.updSplit u (fun y => { y with st := .waitBar slot token true true }) else settlePoint s u.w)
  else s.updSplit u (fun y => { y with st := .waitBar slot token opn false })
/-- bar.wait (R239). -/
def execBarWait (c : Cm) (a b : SSrc) (gl : Bool) (s : State) : Host.Outcome State Fault Refusal :=
  issueBar s (.barWait c a b gl) c a (fun s i =>
    let x := ssrc s i.w a
    let y := ssrc s i.w b
    let n := x.v.toNat
    barGate s i (x.psn || y.psn) x.v (fun k => k == 1 || k == 2 || k == 4) (decide (2 ≤ y.v.toNat)) (fun s i =>
      if (s.bar i.w.block i.w.copy n).ph ≠ y.v.getLsbD 0 then settlePoint (if gl then openFor s i 4 [] else s) i.u.w
      else s.updSplit i.u (fun z => { z with st := .waitBar n (y.v.getLsbD 0) gl false })))

/-- Arrive at a slot and wait for the phase to end (R239). -/
def arriveWait (s : State) (u : SplitRef) (w : Wave) (e : Mask) (slot : Nat) (opn : Bool) : State :=
  let ph := (s.bar w.block w.copy slot).ph
  waitPhase (arriveLanes s w.block w.copy slot (popcount (e &&& ~~~w.wdm))) u w.block w.copy slot ph opn
/-- The effect of bar.sync or cbar once its close, or its wait for scratchpad and window stores, is done. The slot's kind is not looked at again: where
another wave has initialised it meanwhile, the arrival is that of the kind it has now (entry 71: the model's choice). -/
def runSync (slot : Nat) (opn cluster : Bool) (s : State) (o : Nat) : State :=
  match s.op o with
  | some x =>
    let u : SplitRef := ⟨x.w, x.k⟩
    let s := endOp (s.updSplit u (fun y => { y with hold := .none })) o
    match s.wave x.w with
    | some w =>
      let s := if cluster then becomeCluster s w.block w.copy slot else s
      tidy (arriveIf (arriveWait s u w x.e slot opn) u) x.w
    | none => s
  | none => s
/-- Hold the split until the operations named are finished, then arrive. -/
def syncAfter (s : State) (i : Issue) (cmd : Cmd) (after : List Nat) (slot : Nat) (opn cluster : Bool) : State :=
  if after.all (finished s) then
    let s := if cluster then becomeCluster s i.w.block i.w.copy slot else s
    arriveWait s i.u i.w i.e slot opn
  else
    let id := s.nextId
    (s.newOp (blankOp i (.cmd cmd) after)).updSplit i.u (fun y => { y with hold := .op id })
/-- bar.sync (R239): with `.gl` a device-scope close first and an open after. -/
def execBarSync (c : Cm) (a : SSrc) (gl : Bool) (s : State) : Host.Outcome State Fault Refusal :=
  issueBar s (.barSync c a gl) c a (fun s i =>
    let x := ssrc s i.w a
    let n := x.v.toNat
    barGate s i x.psn x.v (· == 1) (!(s.bar i.w.block i.w.copy n).wmask.getLsbD i.w.waveId) (fun s i =>
      syncAfter s i (.barSync n 0 gl) (if gl then opsOf s i.w.uid isStoreKind else []) n gl false))
/-- bar.exp (R240). -/
def execBarExp (c : Cm) (d : SReg) (a b e : SSrc) (s : State) : Host.Outcome State Fault Refusal :=
  issueBar s (.barExp c d a b e) c a (fun s i =>
    let x := ssrc s i.w a
    let y := ssrc s i.w b
    let z := ssrc s i.w e
    let n := x.v.toNat
    let p := y.v.toNat
    barGate s i (x.psn || y.psn || z.psn) x.v (· == 2) (decide (8 ≤ p)) (fun s i =>
      let q := s.bar i.w.block i.w.copy n
      let s := writeS s i.u.w d.toNat ⟨if q.ph then 1 else 0, false⟩ 4
      byteCheck (s.setBar i.w.block i.w.copy n
        { q with expi := tset q.expi p (bump (tget 0 q.expi p) z.v.toNat), epost := Nat.lor q.epost (2 ^ p) }) i.w.block i.w.copy n))
/-- bar.wd (R241), behind the wave's own arrivals at any slot (R244). -/
def execBarWd (c : Cm) (s : State) : Host.Outcome State Fault Refusal :=
  issueOp s (.barWd c) c 1 (fun s i =>
    if i.e = 0 then some s else if syncsOut s i.w (fun _ => true) then none else some (withdraw s i.u.w i.e))
/-- bar.rd (R242). -/
def execBarRd (c : Cm) (d : SReg) (a b : SSrc) (s : State) : Host.Outcome State Fault Refusal :=
  issueBar s (.barRd c d a b) c a (fun s i =>
    let x := ssrc s i.w a
    let y := ssrc s i.w b
    barGate s i (x.psn || y.psn) x.v anyKind false (fun s i =>
      writeS s i.u.w d.toNat ⟨BitVec.ofNat 32 (barWord s i.w.block i.w.copy x.v.toNat y.v.toNat), false⟩ 4))
/-- cmap.wait (R243). -/
def execCmapWait (c : Cm) (a : SSrc) (b : SPair) (s : State) : Host.Outcome State Fault Refusal :=
  issueBar s (.cmapWait c a b) c a (fun s i =>
    let x := ssrc s i.w a
    let m := spair s i.w b
    barGate s i (x.psn || m.2) x.v (· == 3) false (fun s i =>
      if (s.bar i.w.block i.w.copy x.v.toNat).map &&& m.1 = m.1 then settlePoint s i.u.w
      else s.updSplit i.u (fun y => { y with st := .waitMap x.v.toNat m.1 false })))
/-- cmap.test (R243). -/
def execCmapTest (c : Cm) (pq : PReg) (a : SSrc) (b : SPair) (s : State) : Host.Outcome State Fault Refusal :=
  issueBar s (.cmapTest c pq a b) c a (fun s i =>
    let x := ssrc s i.w a
    let m := spair s i.w b
    barGate s i (x.psn || m.2) x.v (· == 3) false (fun s i =>
      let t := decide ((s.bar i.w.block i.w.copy x.v.toNat).map &&& m.1 = m.1)
      writeP s i.u.w pq i.e (fun _ => (t, false)) 4))
/-- cmap.clr (R243). -/
def execCmapClr (c : Cm) (a : SSrc) (b : SPair) (s : State) : Host.Outcome State Fault Refusal :=
  issueBar s (.cmapClr c a b) c a (fun s i =>
    let x := ssrc s i.w a
    let m := spair s i.w b
    barGate s i (x.psn || m.2) x.v (· == 3) false (fun s i =>
      let q := s.bar i.w.block i.w.copy x.v.toNat
      s.setBar i.w.block i.w.copy x.v.toNat { q with map := q.map &&& ~~~m.1 }))
/-- cbar (R239): after the wait of WS for scratchpad and window stores; with `.gl` after a device-scope close. -/
def execCbar (c : Cm) (a : SSrc) (gl : Bool) (s : State) : Host.Outcome State Fault Refusal :=
  issueBar s (.cbar c a gl) c a (fun s i =>
    let x := ssrc s i.w a
    let n := x.v.toNat
    barGate s i x.psn x.v (fun k => k == 0 || k == 4) false (fun s i =>
      let st := opsOf s i.w.uid isStoreKind
      let after := if gl then st else st.filter (fun o => (s.op o).any (fun q => q.space != .glob))
      syncAfter s i (.cbar n gl 0) after n gl true))

/-! ### Events -/

/-- A frame for the device's own opens: the split as it stands. -/
def issueAt (s : State) (u : SplitRef) : Option Issue :=
  (s.wave u.w).map (fun w => ⟨u, w, w.split u.k, 0, 0, (w.split u.k).mask, 0, none⟩)
/-- A split leaves a wait state and goes on, after what is left of its S (R43). -/
def wakeSplit (s : State) (u : SplitRef) : State := tidy (arriveIf (s.updSplit u (fun x => { x with st := x.goOn })) u) u.w
/-- A wait is over: a settle point (R45); the split goes on, with the open that follows its wait. -/
def resumeSplit (s : State) (u : SplitRef) (opn : Bool) : State :=
  let s := settlePoint s u.w
  wakeSplit (if opn then (match issueAt s u with | some i => openFor s i 4 [] | none => s) else s) u
/-- BAR_WAKE (R236, R243). -/
def execBarWake (u : SplitRef) (s : State) : Host.Outcome State Fault Refusal :=
  .next (match (s.split u).st with
    | .waitBar _ _ o true => resumeSplit s u o
    | .waitMap _ _ true => resumeSplit s u false
    | _ => s)
/-- SLEEP_EXPIRY (R199): the clause waits are evaluated again. -/
def execSleepExpiry (u : SplitRef) (s : State) : Host.Outcome State Fault Refusal :=
  .next (match (s.split u).st with
    | .sleep t => if s.cyc u.w.die < t then s else wakeSplit (s.updSplit u (fun x => { x with recheck := x.hdrw.isSome })) u
    | _ => s)
/-- The destination and source of a message: the block's copy, and the block of a signal or the wave of a credit. R22 does not say which message class
credits and signals use, nor whether a block's waves share a source router: that credits keep their order per wave, signals per block, and a credit
none against a signal is the model's choice (entry 75). -/
def msgRoute : Msg → Nat × Nat × Nat
  | .credit b cp _ _ _ src => (b, cp, 2 * src)
  | .signal b cp _ _ src => (b, cp, 2 * src + 1)
/-- A message may be delivered: no earlier message of its source and destination is still on the way (R22, R244). -/
def msgFirst (s : State) (m : Nat) (x : Msg) : Bool := s.msgs.all (fun y => m ≤ y.1 || msgRoute y.2 != msgRoute x)
/-- BYTE_CREDIT (R232). -/
def execByteCredit (m : Nat) (s : State) : Host.Outcome State Fault Refusal :=
  .next (match tfind s.msgs m with
    | some (.credit b cp n p k src) =>
      if msgFirst s m (.credit b cp n p k src) && !savedOut s b cp then creditBytes { s with msgs := tdel s.msgs m } b cp n p k else s
    | _ => s)
/-- CLUSTER_SIGNAL (R235). -/
def execClusterSignal (m : Nat) (s : State) : Host.Outcome State Fault Refusal :=
  .next (match tfind s.msgs m with
    | some (.signal b cp n q src) =>
      if msgFirst s m (.signal b cp n q src) && !savedOut s b cp then peerSignal { s with msgs := tdel s.msgs m } b cp n q else s
    | _ => s)

end Sys2Proof.Machine
end

