-- ==== Sys2Proof/Machine/Capacity.lean ====
section
/-! DEFINITION. The capacity record (R376, Table 19.4), read from the state of the dies, links and channels, and the count of its changes. -/

namespace Sys2Proof.Machine

def ratGts : LinkRate → Nat
  | .g32 => 32
  | .g24 => 24
  | .g16 => 16
  | .g12 => 12
  | .g8 => 8
def State.link (s : State) (l : LinkRef) : Link := tget Link.fresh s.links l
/-- A chiplet that the record counts as in service: it leaves the record when it reaches QUIESCED (Table 19.2). -/
def inService (s : State) (n : Nat) : Bool := (s.die n).st == .active || (s.die n).st == .fencing
/-- GB/s per direction of one module at its rate (R357); a link in QUIESCED or DOWN counts as zero (R360). -/
def linkGb (l : Link) : Nat :=
  match l.st with
  | .quiesced => 0
  | .down => 0
  | _ => 8 * ratGts l.rate
/-- Modules of a chiplet: three per router on a compute die, two elsewhere (R357). -/
def modulesOf (ch : Nat) : List LinkRef :=
  (List.range 4).flatMap (fun r => (List.range (if ch < 18 then 3 else 2)).map (fun m => ⟨ch, r, m⟩))
/-- The die that holds a logical id, whatever its state. -/
def State.holder (s : State) (lid : Nat) : Option Nat := (List.range 18).find? (fun d => (s.die d).lid == some lid)
def lidActive (s : State) (lid : Nat) : Bool := (s.dieOfLid lid).isSome
def dieGb (s : State) (lid : Nat) : Nat :=
  match s.holder lid with
  | none => 0
  | some d => ((modulesOf d).map (fun l => linkGb (s.link l))).foldl (· + ·) 0
def recActive (s : State) (lid : Nat) : Bool := (s.holder lid).any (inService s)
/-- CLKMHZ as last refreshed (R376); 0 where the die is not in the record. -/
def clkOf (s : State) (lid : Nat) : Nat := if recActive s lid then tget 1100 s.capMhz lid else 0
def bitsOf (n : Nat) (f : Nat → Bool) : Nat := (List.range n).foldl (fun x i => if f i then x + 2 ^ i else x) 0
def chanActive (s : State) (c : Nat) : Bool := (s.chan c).st == .active
def nChanActive (s : State) : Nat := ((List.range Config.nChan).filter (chanActive s)).length
/-- 64-bit word i of the record (bytes 8i to 8i + 7). -/
def capWord64 (s : State) (i : Nat) : Nat :=
  if i = 0 then s.gen % 2 ^ 64
  else if i = 1 then bitsOf 16 (recActive s) * 2 ^ 48 + bitsOf 18 (fun d => (s.die d).st == .spareOff)
  else if i = 2 then nChanActive s * Config.chanBytes
  else if i = 3 then
    nChanActive s * 2 ^ 32 + 131072 * ((List.range 4).filter (fun k => inService s (0x20 + k))).length
  else if i = 4 ∨ i = 5 then leVal ((List.range 8).map (fun k => if recActive s (8 * (i - 4) + k) then 40 else 0))
  else if 6 ≤ i ∧ i < 10 then (List.range 4).foldl (fun x k => x + clkOf s (4 * (i - 6) + k) * 2 ^ (16 * k)) 0
  else if 10 ≤ i ∧ i < 14 then (List.range 4).foldl (fun x k => x + dieGb s (4 * (i - 10) + k) % 65536 * 2 ^ (16 * k)) 0
  else if i = 14 then Config.mgmtVa
  else if 16 ≤ i ∧ i < 24 then bitsOf 64 (fun k => chanActive s (64 * (i - 16) + k))
  else 0
/-- 32-bit word w (R377). -/
def capWord (s : State) (w : Nat) : W32 :=
  if 64 ≤ w then 0 else BitVec.ofNat 32 (capWord64 s (w / 2) / 2 ^ (32 * (w % 2)))
/-- A change of the record (R376): GEN rises, and the signal words are to be written. -/
def capChange (s : State) : State := { s with gen := s.gen + 1, capPending := true, capAt := s.now }

end Sys2Proof.Machine
end

