-- ==== Sys2Proof/Machine/Curve.lean ====
section
/-! DEFINITION. The public-key side of the Xeino root, by the public standards the spec names: the curve P-521, ECDSA (R184), and the
opening of a wrapped key blob with ECDH, HKDF-SHA-512 and AES-256 key wrap with padding (R380). Their steps are taken from the standards
(entry 15, PRESUMED). -/

namespace Sys2Proof.Machine

/-! ### P-521 -/

def curveP : Nat := 2 ^ 521 - 1
def curveB : Nat := 0x0051953EB9618E1C9A1F929A21A0B68540EEA2DA725B99B315F3B8B489918EF109E156193951EC7E937B1652C0BD3BB1BF073573DF883D2C34F1EF451FD46B503F00
/-- The order of the base point. -/
def curveN : Nat := 0x1fffffffffffffffffffffffffffffffffffffffffffffffffffffffffffffffffa51868783bf2f966b7fcc0148f709a5d03bb5c9b8899c47aebb6fb71e91386409
/-- b^e mod m over bits k − 1 down to 0 of e. -/
def powMod (m b e : Nat) : Nat → Nat → Nat
  | 0, r => r
  | k + 1, r => powMod m b e k (if e.testBit k then r * r % m * b % m else r * r % m)
/-- The inverse modulo a prime below 2^521. -/
def invMod (m a : Nat) : Nat := powMod m (a % m) (m - 2) 521 1
/-- A point with its coordinates, or none for the point at infinity. -/
abbrev Point := Option (Nat × Nat)
def basePoint : Point := some
  (0x00C6858E06B70404E9CD9E3ECB662395B4429C648139053FB521F828AF606B4D3DBAA14B5E77EFE75928FE1DC127A2FFA8DE3348B3C1856A429BF97E7E31C2E5BD66,
   0x011839296A789A3BC0045C8A5FB42C7D1BD998F54449579B446817AFBD17273E662C97EE72995EF42640C550B9013FAD0761353C7086A272C24088BE94769FD16650)
def onCurve (x y : Nat) : Bool :=
  decide (x < curveP) && decide (y < curveP) && y * y % curveP == (x * x * x + (curveP - 3) * x + curveB) % curveP
def addPoint : Point → Point → Point
  | none, q => q
  | some a, none => some a
  | some (x, y), some (u, v) =>
    if x = u ∧ (y + v) % curveP = 0 then none
    else
      let l := if x = u then (3 * x * x + (curveP - 3)) * invMod curveP (2 * y) % curveP
               else (v + (curveP - y)) * invMod curveP (u + (curveP - x)) % curveP
      let z := (l * l + (curveP - x) + (curveP - u)) % curveP
      some (z, (l * (x + (curveP - z)) + (curveP - y)) % curveP)
/-- e · a over bits k − 1 down to 0 of e, from r on. -/
def mulPoint (a : Point) (e : Nat) : Nat → Point → Point
  | 0, r => r
  | k + 1, r => mulPoint a e k (if e.testBit k then addPoint (addPoint r r) a else addPoint r r)
def timesPoint (e : Nat) (a : Point) : Point := mulPoint a e 521 none
def beBytes (n v : Nat) : List Byte := (leBytes n v).reverse
/-- The 133 bytes of an uncompressed point. -/
def pointBytes : Point → List Byte
  | some (x, y) => 0x04 :: (beBytes 66 x ++ beBytes 66 y)
  | none => List.replicate 133 0
/-- The point of 133 bytes, none where they are no valid uncompressed point. -/
def pointOf (b : List Byte) : Point :=
  let x := beVal ((b.drop 1).take 66)
  let y := beVal ((b.drop 67).take 66)
  if b.headD 0 = 0x04 ∧ onCurve x y then some (x, y) else none

/-! ### The device's key pair and its signatures (R184, R380) -/

/-- The device's private key, in 1 to n − 1. -/
def deviceKey : Nat := 1 + Config.deviceKey % (curveN - 1)
/-- The device's public key as GETKEY writes it. -/
def devicePoint : List Byte := pointBytes (timesPoint deviceKey basePoint)
/-- One attempt at an ECDSA signature of a digest with a nonce k: r and s, which are not zero in a signature. -/
def signWith (digest : List Byte) (k : Nat) : Nat × Nat :=
  let r := match timesPoint k basePoint with
    | some (x, _) => x % curveN
    | none => 0
  (r, invMod curveN k * (beVal digest + r * deviceKey) % curveN)
/-- ECDSA over a digest (R184); nonces are drawn until neither number is zero. -/
def signDigest (digest : List Byte) (t : Nat) : Nat → Nat × Nat
  | 0 => signWith digest (1 + Config.nonce digest t 0 % (curveN - 1))
  | n + 1 =>
    let x := signWith digest (1 + Config.nonce digest t (n + 1) % (curveN - 1))
    if x.1 = 0 ∨ x.2 = 0 then signDigest digest t n else x
/-- SIGR and SIGS of a job record: little-endian integers of 66 bytes. -/
def signatureBytes (digest : List Byte) (t : Nat) : List Byte :=
  let x := signDigest digest t 15
  leBytes 66 x.1 ++ leBytes 66 x.2

/-! ### HKDF-SHA-512 and the key wrap (R380) -/

def padKey (k : List Byte) : List Byte :=
  let h := if 128 < k.length then sha512 k else k
  (h ++ List.replicate 128 0).take 128
def hmac512 (k m : List Byte) : List Byte :=
  sha512 ((padKey k).map (· ^^^ 0x5C) ++ sha512 ((padKey k).map (· ^^^ 0x36) ++ m))
/-- "KY-ILD16 slot" and the ASID, whose bytes in info the spec does not give (entry 15). -/
def wrapInfo (asid : Nat) : List Byte :=
  [0x4B, 0x59, 0x2D, 0x49, 0x4C, 0x44, 0x31, 0x36, 0x20, 0x73, 0x6C, 0x6F, 0x74] ++ Config.asidInfo asid
/-- The wrapping key: HKDF with no salt over the shared secret, 32 bytes. -/
def wrapKey (secret : List Byte) (asid : Nat) : List Byte :=
  (hmac512 (hmac512 (List.replicate 64 0) secret) (wrapInfo asid ++ [0x01])).take 32
/-- One step of the unwrapping: the integrity block and the n blocks, with the step's number t = n · j + i. -/
def unwrapStep (ks : List (List Byte)) (n : Nat) (st : List Byte × List (List Byte)) (t : Nat) : List Byte × List (List Byte) :=
  let i := (t - 1) % n
  let b := aesDec ks (xorBytes st.1 (beBytes 8 t) ++ st.2.getD i [])
  (b.take 8, lset st.2 i (b.drop 8))
/-- RFC 5649: the key of len bytes, a multiple of 8, that was wrapped, or none where its check fails. -/
def unwrapPadded (key c : List Byte) (len : Nat) : Option (List Byte) :=
  let n := c.length / 8 - 1
  let blocks := (List.range n).map (fun i => (c.drop (8 * (i + 1))).take 8)
  let r := ((List.range (6 * n)).reverse.map (· + 1)).foldl (unwrapStep (roundKeys key) n) (c.take 8, blocks)
  if r.1 = [0xA6, 0x59, 0x59, 0xA6] ++ beBytes 4 len ∧ len = 8 * n then some r.2.flatten else none
/-- The key pair of a blob for an ASID (R380): none for an invalid point or a failed unwrap. -/
def unwrapKey (blob : List Byte) (asid : Nat) : Option (List Byte) :=
  match timesPoint deviceKey (pointOf ((blob.drop 0x08).take 133)) with
  | none => none
  | some (x, _) => unwrapPadded (wrapKey (beBytes 66 x) asid) ((blob.drop 0x8D).take 72) 64

end Sys2Proof.Machine
end

