-- ==== Sys2Proof/Machine/Home.lean ====
section
/-! DEFINITION. The memory side: a request of an operation performed at its home slice or at a scratchpad, fills, opens, statuses
and results coming back (R253, R254, R263 to R271, R274 to R280, R298, R301, R302, R308). -/

namespace Sys2Proof.Machine

def isSeal (k : OpKind) : Bool := k == .seal || k == .unseal
/-- Lanes of an operation to be performed in a line. -/
def lineLanes (x : Op) (ln : Nat) : List LaneA := x.lanes.filter (pendingLane ln)
/-- A request may go out: what the operation waits for is finished, and it is not in a replay queue. -/
def mayAct (s : State) (x : Op) : Bool := accepted s x && !x.inRq
/-- A request may be performed: its statuses are merged, and its twin entry is matched with this copy performing. Before that it has no effect
in any lane, since another lane's fault may find no place (R152). -/
def mayRequest (s : State) (x : Op) : Bool := mayAct s x && x.told && (x.twin == 0 || x.twin == 2)
/-- The lanes of a twin's performed operation are the trailing operation's too (R353). -/
def mirror (s : State) (o : Nat) : State :=
  match s.op o with
  | some x =>
    if x.twin = 2 then
      s.updOp x.peer (fun y => { y with
        left := true, lanes := y.lanes.map (fun z => if z.cause ≠ 0 then z else (x.lanes.find? (fun q => q.lane == z.lane)).getD z) })
    else s
  | none => s
/-- An operation that writes no register ends when it is performed and its statuses have been merged. -/
def sweep (s : State) (o : Nat) : State :=
  match s.op o with
  | some x => if x.told && x.performed && !hasResult x.kind then endOp s o else s
  | none => s
/-- A lane whose check has passed and that cannot be performed after all, since its channel went out of service at once (R362) or its block group
was dropped: nobody waits for its status, so it is recorded, and what it would return is poison (entry 20). -/
def lateFaults (s : State) (o : Nat) : State :=
  match s.op o with
  | some x =>
    if !x.told then s
    else
      let bad := x.lanes.filter (fun l => l.cause != 0)
      let s := bad.foldl (fun s l => recordOp s x o 2 l.cause l.addr) s
      s.updOp o (fun x => { x with lanes := x.lanes.map (fun l => if l.cause ≠ 0 then { l with cause := 0, fin := true, got := 0, gpsn := true } else l) })
  | none => s
def afterPart (s : State) (o : Nat) : State :=
  let s := arriveResult (mirror (lateFaults s o) o) o
  match s.op o with
  | some x =>
    let s := if x.twin = 2 then arriveResult s x.peer else s
    sweep (if x.twin = 2 && x.performed then sweep s x.peer else s) o
  | none => s
/-- Replace the lanes of an operation; it has left the core. -/
def setLanes (s : State) (o : Nat) (f : LaneA → LaneA) : State :=
  s.updOp o (fun x => { x with lanes := x.lanes.map f, left := true })
def finLane (ln cause : Nat) (l : LaneA) : LaneA :=
  if pendingLane ln l then (if cause = 0 then { l with fin := true } else { l with cause := cause }) else l

/-! ### Stores -/

/-- What a store's lanes wait for: an earlier store or atomic of the core to a byte of them (R253; with the order of the leading copy's
issue in a twin, R355), or to the same scratchpad (R264); in a scratchpad an earlier load of a byte too (R276). A seal comes before the store's check
or after its performance (R298; checkBlocked), and is not waited for here. -/
def storeBlocked (s : State) (o : Nat) (x : Op) (ls : List LaneA) : Bool :=
  before s o x (fun y m => !trailing s y && ls.any (fun l =>
    if x.space = .glob then isStoreKind y.kind && !isSeal y.kind && shareByte s x l y m
    else y.space != .glob && ((isStoreKind y.kind && destBlock s y m == destBlock s x l) || shareByte s x l y m)))
/-- Lanes of a store that lie in one line, performed together (R256, R298); a store of all 128 bytes through the physical window
clears the line's poison (R309). -/
def storeLine (s : State) (asid ln n : Nat) (ls : List LaneA) (now : Bool) : State × Nat :=
  match reachLine (arriveOr now s asid (128 * ln)) asid (128 * ln) .wr with
  | (s, .bad c) => (s, c)
  | (s, .ok l) =>
    let cells := laneCells n ls
    let data := patchCells ln l.data cells
    let clear := inWindow asid (128 * ln) && coversLine cells ln
    let s := { s with slines := tset s.slines (asid, ln) { l with data := data, dirty := true, psn := l.psn && !clear } }
    let s := if clear then touchRow s l.chan (winOff (128 * ln)) none (some none) else s
    (ls.foldl (fun s x => matchWatches s asid x.addr n data) s, 0)

/-- Set or clear SEAL in the channel's translation cache, every slice line of the page and the table word, as one step; of a page in transit, in
the entry that its engine moves too (R374). -/
def putSeal (s : State) (ch asid vpn : Nat) (b : Bool) : State :=
  let k := s.chan ch
  let fix := fun (w0 : W64) => if b then w0 ||| (1#64 <<< 60) else w0 &&& ~~~(1#64 <<< 60)
  let s := s.setChan ch { k with tlb := k.tlb.map (fun t => if t.asid == asid && t.vpn == vpn then { t with w0 := fix t.w0 } else t) }
  let s := { s with slines := s.slines.map (fun (e : (Nat × Nat) × SLine) =>
    if e.1.1 == asid && vpnOf (e.1.2 * 128) == vpn && !inWindow asid (e.1.2 * 128) then (e.1, { e.2 with sealed := b }) else e) }
  let r := match s.inTransit asid vpn with
    | some (c, t) => (s.setChan c { s.chan c with transit := some { t with w0 := (fix (BitVec.ofNat 64 t.w0)).toNat } }, if t.step = 4 then t.dest else c)
    | none => (s, ch)
  let s := r.1
  let ch := r.2
  match walk s ch asid vpn with
  | (s, some (off, w0, _)) => (homeStore s 0 (windowVa ch off) (leBytes 8 (fix (BitVec.ofNat 64 w0)).toNat)).1
  | (s, none) => s

/-- A store request of one line at its home slice, its scratchpad or its peer. -/
def performStore (s : State) (o ln : Nat) (x : Op) (n : Nat) (now : Bool) : State :=
  let ls := lineLanes x ln
  if ls.isEmpty || !mayRequest s x || storeBlocked s o x ls || (!now && x.space == .glob && holdsBack s x.asid (128 * ln)) then s
  else if x.space = .glob then
    match storeLine s x.asid ln n ls now with
    | (s, c) =>
      let s := setLanes s o (finLane ln c)
      afterPart (if c = 0 then s else l1Drop s x.w.die x.w.core x.asid ln) o
  else
    match destOf s x (ls.headD (mkLane 0 noData noData noData)) with
    | none => afterPart (setLanes s o (finLane ln 0x107)) o
    | some (b, cp, off) =>
      if savedOut s b cp then s
      else if x.space = .none ∧ retired s b cp then afterPart (setLanes s o (finLane ln 0x107)) o
      else
        let base := (ls.headD (mkLane 0 noData noData noData)).addr - off
        let cells := (laneCells n ls).map (fun z => (z.1 - base, z.2))
        afterPart (setLanes (spadPut s x.asid b cp cells) o (finLane ln 0)) o
/-! ### Atomics -/

/-- One lane's atomic on a line's bytes: the new bytes and the old value (R267). -/
def atomLane (opr n : Nat) (cas : Bool) (d : List Byte) (l : LaneA) : List Byte × Nat :=
  let old := leVal ((d.drop (l.addr % 128)).take n)
  let new := if cas then (if old = l.cmp % 2 ^ (8 * n) then l.data % 2 ^ (8 * n) else old) else atomOp opr (8 * n) old (l.data % 2 ^ (8 * n))
  (patch d (l.addr % 128) (leBytes n new), old)
/-- The lanes of an atomic in one line, in ascending order (R269): the line after each that writes, with the lane's address, and the lanes with their
old values. A compare that fails writes nothing (R267), so that no watch sees it (R248). -/
def atomLanes (opr n : Nat) (cas : Bool) : List Byte → List LaneA → List (Nat × List Byte) × List LaneA
  | _, [] => ([], [])
  | d, l :: t =>
    let r := atomLane opr n cas d l
    let q := atomLanes opr n cas r.1 t
    (if cas && r.2 != l.cmp % 2 ^ (8 * n) then q.1 else (l.addr, r.1) :: q.1, { l with fin := true, got := r.2, gpsn := false } :: q.2)
/-- redb's reductions in one line (R268): the lanes of one address are combined in the tree of R96, then reduced once; as `atomLanes`. -/
def redbLanes (opr n : Nat) (ls : List LaneA) : List Byte → List Nat → List (Nat × List Byte)
  | _, [] => []
  | d, a :: t =>
    let v := (treeRed (atomOp opr (8 * n)) 5 ((List.range 32).map (fun k =>
      match ls.find? (fun l => l.lane == k && l.addr == a) with
      | some l => l.data % 2 ^ (8 * n)
      | none => atomId opr (8 * n)))).headD 0
    let r := (atomLane opr n false d { mkLane 0 noData noData noData with addr := a, data := v }).1
    (a, r) :: redbLanes opr n ls r t
/-- A reduction of a poisoned location is recorded, for the wave that issued it (R151, R270): one record for each lane of a red, for each address of a
redb (entry 72: the model's choice). -/
def recordRed (s : State) (x : Op) (self a : Nat) : State := recordOp s x self 2 0x104 a
/-- An atomic request of one line, performed by the bank ALU; a watch entry sees every write (R248). redb makes one reduction per address
(R268). -/
def performAtomic (s : State) (o ln : Nat) (x : Op) (opr n : Nat) (cas ret now : Bool) : State :=
  let ls := lineLanes x ln
  let isRedb := x.word.extractLsb' 56 8 == 0xA3
  let drop := fun (s : State) => l1Drop s x.w.die x.w.core x.asid ln
  if ls.isEmpty || !mayRequest s x || storeBlocked s o x ls || (!now && holdsBack s x.asid (128 * ln)) then s
  else match reachLine (arriveOr now s x.asid (128 * ln)) x.asid (128 * ln) .wr with
    | (s, .bad c) => afterPart (setLanes s o (finLane ln c)) o
    | (s, .ok l) =>
      let s := drop s
      let as := if isRedb then (ls.map (·.addr)).eraseDups else ls.map (·.addr)
      if l.psn || l.pp then
        let s := if ret then s else as.foldl (fun s a => recordRed s x o a) s
        afterPart (setLanes s o (fun z => if pendingLane ln z then { z with fin := true, got := 0, gpsn := true } else z)) o
      else
        let r := atomLanes opr n cas l.data ls
        let steps := if isRedb then redbLanes opr n ls l.data as else r.1
        let s := { s with slines := tset s.slines (x.asid, ln) { l with data := ((steps.getLast?).map (·.2)).getD l.data, dirty := true } }
        let s := steps.foldl (fun s q => matchWatches s x.asid q.1 n q.2) s
        afterPart (setLanes s o (fun z => if pendingLane ln z then (r.2.find? (fun q => q.lane == z.lane)).getD z else z)) o

/-! ### Fills (R253, R263, R308) -/

/-- A line reached for the read of an operation; an error it meets is recorded for the wave that issued it (R308). -/
def fillLine (s : State) (o : Nat) (x : Op) (ln : Nat) (now : Bool) : State × LineRes :=
  match reachLine (arriveOr now s x.asid (128 * ln)) x.asid (128 * ln) .rd with
  | (s, r) => (noteFlaws s x o, r)
/-- What a scratchpad or window load waits for: an earlier load of a byte of the core (R276), and an earlier store to one, which it observes
(R275) and which nobody observes before it is performed (R277). -/
def spadWaits (s : State) (o : Nat) (x : Op) (ls : List LaneA) : Bool :=
  before s o x (fun y m => (isLoadKind y.kind || isStoreKind y.kind) && ls.any (fun l => shareByte s x l y m))
/-- An atomic or reduction of the core to the line has been issued and is not yet performed: a fill places no line then (R253). -/
def atomicOut (s : State) (x : Op) (ln : Nat) : Bool :=
  earlier s s.nextId x.w x.asid (fun y m => pendingLane ln m && (match y.kind with | .atom _ _ _ _ => true | _ => false))
/-- A request of one line of a load, lda or pf. -/
def performLoad (s : State) (o ln : Nat) (x : Op) (now : Bool) : State :=
  let ls := lineLanes x ln
  let n := opBytes x.kind
  let d := x.w.die
  let c := x.w.core
  if ls.isEmpty || !mayRequest s x then s
  else if x.space = .glob then
    let pf := match x.kind with | .pf _ => true | _ => false
    let lda := match x.kind with | .lda _ => true | _ => false
    if !pf && ls.any (loadWaits s o x.w x.asid x.kind) then s
    else match (if pf || lda then none else l1Find (s.core d c) x.asid ln) with
    | some h => afterPart ((setLanes s o id).updOp o (fun x => { x with lanes := satisfy n ln h.data h.psn x.lanes })) o
    | none => if !now && holdsBack s x.asid (128 * ln) then s else match fillLine s o x ln now with
      | (s, .bad k) => afterPart (setLanes s o (finLane ln (if pf then 0 else k))) o
      | (s, .ok l) =>
        let psn := l.psn || l.pp
        let data := if lda then l.data else mergeOwn s d c x.asid ln l.data
        let put := fun s => if atomicOut s x ln then s else l1Put s d c ⟨x.asid, ln, data, l.sealed, psn⟩
        let s := match x.kind with
          | .load _ _ nc => if nc then s else put s
          | .pf sl => if sl then s else put s
          | .lda _ => l1Drop s d c x.asid ln
          | _ => s
        afterPart ((setLanes s o id).updOp o (fun x => { x with lanes := satisfy n ln data psn x.lanes })) o
  else
    match destOf s x (ls.headD (mkLane 0 noData noData noData)) with
    | none => afterPart (setLanes s o (finLane ln 0x107)) o
    | some (b, cp, off) =>
      if savedOut s b cp then s
      else if x.space = .none ∧ retired s b cp then afterPart (setLanes s o (finLane ln 0x107)) o
      else
        let r := spadRead s b cp (off / 128 * 128) 128
        if spadWaits s o x ls then s
        else afterPart ((setLanes s o id).updOp o (fun x => { x with lanes :=
          (x.lanes.map (fun l => if pendingLane ln l then
            { l with fin := true, got := if r.2 then 0 else leVal ((r.1.drop (l.addr % 128)).take n), gpsn := r.2 } else l)) })) o
/-- A line request of a load, store or atomic, performed; with `now` it goes ahead of a full conflict buffer. -/
def performLine (s : State) (o ln : Nat) (x : Op) (now : Bool) : State :=
  match x.kind with
  | .load _ _ _ => performLoad s o ln x now
  | .lda _ => performLoad s o ln x now
  | .pf _ => performLoad s o ln x now
  | .store n _ => performStore s o ln x n now
  | .atom opr n cas ret => performAtomic s o ln x opr n cas ret now
  | _ => s
/-- A lane that has passed its check and is still to be performed. -/
def checkedLane (l : LaneA) : Bool := l.chk && !l.fin && l.cause == 0
/-- Requests that a predicate picks have been checked for merged statuses and are not performed: what must not come between waits (R298, R304); those of
a trailing copy are never performed. -/
def stillOut (s : State) (p : State → Op → LaneA → Bool) : Bool :=
  s.ops.any (fun (y : Nat × Op) => y.2.told && !trailing s y.2 && y.2.lanes.any (fun l => checkedLane l && p s y.2 l))
/-- The requests of the pages a predicate picks. -/
def ofPages (p : Nat → Nat → Bool) (_ : State) (x : Op) (l : LaneA) : Bool := x.space == .glob && p x.asid (vpnOf l.addr)
/-- The accesses of a page, which a seal or unseal of it does not part from their checks. -/
def accessesOf (asid vpn : Nat) (s : State) (y : Op) (l : LaneA) : Bool := !isSeal y.kind && ofPages (fun a v => a == asid && v == vpn) s y l
/-- The page of a seal or unseal gets its state (R301, R302), and the lanes of the page are done. -/
def sealPage (s : State) (o vpn : Nat) (x : Op) : State :=
  let s := match s.home x.asid (16384 * vpn) with
    | some ch => putSeal s ch x.asid vpn (x.kind == .seal)
    | none => s
  afterPart (setLanes s o (fun l => if !l.fin && l.cause == 0 && vpnOf l.addr == vpn then { l with fin := true } else l)) o
/-- The lines of the checked lanes of operations that a predicate picks are performed now, in issue order; those of seals as a second pass, since no
seal comes between a store's check and its performance. -/
def performNow (s : State) (seals : Bool) (p : State → Op → LaneA → Bool) : State :=
  (s.ops.map (·.1)).foldl (fun s o => match s.op o with
    | some x =>
      if !x.told || isSeal x.kind != seals then s
      else ((x.lanes.filter (fun l => checkedLane l && p s x l)).map (fun l => lineOf l.addr)).eraseDups.foldl
        (fun s ln => match s.op o with
          | some x => if seals then (if mayRequest s x && !stillOut s (accessesOf x.asid (vpnOf (128 * ln))) then sealPage s o (vpnOf (128 * ln)) x else s)
            else performLine s o ln x true
          | none => s) s
    | none => s) s
/-- Checks that a seal, a drop or a move of the page, or the peer's retirement comes before: they are made again (R298). -/
def recheckLanes (s : State) (p : State → Op → LaneA → Bool) : State :=
  { s with ops := s.ops.map (fun (y : Nat × Op) =>
      (y.1, if y.2.told then y.2 else { y.2 with lanes := y.2.lanes.map (fun l => if checkedLane l && p s y.2 l then { l with chk := false } else l) })) }
/-- No seal, drop or move of a page falls between the check of a request and its performance (R298): requests whose statuses are merged are performed
before it; the check of one whose statuses are not is made again after it. A compared access without its match can be neither (`stillOut`). -/
def flushLanes (s : State) (p : State → Op → LaneA → Bool) : State :=
  let s := recheckLanes (performNow (performNow s false p) true p) p
  { s with pins := pinsOf s }
def flushPages (s : State) (p : Nat → Nat → Bool) : State := flushLanes s (ofPages p)
/-- The requests to the scratchpad of a block's copy from its peers. -/
def toPeer (b cp : Nat) (s : State) (x : Op) (l : LaneA) : Bool := x.space == .none && destBlock s x l == some (b, cp)
def flushPeer (s : State) (b cp : Nat) : State := flushLanes s (toPeer b cp)
/-- A slice's line leaves it, after the requests that have passed their check there; it stays where one of them cannot be performed yet. -/
def evictMove (s : State) (asid lva : Nat) : State :=
  let s := flushLanes s (fun _ x l => x.space == .glob && x.asid == asid && lineOf l.addr == lva)
  if s.pins.contains (asid, lva) then s else evictLine s asid lva
/-- Pages leave the slices and L1s, after the requests that have passed their checks (R298, R304). -/
def leavePages (s : State) (p : Nat → Nat → Bool) : State := refuseDrops (dropPages (flushPages s p) p)

/-- A seal or unseal request of one page: after the accesses of the page that have passed their checks (R298). -/
def performSeal (s : State) (o ln : Nat) (x : Op) : State :=
  let vpn := vpnOf (128 * ln)
  let p := accessesOf x.asid vpn
  if (lineLanes x ln).isEmpty || !mayRequest s x then s
  else
    let s := flushLanes s p
    if stillOut s p then s else sealPage s o vpn x
/-- HOME_SLICE_STORE. -/
def execHomeSliceStore (o line : Nat) (s : State) : Host.Outcome State Fault Refusal :=
  .next (match s.op o with
    | some x => (match x.kind with
      | .store _ _ => performLine s o line x false
      | .seal => performSeal s o line x
      | .unseal => performSeal s o line x
      | _ => s)
    | none => s)
/-- HOME_SLICE_ATOMIC. -/
def execHomeSliceAtomic (o line : Nat) (s : State) : Host.Outcome State Fault Refusal :=
  .next (match s.op o with
    | some x => (match x.kind with
      | .atom _ _ _ _ => performLine s o line x false
      | _ => s)
    | none => s)
/-- LINE_FILL: ecc 0 no error, 1 corrected, 2 uncorrectable, in the line that the fill reads (R308). -/
def execLineFill (o line ecc : Nat) (s : State) : Host.Outcome State Fault Refusal :=
  .next (match s.op o with
    | some x =>
      let run := fun (s : State) => match x.kind with
        | .load _ _ _ => performLoad s o line x false
        | .lda _ => performLoad s o line x false
        | .pf _ => performLoad s o line x false
        | _ => s
      if ecc = 0 ∨ 2 < ecc then run s else { run { s with flaw := ecc } with flaw := s.flaw }
    | none => s)

/-! ### Opens, statuses, results -/

/-- OPEN_BEGIN (R280); the open of an atomic follows the writing of its old values (R267). -/
def execOpenBegin (o : Nat) (s : State) : Host.Outcome State Fault Refusal :=
  .next (match s.op o with
    | some x => (match x.kind with
      | .openDev l1 =>
        let written := x.after.all (fun o => match (s.op o).map Op.kind with | some (.atom _ _ _ _) => false | _ => true)
        if !mayRequest s x || !written then s
        else endOp (if l1 then dropOpen s x.w.die x.w.core x.asid else s) o
      | _ => s)
    | none => s)
/-- UNSEAL_COMPLETE (R302): every L1 has dropped its sealed lines of the pages. -/
def execUnsealComplete (o : Nat) (s : State) : Host.Outcome State Fault Refusal :=
  .next (match s.op o with
    | some x =>
      if x.kind == .unseal && x.lanes.all (fun l => l.fin || l.cause != 0) && !x.fin then
        let hit := fun (l : L1Line) => l.asid == x.asid && l.sealed && x.lanes.any (fun z => z.fin && vpnOf z.addr == vpnOf (l.va * 128))
        let s := refuseDrops (dropL1s s hit)
        let s := s.updOp o (fun x => { x with fin := true })
        let s := if x.twin = 2 then s.updOp x.peer (fun x => { x with fin := true }) else s
        afterPart s o
      else s
    | none => s)

/-- The instruction completes in its lanes: the split goes past its word. -/
def completeAt (s : State) (u : SplitRef) : State := tidy (goPast s u) u.w
/-! ### Statuses (R298) -/

/-- Requests of one core are checked in issue order where they have to be performed so (R253, R264, R275, R276): an earlier access of a common byte, a
load's earlier atomic to the line, or a store's earlier one to the same scratchpad has not had its statuses merged; an earlier seal of a byte of a store's
has not been performed (R298), unless it is a trailing copy's, whose place among the stores is that of the leading one's (R355). -/
def checkBlocked (s : State) (o : Nat) (x : Op) (l : LaneA) : Bool :=
  before s o x (fun y m => (isSeal y.kind && !trailing s y && isStoreKind x.kind && shareByte s x l y m) || !y.told && (shareByte s x l y m
    || (isLoadKind x.kind && x.space == .glob && y.space == .glob && y.asid == x.asid && lineOf m.addr == lineOf l.addr && (match y.kind with | .atom _ _ _ _ => true | _ => false))
    || (x.space != .glob && isStoreKind x.kind && isStoreKind y.kind && y.space != .glob && destBlock s y m == destBlock s x l)))
/-- A line request of an access that holds its split reaches its check; its status returns: the lanes of the line pass or fail together,
those of a seal with their page. -/
def checkLine (s : State) (o ln : Nat) : State :=
  match s.op o with
  | none => s
  | some x =>
    let mine := fun (l : LaneA) => pendingLane ln l && !l.chk
    if x.told || !mayAct s x || x.lanes.any (fun l => mine l && checkBlocked s o x l) then s
    else match x.lanes.find? mine with
      | none => s
      | some l => match lineCheck s x l with
        | (s, none) => s
        | (s, some c) => setLanes s o (fun l => if mine l then (if c = 0 then { l with chk := true } else { l with cause := c }) else l)
/-- The statuses are merged: the instruction's good lanes go on. A store is in L1 from here (R253); a compared issue of a twin sends its
entry, per lane without the lanes that fault; a split-scalar one has its operand fields whether it faults or not (R353). -/
def mergeStatus (s : State) (o : Nat) (x : Op) : State :=
  let good := x.lanes.filter (fun l => l.cause == 0)
  let blocks := if x.scalar then fieldBlocks ((x.lanes.take 1).flatMap (fun l => [l.data, pairOf x.word l])) else good.flatMap (laneBlock (opBytes x.kind))
  let s := { s with twins := s.twins.map (fun (t : Nat × TwinE) => if t.2.op = o then (t.1, { t.2 with sig := some (crc64 (sigBytes x.word x.e blocks)) }) else t) }
  l1Store (s.updOp o (fun x => { x with told := true, left := true })) x
/-- The faulting instruction has had no effect in any lane (R152): what it started goes, with its twin entry. -/
def takeOut (s : State) (o : Nat) (x : Op) : State :=
  let back := fun (w : Wave) => match s.twins.find? (fun t => t.2.op == o) with
    | some t => let key := (t.2.rseq, t.2.va, t.2.lane)
                { w with keyCnt := tset w.keyCnt key (tget 0 w.keyCnt key - 1) }
    | none => w
  ({ s with twins := s.twins.filter (fun t => t.2.op != o), ops := s.ops.filter (fun (y : Nat × Op) => y.1 != o) }).updWave x.w
    (fun w => { back w with pend := w.pend.filter (fun p => !(p.due.isNone && p.op == o)) })
/-- ACCESS_STATUS_RETURN (R298): the fault mask is merged once and the faulting lanes are parked; the rest complete. Where they cannot be
parked the instruction has no effect in any lane (R152). -/
def execAccessStatusReturn (o : Nat) (s : State) : Host.Outcome State Fault Refusal :=
  .next (match s.op o with
    | none => s
    | some x =>
      let u : SplitRef := ⟨x.w, x.k⟩
      let sp := s.split u
      if x.told || x.inRq || !(x.lanes.all (fun l => l.chk || l.fin || l.cause != 0)) || sp.hold != .access o then s
      else
        let bad := spread x.scalar x.e (x.lanes.filter (fun l => l.cause != 0))
        let park := fun s => parkLanes s u { sp with hold := .none } x.word true bad o
        if bad.isEmpty then sweep (completeAt (mergeStatus s o x) u) o
        else match park s with
          | .no _ => (match park (takeOut s o x) with | .no t => t | .yes t => t)
          | .yes s =>
            let fm := laneSet bad
            let s := (mergeStatus s o x).updOp o (fun x => { x with e := x.e &&& ~~~fm, lanes := x.lanes.filter (fun l => l.cause == 0) })
            let s := s.updWave x.w (fun w => { w with pend := (w.pend.map (fun p =>
              if p.op = o ∧ p.due.isNone then { p with e := if x.scalar then 0 else p.e &&& ~~~fm } else p)).filter (fun p => p.e != 0) })
            let s := if (s.op o).all (fun x => x.lanes.isEmpty) then endOp s o else sweep s o
            if sp.mask &&& ~~~fm = 0 then tidy s u.w else completeAt s u)

/-- VARIABLE_RESULT_WRITE (R42): a load's, atomic's or command's registers are written. -/
def execVariableResultWrite (o : Nat) (s : State) : Host.Outcome State Fault Refusal :=
  .next (match s.op o with
    | none => s
    | some x =>
      let s := match x.space, x.kind with
        | .spad _ _, .load _ _ _ => (x.lanes.map (fun (l : LaneA) => lineOf l.addr)).eraseDups.foldl (fun (s : State) (ln : Nat) =>
            match s.op o with
            | some x => performLoad s o ln x false
            | none => s) s
        | _, _ => s
      match s.op o with
      | some x => if x.told && !x.inRq && x.performed && hasResult x.kind then endOp (writeResult s o x) o else s
      | none => s)

/-- BACKOFF_RETRY (R152): the wait is over; the instruction is issued again. -/
def execBackoffRetry (u : SplitRef) (s : State) : Host.Outcome State Fault Refusal :=
  .next (match (s.split u).hold with
    | .backoff t => if s.cyc u.w.die < t then s else s.updSplit u (fun x => { x with hold := .none })
    | _ => s)

end Sys2Proof.Machine
end

