-- ==== Sys2Proof/Machine/Queue.lean ====
section
/-! DEFINITION. Launch records (R174, R175), queues and their heads (R165 to R171), klaunch and launch messages (R179, R366), qctl
(R173), and the choice of the next kernel (R172). -/

namespace Sys2Proof.Machine

/-! ### Launch records -/

/-- 64-bit word i of a record. -/
def recWord (b : List Byte) (i : Nat) : Nat := leVal ((b.drop (8 * i)).take 8)
def depCond : Nat → Option WCond
  | 1 => some .eq
  | 2 => some .ne
  | 3 => some .geS
  | 4 => some .ltS
  | 5 => some .geN
  | 6 => some .ltN
  | _ => none
/-- The fields of Table 8.1. -/
def launchFields (b : List Byte) : Launch :=
  let q := recWord b
  let dep := fun (i : Nat) => (bits (q (6 + i)) 56 4, bits (q (6 + i)) 0 56, bits (q (10 + i / 2)) (32 * (i % 2)) 32)
  { codeVa := q 0, entry := bits (q 1) 32 32, gx := bits (q 1) 0 32, gy := bits (q 2) 32 32, gz := bits (q 2) 0 32
    gsize := bits (q 3) 55 2, nwave := bits (q 3) 50 5, allot := 8 * (bits (q 3) 45 5 + 1), spad := bits (q 3) 36 9
    bars := bits (q 3) 25 11, tiles := bits (q 3) 20 5, twin := (q 3).testBit 19, rerun := (q 3).testBit 18
    ilk := (q 3).testBit 17, jobrec := (q 3).testBit 16, prio := bits (q 3) 13 3, slack := bits (q 3) 0 13
    codelen := bits (q 4) 32 32, queue := bits (q 4) 0 10, param := q 5, deps := (List.range 4).map dep
    doneVa := bits (q 12) 0 56, doneVal := bits (q 13) 0 31, jobVa := q 14, hoff := bits (q 15) 32 32, hqpn := bits (q 15) 0 24 }
/-- A dependence that R175 allows. -/
def depOk (d : Nat × Nat × Nat) : Bool := decide (d.1 ≤ 6) && decide (d.2.1 % 4 = 0) && (d.1 != 0 || (d.2.1 == 0 && d.2.2 == 0))
/-- The conditions of R175 on a record and its fields. -/
def launchOk (b : List Byte) (l : Launch) : Bool :=
  let q := recWord b
  decide (l.codeVa % 8 = 0) && decide (1 ≤ l.gx) && decide (1 ≤ l.gy) && decide (1 ≤ l.gz) && decide (l.gx * l.gy * l.gz ≤ 2 ^ 32)
    && bits (q 3) 57 7 == 0 && decide (l.spad ≤ 384) && decide (l.bars ≤ 1024) && decide (l.tiles ≤ 16)
    && (if l.twin then decide (1 ≤ l.slack ∧ l.slack ≤ 4096) else l.slack == 0)
    && bits (q 4) 10 22 == 0 && decide (l.codelen % 8 = 0) && (l.jobrec == (l.codelen != 0))
    && (List.range 4).all (fun i => bits (q (6 + i)) 60 4 == 0) && l.deps.all depOk
    && bits (q 12) 56 8 == 0 && decide (l.doneVa % 4 = 0) && bits (q 13) 31 33 == 0
    && (if l.jobrec then decide (l.jobVa % 256 = 0) else l.jobVa == 0)
    && bits (q 15) 24 8 == 0 && decide (l.hoff % 4 = 0)
/-- A record of 128 bytes, or none where it is invalid. -/
def parseLaunch (b : List Byte) : Option Launch :=
  let l := launchFields b
  if launchOk b l then some l else none

/-! ### Heads and dependences (R171) -/

def Dep.fresh : Dep := ⟨false, false, 0, false, false⟩
def updDep (s : State) (q i : Nat) (f : Dep → Dep) : State :=
  let x := s.queue q
  s.setQueue q { x with deps := x.deps.mapIdx (fun j y => if j = i then f y else y) }
/-- The engine's wait before it reads a signal word again: 1 µs. -/
def pollCycles : Nat := 1100
/-- One read of a dependence's signal word, the first one or a poll: met, to be read again, or recorded once as failing. The first read places a watch
entry, met or not; so does one that succeeds after failing and leaves it unmet. Any other poll, of a slice whose table was full, only reads (entry 40). -/
def readDep (s : State) (q i asid va : Nat) (cond : WCond) (val : W32) (first : Bool) : State :=
  match homeWord s asid va with
  | (s, v, psn, c) =>
    let c := if c ≠ 0 then c else if psn then 0x104 else 0
    let told := ((s.queue q).deps.getD i Dep.fresh).told
    if c ≠ 0 then
      let s := if told then s else record s asid 2 c 0 0 va (whoNone s)
      updDep s q i (fun y => { y with told := true, next := s.now + pollCycles })
    else
      let ok := wcond cond v val
      let r := if first || (told && !ok) then armWatch s asid va cond val (.dep q i) else (s, false)
      updDep r.1 q i (fun y => { y with met := ok, armed := r.2, told := false, next := s.now + pollCycles })
/-- Read dependence i of a launch; an unused one is met. -/
def evalDep (s : State) (q asid i : Nat) (d : Nat × Nat × Nat) (first : Bool) : State :=
  match depCond d.1 with
  | none => updDep s q i (fun y => { y with met := true })
  | some cond => readDep s q i asid d.2.1 cond (BitVec.ofNat 32 d.2.2) first
/-- The head of a queue that is PENDING. -/
def pendingHead (s : State) (q : Nat) : Option (Nat × Kern) :=
  match (s.queue q).pend.head? with
  | none => none
  | some k => match s.kern k with
    | none => none
    | some x => if x.st == .pending then some (k, x) else none
/-- All dependences of the head are met (R30, Table 8.2): the watches go, the descriptor and the hashed code are read and checked. -/
def becomeReady (s : State) (q k : Nat) (x : Kern) : State :=
  let s := { s with watches := s.watches.filter (fun (w : Nat × Watch) => match w.2.target with | .split _ => true | .dep p _ => p != q) }
  match devRead s x.asid x.l.codeVa 8 with
  | (s, d, c, va) =>
    if c ≠ 0 then abortKernel (record s x.asid 2 c 0 0 va (whoNone s)) k 1 c
    else
      let w := leVal d
      if bits w 48 16 ≠ Config.codeMagic ∨ bits w 16 32 ≠ 0 ∨ x.l.entry % 8 ≠ 0 then abortKernel s k 1 0x004
      else
        let ilk := decide (bits w 0 16 ≠ Config.nativeTag) || x.l.ilk || (s.ctx x.asid).ilk
        if x.l.jobrec then
          match devRead s x.asid x.l.codeVa x.l.codelen with
          | (s, code, c, va) =>
            if c ≠ 0 then abortKernel (record s x.asid 2 c 0 0 va (whoNone s)) k 1 c
            else s.updKern k (fun y => { y with st := .ready, ilk := ilk, codeHash := sha512 code })
        else s.updKern k (fun y => { y with st := .ready, ilk := ilk })
/-- The head is evaluated where it is new, and becomes READY where its dependences are met; an aborted head makes way for the next. -/
def headN : Nat → State → Nat → State
  | 0, s, _ => s
  | n + 1, s, q =>
    match pendingHead s q with
    | none => s
    | some (k, x) =>
      let s := if (s.queue q).deps.isEmpty then
          let s := s.setQueue q { s.queue q with deps := List.replicate 4 Dep.fresh }
          (x.l.deps.mapIdx (fun i d => (i, d))).foldl (fun s d => evalDep s q x.asid d.1 d.2 true) s
        else s
      if (s.queue q).deps.all (fun y => y.met) then
        let s := becomeReady s q k x
        if (s.queue q).pend.head? = some k then s else headN n s q
      else s
def newHead (s : State) (q : Nat) : State := headN 4097 s q

/-- Append a launch to its queue (R169): the kernel is PENDING. -/
def appendLaunch (s : State) (asid : Nat) (l : Launch) : State :=
  let x := s.queue l.queue
  let acc := (x.accepted + 1) % 2 ^ 32
  let id := s.nextId
  let s := { s with nextId := id + 1, kerns := s.kerns ++ [(id, Kern.pending l asid acc)] }
  newHead (s.setQueue l.queue { x with pend := x.pend ++ [id], accepted := acc, stale := true }) l.queue
def queueFull (x : Queue) : Bool := decide (2 ^ x.qlog2 ≤ x.pend.length)
def takesLaunches (x : Queue) : Bool := x.st == .opened || x.st == .paused

/-! ### klaunch (R179) -/

/-- A read of the 128 bytes by the queue engine: the bytes, whether they hold poison, a cause. -/
def readLaunch (s : State) (asid va : Nat) : State × List Byte × Bool × Nat :=
  match devRead s asid va 64 with
  | (s, d0, c0, _) => match devRead s asid (va + 64) 64 with
    | (s, d1, c1, _) =>
      let c := if c0 ≠ 0 ∧ c0 ≠ 0x104 then c0 else if c1 ≠ 0 ∧ c1 ≠ 0x104 then c1 else 0
      (s, d0 ++ d1, c0 == 0x104 || c1 == 0x104, c)
/-- The engine accepts or refuses a record: the status. -/
def tryLaunch (s : State) (asid : Nat) (d : List Byte) (psn : Bool) : State × Nat :=
  if psn then (s, 4)
  else match parseLaunch d with
    | none => (s, 3)
    | some l =>
      let x := s.queue l.queue
      if x.asid ≠ asid ∨ !takesLaunches x then (s, 2)
      else if queueFull x then (s, 1)
      else (appendLaunch s asid l, 0)
/-- klaunch takes effect after its close: a lane fault of the lanes of E, or the launch and its status. -/
def runKlaunch (d : SReg) (va : Nat) (s : State) (o : Nat) : State :=
  match s.op o with
  | none => s
  | some x =>
    let bad := fun (s : State) (c : Nat) => mirror (s.updOp o (fun y => { y with lanes := y.lanes.map (fun l => { l with cause := c }), left := true })) o
    if va % 64 ≠ 0 then bad s 0x105
    else match readLaunch s x.asid va with
      | (s, r, psn, c) =>
        if c ≠ 0 then bad s c
        else match tryLaunch s x.asid r psn with
          | (s, st) =>
            let s := mirror (s.updOp o (fun y => { y with lanes := y.lanes.map (fun l => { l with fin := true }) })) o
            giveStatus s o d [BitVec.ofNat 32 st]
/-- The word is held until the launch has been accepted, refused or has faulted (R298). -/
def startKlaunch (s : State) (i : Issue) (d : SReg) (l : LaneA) : State :=
  let id := s.nextId
  let after := cmdAfter s i
  let tw := compares i
  let s := s.newOp { blankOp i (.cmd (.klaunch d l.addr)) after with
    lanes := [l], told := false, scalar := true, twin := if tw then 1 else 0, reg := d.toNat }
  let s := expect s i.u.w .s d.toNat 1 1 id
  let s := if tw then addTwin s i id (fieldBlocks [l.addr]) false else s
  let s := s.updSplit i.u (fun x => { i.sp with st := x.st, last := x.last, hold := .access id, recheck := false })
  if !tw && after.all (finished s) then runKlaunch d l.addr s id else s
def execKlaunch (c : Cm) (d : SReg) (a : SReg) (s : State) : Host.Outcome State Fault Refusal :=
  issueOp s (.klaunch c d a) c 1 (fun s i =>
    if i.e = 0 then some s
    else if cmdStall s i true then none
    else
      let l := match i.cap with
        | some cp => cp.lanes.headD (mkLane 0 noData noData noData)
        | none => let x := sreg64 s i.w a
                  mkLane ((lanes i.e).headD 0) (x.1.toNat, x.2) noData noData
      let l := { l with fin := false, cause := if l.apsn then 0x104 else 0 }
      some (if l.apsn then faultEntry s i true (spread true i.e [l]) true [l.addr] else startKlaunch s i d l))

/-! ### Launch messages (R169, R366) -/

/-- The endpoint of a queue pair number: its queue. -/
def endpointOf (s : State) (qpn : Nat) : Option (Nat × Queue) :=
  s.queues.find? (fun (q : Nat × Queue) => q.2.qpn == qpn && q.2.msg && q.2.st != .closed)
def State.port (s : State) (p : Nat) : PortSt := tget .active s.ports p
/-- Packets of a message at the path MTU of 4096 bytes (R364). -/
def packets (n : Nat) : Nat := max 1 ((n + 4095) / 4096)
/-- A message of n packets has come in on a port: its frames passed the port (R363). -/
def framesIn (s : State) (p n : Nat) : Bool := s.port p == .active && decide (n ≤ tget 0 s.frames p)
def takeFrames (s : State) (p n : Nat) : State := { s with frames := tset s.frames p (tget 0 s.frames p - n) }
/-- An operation of an endpoint's connection in n packets, next in PSN order, whose frames have come in on its port: the endpoint's queue and
port. -/
def peerOp (s : State) (qpn psn n : Nat) : Option (Queue × Nat) :=
  match endpointOf s qpn, tfind s.conns qpn with
  | some (_, q), some c => if framesIn s c.port n && c.psn == psn then some (q, c.port) else none
  | _, _ => none
/-- A reply of a connection. -/
def reply (s : State) (qpn kind : Nat) (data : List Byte) : State :=
  { s with conns := tupd s.conns qpn (fun c => { c with replies := (kind, data) :: c.replies }) }
/-- The operation is performed: its reply, and the next PSN. -/
def peerDone (s : State) (qpn n : Nat) (data : List Byte) : State :=
  reply { s with conns := tupd s.conns qpn (fun (c : Conn) => { c with psn := (c.psn + n) % 2 ^ 24 }) } qpn 0 data
def reject (s : State) (q : Nat) : State :=
  let x := s.queue q
  s.setQueue q { x with rejects := min (x.rejects + 1) 0xFFFFFFFF, stale := true }
/-- What a SEND of n packets to a queue's endpoint does: the payload's record is checked as klaunch checks it. -/
def takeMessage (s : State) (q n : Nat) (payload : List Byte) (poison : Bool) : State :=
  let x := s.queue q
  let drop := peerDone (reject s q) x.qpn n []
  if payload.length ≠ 136 ∨ recWord payload 0 ≠ 0x4C01000000000000 ∨ poison then drop
  else match parseLaunch (payload.drop 8) with
    | none => drop
    | some l =>
      if !takesLaunches x || l.queue != q then drop
      else if queueFull x then reply s x.qpn 4 []
      else peerDone (appendLaunch s x.asid l) x.qpn n []
/-- A SEND for a queue without an endpoint, since it is CLOSED or has MSG = 0: dropped, and acknowledged at the transport level (R169); its frames
have come in on a port, which no connection names (entry 47). -/
def strayMessage (s : State) (q psn n : Nat) : State :=
  match (List.range 2).filter (fun p => framesIn s p n) with
  | [] => s
  | ps =>
    let p := pick s q 0 ps
    let s := reject (takeFrames s p n) q
    { s with acks := (p, q, psn) :: s.acks }
/-- LAUNCH_MESSAGE: a SEND, taken in the order of its connection's PSNs (R365). -/
def execLaunchMessage (q : Nat) (m : SendMsg) (poison : Bool) (s : State) : Host.Outcome State Fault Refusal :=
  let x := s.queue q
  let n := packets m.data.length
  .next (
    if !x.msg || x.st == .closed then strayMessage s q m.psn n
    else match peerOp s x.qpn m.psn n with
      | some (_, p) => takeMessage (takeFrames s p n) q n m.data poison
      | none => s)

/-! ### qctl (R167, R168, R173) -/

/-- The pair number of a queue's endpoint: the first from a free one on that no open queue's endpoint has, and never 0, which says that there is no
endpoint (R364, Table 7.1; entry 17). -/
def freshQpn (s : State) (q : Nat) : Nat :=
  let used := (s.queues.filter (fun (x : Nat × Queue) => x.2.msg && x.2.st != .closed)).map (fun x => x.2.qpn)
  (((List.range (used.length + 1)).map (fun i => 1 + ((Config.qpnOf q s.tick).toNat + i) % (2 ^ 24 - 1))).find? (fun n => !used.contains n)).getD 1
/-- OPEN (Table 7.2): the record is read and checked. Its rows are tried in the order bad record, context, limit; the bits that the record
says must be zero are checked, those the device itself writes as zero are not (entry 40). -/
def openQueue (s : State) (q : Nat) (va : Nat) : State :=
  let s := s.setQueue q { s.queue q with recVa := va, lastCmd := 1 }
  match devRead s 0 va 64 with
  | (s, d, c, _) =>
    let r := fun (s : State) (n : Nat) => queueStatus (s.setQueue q { s.queue q with result := n, seqn := bits (recWord d 0) 32 32 }) q
    if c ≠ 0 then r s 1
    else
      let w := recWord d
      let asid := bits (w 1) 0 12
      let lg := bits (w 2) 12 4
      if va % 64 ≠ 0 ∨ bits (w 1) 12 52 ≠ 0 ∨ bits (w 2) 16 48 ≠ 0 ∨ bits (w 2) 3 7 ≠ 0 ∨ w 7 ≠ 0 ∨ lg < 4 ∨ 12 < lg ∨ w 3 % 16384 ≠ 0 then r s 1
      else
        let st := (s.ctx asid).st
        if st == .free || st == .building || st == .draining || st == .dead then r s 2
        else if 64 ≤ (s.queues.filter (fun (x : Nat × Queue) => x.2.asid == asid && x.2.st != .closed)).length then r s 3
        else
          let x := s.queue q
          let msg := (w 2).testBit 10
          r (s.setQueue q { x with
            st := .opened, asid := asid, qlog2 := lg, stopErr := (w 2).testBit 11, msg := msg, pmax := bits (w 2) 0 3
            storeVa := w 3, pend := [], accepted := 0, deps := []
            qpn := if msg then freshQpn s q else 0 }) 0
/-- Abort a queue's launches that are PENDING or READY, oldest first (Table 8.2). -/
def flushQueue (s : State) (q : Nat) : State := (s.queue q).pend.foldl (fun s k => abortKernel s k 4 0) s
/-- A row of Table 7.2 exists for a command in a state. -/
def queueRow (st : QueueSt) (cmd : Nat) : Bool :=
  match st with
  | .closed => cmd == 1
  | .opened => cmd == 2 || cmd == 4 || cmd == 5
  | .paused => cmd == 3 || cmd == 4 || cmd == 5
  | .draining => cmd == 5
  | .faulted => cmd == 3 || cmd == 4 || cmd == 5
/-- The effect of an accepted command. -/
def queueCmd (s : State) (q cmd va : Nat) : State :=
  let set := fun (s : State) (f : Queue → Queue) => s.setQueue q (f { s.queue q with lastCmd := cmd, result := 0 })
  if cmd = 1 then openQueue s q va
  else if cmd = 2 then queueStatus (set s (fun x => { x with st := .paused })) q
  else if cmd = 3 then queueStatus (set s (fun x => { x with st := .opened })) q
  else if cmd = 4 then queueStatus (set s (fun x => { x with st := .draining, busy := true })) q
  else queueStatus (set (flushQueue s q) id) q
/-- qctl takes effect after its close: the status of R173. A command still in progress refuses others, FLUSH aside. -/
def runQctl (cmd : Nat) (d : SReg) (qw : W32) (arg : W64) (s : State) (o : Nat) : State :=
  let q := qw.toNat
  let x := s.queue q
  if 1024 ≤ q then giveStatus s o d [3]
  else if cmd ≠ 1 ∧ arg ≠ 0 then giveStatus s o d [1]
  else if x.busy && cmd != 5 then giveStatus s o d [2]
  else if !queueRow x.st cmd then giveStatus s o d [1]
  else giveStatus (queueCmd s q cmd arg.toNat) o d [0]
/-- The shared issue of qctl. -/
def qctlIssue (cmd : Nat) (d : SReg) (a : SSrc) (b : SPair) (s : State) (i : Issue) : Option State :=
  if i.e = 0 then some s
  else if slackStall s i then none
  else
    let q := (ssrc s i.w a).v
    let arg := (spair s i.w b).1
    some (command s i (.qctl cmd d q arg) true [q.toNat, arg.toNat] (cmdAfter s i) (some d) 1 (runQctl cmd d q arg))
def execQctlOpen (c : Cm) (d : SReg) (a : SSrc) (b : SPair) (s : State) : Host.Outcome State Fault Refusal :=
  issueOp s (.qctlOpen c d a b) c 1 (qctlIssue 1 d a b)
def execQctlPause (c : Cm) (d : SReg) (a : SSrc) (b : SPair) (s : State) : Host.Outcome State Fault Refusal :=
  issueOp s (.qctlPause c d a b) c 1 (qctlIssue 2 d a b)
def execQctlResume (c : Cm) (d : SReg) (a : SSrc) (b : SPair) (s : State) : Host.Outcome State Fault Refusal :=
  issueOp s (.qctlResume c d a b) c 1 (qctlIssue 3 d a b)
def execQctlDrain (c : Cm) (d : SReg) (a : SSrc) (b : SPair) (s : State) : Host.Outcome State Fault Refusal :=
  issueOp s (.qctlDrain c d a b) c 1 (qctlIssue 4 d a b)
def execQctlFlush (c : Cm) (d : SReg) (a : SSrc) (b : SPair) (s : State) : Host.Outcome State Fault Refusal :=
  issueOp s (.qctlFlush c d a b) c 1 (qctlIssue 5 d a b)

/-! ### Events of the queue engine -/

/-- DEPENDENCE_WAKE (R171): a watch entry of the head was met. -/
def execDependenceWake (q d : Nat) (s : State) : Host.Outcome State Fault Refusal :=
  .next (match (s.queue q).deps[d]? with
    | some y => if y.woken && (pendingHead s q).isSome then newHead (updDep s q d (fun y => { y with met := true, woken := false })) q else s
    | none => s)
/-- DEPENDENCE_POLL (R171): the signal words whose read is due are read again; an unevaluated head is evaluated. -/
def execDependencePoll (q : Nat) (s : State) : Host.Outcome State Fault Refusal :=
  .next (match pendingHead s q with
    | none => s
    | some (_, x) =>
      let due := fun (s : State) (i : Nat) => match (s.queue q).deps[i]? with
        | some y => !y.met && !y.armed && !y.woken && decide (y.next ≤ s.now)
        | none => false
      newHead ((x.l.deps.mapIdx (fun i d => (i, d))).foldl (fun s d => if due s d.1 then evalDep s q x.asid d.1 d.2 false else s) s) q)
/-- QUEUE_STATUS_REFRESH (R166): the counts are written while they change. Those of a CLOSED queue, whose record software may change, are not: a
REJECTS that rises meanwhile is written with the next OPEN's STATUS (entry 66: the model's choice). -/
def execQueueStatusRefresh (q : Nat) (s : State) : Host.Outcome State Fault Refusal :=
  .next (if (s.queue q).stale && (s.queue q).st != .closed then queueCounts s q else s)
/-- A kernel has finished: DONE, or completed as ABORTED (R180). -/
def Kern.finished (k : Kern) : Bool := (k.st == .done || k.st == .aborted) && k.phase == 3
/-- A host delivery whose connection is gone: a WRITE that is not acknowledged is judged again, and no time of a hold counts (R367). -/
def unsend (k : Kern) : Kern := { k with phase := if k.phase = 4 then 2 else k.phase, sendAt := none }
/-- CLOSED: the endpoint goes with the queue, and its connection (Table 7.2). -/
def closeQueue (s : State) (q : Nat) : State :=
  let x := s.queue q
  let s := { s with
    conns := if x.msg then tdel s.conns x.qpn else s.conns
    kerns := s.kerns.map (fun (k : Nat × Kern) => if x.msg && k.2.l.hqpn == x.qpn then (k.1, unsend k.2) else k) }
  queueStatus (s.setQueue q { x with st := .closed, busy := false, qpn := 0, deps := [], pend := [] }) q
/-- QUEUE_DRAIN_COMPLETE (R167): launches that a FLUSH aborted have to be complete too, their signal words and host deliveries done (entry 70: the
model's reading). -/
def execQueueDrainComplete (q : Nat) (s : State) : Host.Outcome State Fault Refusal :=
  .next (if (s.queue q).st == .draining && (s.queue q).pend.isEmpty
        && s.kerns.all (fun (k : Nat × Kern) => k.2.l.queue != q || k.2.finished) then
      closeQueue (s.setQueue q { s.queue q with result := 0 }) q
    else s)

/-! ### The next kernel (R172) -/

def effPrio (base passed : Nat) : Nat := if 64 ≤ passed then 7 else base
def ctxLive (s : State) (asid : Nat) : Bool := (s.ctx asid).st == .ready || (s.ctx asid).st == .running
/-- READY heads of queues in OPEN or DRAINING whose contexts are READY or RUNNING: queue, kernel, effective priority. -/
def selectable (s : State) : List (Nat × Nat × Nat) :=
  s.queues.filterMap (fun (x : Nat × Queue) =>
    if x.2.st == .opened || x.2.st == .draining then
      match x.2.pend.head? with
      | none => none
      | some k => match s.kern k with
        | none => none
        | some y => if y.st == .ready && ctxLive s y.asid then some (x.1, k, effPrio (min y.l.prio x.2.pmax) y.selPassed) else none
    else none)
/-- The first of a list of (queue, kernel, priority) by priority, then round-robin by queue number after the one taken last at that
priority. That of two kernels of one queue at one priority the one that stands first in the list comes first, is the model's choice (R172 orders queues
alone; entry 42). -/
def firstBy (rr : List (Nat × Nat)) : List (Nat × Nat × Nat) → Option (Nat × Nat × Nat)
  | [] => none
  | a :: t => match firstBy rr t with
    | none => some a
    | some b =>
      let far := fun (x : Nat × Nat × Nat) => (x.1 + 2048 - (tget 1023 rr x.2.2 + 1)) % 1024
      if a.2.2 < b.2.2 ∨ (a.2.2 = b.2.2 ∧ far b < far a) then some b else some a
/-- Blocks of one group of a launch at most. -/
def groupBlocks (l : Launch) : Nat := min (l.gsize + 1) (l.gx * l.gy * l.gz)
/-- One block group fits an empty cluster (R189), and its twin reservation an empty buffer (R352). -/
def fitsEmpty (l : Launch) : Bool :=
  decide ((l.nwave + 1 + 3) / 4 * l.allot ≤ 1024) && (!l.twin || decide (l.slack * groupBlocks l ≤ Config.cmpEntries))
/-- KERNEL_SELECT. -/
def execKernelSelect (s : State) : Host.Outcome State Fault Refusal :=
  .next (
    let cs := selectable s
    match firstBy s.selRr cs with
    | none => s
    | some (q, k, p) =>
      let s := { s with selRr := tset s.selRr p q }
      let s := cs.foldl (fun (s : State) (x : Nat × Nat × Nat) => if x.2.1 = k then s else s.updKern x.2.1 (fun y => { y with selPassed := y.selPassed + 1 })) s
      let fits := ((s.kern k).map (fun x => fitsEmpty x.l)).getD false
      let s := if fits then (leaveQueue s q k).updKern k (fun y => { y with st := .dispatching, tstart := s.ns, selPassed := 0 })
               else abortKernel s k 5 0
      newHead s q)

end Sys2Proof.Machine
end

