-- ==== Sys2Proof/Machine/Group.lean ====
section
/-! DEFINITION. Placement of block groups on the dies (R176, R177, R185, R188, R190, R352) and GROUP_HANDOUT. -/

namespace Sys2Proof.Machine

/-! ### What a core has free (R185) -/

/-- The lowest base of n contiguous free units below a limit; `used` lists base and length. -/
def firstFit (used : List (Nat × Nat)) (limit n : Nat) : Option Nat :=
  let free := fun b => decide (b + n ≤ limit) && used.all (fun u => u.2 == 0 || n == 0 || decide (b + n ≤ u.1) || decide (u.1 + u.2 ≤ b))
  ((0 :: used.map (fun u => u.1 + u.2)).filter free).foldl (fun m b => match m with | none => some b | some x => some (min x b)) none
/-- Shares held on a core, those freed in this cycle among them (R187): a place and its launch. -/
def sharesOn (s : State) (d c : Nat) : List (Place × Launch) :=
  (s.freed.filter (fun f => f.die == d && f.core == c)).map (fun f =>
    (⟨d, c, f.spadBase, f.barBase, f.tiles, false, false⟩, { Launch.zero with spad := f.spad, bars := f.bars }))
  ++ s.blocks.flatMap (fun (b : Nat × Block) => match s.kern b.2.kernel with
    | none => []
    | some k => (b.2.places.filter (fun p => p.die == d && p.core == c && !p.retired && !p.saved)).map (fun p => (p, k.l)))
/-- Waves of a slice of a core, those whose slot and rows were freed in this cycle among them (R187): slot and rows. -/
def sliceWaves (s : State) (d c sl : Nat) : List (Nat × Nat × Nat) :=
  ((s.freed.filter (fun f => f.die == d && f.core == c)).flatMap (fun f => f.waves.filter (fun w => sliceOfSlot w.1 == sl)))
  ++ (s.waves.filter (fun (w : WaveRef × Wave) => w.1.die == d && w.1.core == c && sliceOfSlot w.1.slot == sl)).map
    (fun w => (w.1.slot, w.2.rowBase, w.2.allot))

/-- A share found for a block: scratchpad base in KiB, barrier base, tiles, and slot and row base of each wave. -/
structure Spot where
  spad : Nat
  bars : Nat
  tiles : List Nat
  waves : List (Nat × Nat)
deriving DecidableEq, Repr

/-- A slice that takes a wave: its number, free rows, free slots and row base. -/
def sliceFit (s : State) (d c sl allot : Nat) (acc : List (Nat × Nat)) : Option (Nat × Nat × List Nat × Nat) :=
  let mine := sliceWaves s d c sl ++ (acc.filter (fun a => sliceOfSlot a.1 == sl)).map (fun a => (a.1, a.2, allot))
  let slots := ((List.range 16).map (· + 16 * sl)).filter (fun k => mine.all (fun m => m.1 != k))
  if slots.isEmpty then none
  else (firstFit (mine.map (·.2)) 1024 allot).map (fun b => (sl, 1024 - (mine.map (·.2.2)).foldl (· + ·) 0, slots, b))
/-- The slice with the most free rows, ties to the lowest number (R188); which of its free slots is free. -/
def placeWave (s : State) (d c allot : Nat) (acc : List (Nat × Nat)) : Option (Nat × Nat) :=
  match ((List.range 4).filterMap (fun sl => sliceFit s d c sl allot acc)).foldl
      (fun b x => match b with
        | none => some x
        | some y => if y.2.1 < x.2.1 then some x else some y) none with
  | none => none
  | some (_, _, slots, b) => some (pick s (64 * acc.length + 7) 0 slots, b)
def placeWaves (s : State) (d c allot : Nat) : Nat → List (Nat × Nat) → Option (List (Nat × Nat))
  | 0, acc => some acc
  | n + 1, acc => match placeWave s d c allot acc with
    | none => none
    | some w => placeWaves s d c allot n (acc ++ [w])
/-- Whether and where a block fits a core (R188, step 3). -/
def placeBlock (s : State) (d c : Nat) (l : Launch) : Option Spot :=
  let sh := sharesOn s d c
  let tiles := (List.range 16).filter (fun t => sh.all (fun x => !x.1.tiles.contains t))
  match firstFit (sh.map (fun x => (x.1.spadBase, x.2.spad))) 384 l.spad, firstFit (sh.map (fun x => (x.1.barBase, x.2.bars))) 1024 l.bars,
      placeWaves s d c l.allot (l.nwave + 1) [] with
  | some a, some b, some ws => if tiles.length < l.tiles then none else some ⟨a, b, tiles.take l.tiles, ws⟩
  | _, _, _ => none
/-- Blocks of a group on distinct cores of a cluster, in ascending GRANK, the cores round-robin after the last one used. -/
def placeIn (s : State) (d cl : Nat) (l : Launch) : Nat → Nat → List Nat → Option (List (Nat × Spot))
  | 0, _, _ => some []
  | n + 1, last, used =>
    match (List.range 4).findSome? (fun i =>
        let ci := (last + 1 + i) % 4
        if used.contains ci then none else (placeBlock s d (4 * cl + ci) l).map (fun sp => (ci, sp))) with
    | none => none
    | some (ci, sp) => (placeIn s d cl l n ci (ci :: used)).map (fun r => (4 * cl + ci, sp) :: r)
/-- A group of n blocks on the first cluster of a die that takes it (R188). -/
def placeGroup (s : State) (d : Nat) (l : Launch) (n : Nat) : Option (Nat × List (Nat × Spot)) :=
  let x := tget Disp.fresh s.disps d
  (List.range 10).findSome? (fun i =>
    let cl := (x.cluster + 1 + i) % 10
    (placeIn s d cl l n (tget 3 x.cores cl) []).map (fun r => (cl, r)))
/-- The dispatcher's pointers after a placement. -/
def moveDisp (s : State) (d cl : Nat) (r : List (Nat × Spot)) : State :=
  let x := tget Disp.fresh s.disps d
  let last := r.foldl (fun _ y => y.1 % 4) (tget 3 x.cores cl)
  { s with disps := tset s.disps d ⟨cl, tset x.cores cl last⟩ }
/-- Compare-buffer entries of a die reserved for groups that have not retired (R352). -/
def reservedOn (s : State) (d : Nat) : Nat :=
  s.blocks.foldl (fun n (b : Nat × Block) =>
    match s.kern b.2.kernel with
    | none => n
    | some k =>
      let live := s.blocks.any (fun (y : Nat × Block) => y.2.kernel == b.2.kernel && y.2.group == b.2.group && y.2.places.any (fun p => !p.retired))
      if k.l.twin && live && (b.2.places.head?).any (fun p => p.die == d) then n + k.l.slack else n) 0

/-! ### A block at its start (R178, R190) -/

/-- A core with a share cleared: fresh slots and tiles, unpoisoned lines, and of the scratchpad only what `keep` gives. -/
def clearShare (k : Core) (spadBase spad barBase bars : Nat) (tiles : List Nat) (keep : Nat × Byte → Option (Nat × Byte)) : Core :=
  let lo := 1024 * spadBase
  let hi := lo + 1024 * spad
  { k with
    spad := k.spad.filterMap (fun a => if a.1 < lo ∨ hi ≤ a.1 then some a else keep a)
    spadPsn := k.spadPsn.filter (fun ln => decide (128 * ln < lo) || decide (hi ≤ 128 * ln))
    bars := k.bars.filter (fun (b : Nat × Bar) => decide (b.1 < barBase) || decide (barBase + bars ≤ b.1))
    tiles := k.tiles.filter (fun (t : Nat × Tile) => !tiles.contains t.1) }
/-- A share's contents when its wave starts (R190): scratchpad bytes zero or a value of the same context, fresh slots and tiles. -/
def freshShare (s : State) (d c asid : Nat) (sp : Spot) (l : Launch) : State :=
  let k := s.core d c
  let keep := fun (a : Nat × Byte) => if tfind k.spadCtx a.1 = some asid then some (a.1, pick s a.1 0 [a.2, 0]) else none
  dropOpen (s.setCore d c (clearShare k sp.spad l.spad sp.bars l.bars sp.tiles keep)) d c asid
/-- The waves of one copy of a block, from a WAVEID on. -/
def startWaves (s : State) (k : Nat) (x : Kern) (blk copy d c : Nat) : Nat → List (Nat × Nat) → State
  | _, [] => s
  | i, (slot, row) :: t =>
    let pc : Addr := BitVec.ofNat 56 (x.l.codeVa + x.l.entry)
    let w := Wave.start s.nextId d blk copy k x.asid i row x.l.allot x.ilk x.l.twin false x.l.param pc
    startWaves ({ s with nextId := s.nextId + 1 }.setWave ⟨d, c, slot⟩ w) k x blk copy d c (i + 1) t
/-- A block with its copies: die, core and share of each. -/
def startBlock (s : State) (k : Nat) (x : Kern) (g idx : Nat) (cs : List (Nat × Nat × Spot)) : State :=
  let id := s.nextId
  let ps := cs.map (fun c => (⟨c.1, c.2.1, c.2.2.spad, c.2.2.bars, c.2.2.tiles, false, false⟩ : Place))
  let s := { s with nextId := id + 1, blocks := s.blocks ++ [(id, ⟨k, idx, g, ps⟩)] }
  (cs.mapIdx (fun j c => (j, c))).foldl (fun s c =>
    startWaves (freshShare s c.2.1 c.2.2.1 x.asid c.2.2.2 x.l) k x id c.1 c.2.1 c.2.2.1 0 c.2.2.2.waves) s

/-! ### GROUP_HANDOUT (R177, R182) -/

def groupsOf (l : Launch) : Nat := (l.gx * l.gy * l.gz + l.gsize) / (l.gsize + 1)
/-- Blocks of group g: the first index and how many. -/
def groupRange (l : Launch) (g : Nat) : Nat × Nat := (g * (l.gsize + 1), min (g * (l.gsize + 1) + l.gsize + 1) (l.gx * l.gy * l.gz) - g * (l.gsize + 1))
/-- The group a kernel hands out next: abandoned ones first. -/
def nextGroupOf (x : Kern) : Option Nat :=
  match x.again with
  | g :: t => some (t.foldl min g)
  | [] => if x.nextGroup < groupsOf x.l then some x.nextGroup else none
/-- ACTIVE dies of a context's die set in the order after a logical id, each as logical and physical number. -/
def diesAfter (s : State) (asid lid : Nat) : List (Nat × Nat) :=
  ((List.range 16).map (fun i => (lid + 1 + i) % 16)).filterMap (fun n =>
    if (s.ctx asid).dieset.testBit n then (s.dieOfLid n).map (fun d => (n, d)) else none)
/-- Where a kernel's next group goes: the leading die's logical and physical number and share, and the trailing copy's in a twin launch. -/
def findPlace (s : State) (x : Kern) (g : Nat) : Option ((Nat × Nat × Nat × List (Nat × Spot)) × Option (Nat × Nat × List (Nat × Spot))) :=
  let n := (groupRange x.l g).2
  let lead := (diesAfter s x.asid x.diePtr).findSome? (fun d =>
    if x.l.twin && decide (Config.cmpEntries < reservedOn s d.2 + x.l.slack * n) then none
    else (placeGroup s d.2 x.l n).map (fun r => (d.1, d.2, r.1, r.2)))
  match lead with
  | none => none
  | some a =>
    if !x.l.twin then some (a, none)
    else match ((diesAfter s x.asid a.1).filter (fun d => d.1 != a.1)).findSome? (fun d => (placeGroup s d.2 x.l n).map (fun r => (d.2, r.1, r.2))) with
      | none => none
      | some b => some (a, some b)
/-- DISPATCHING kernels whose next group waits: queue, kernel, effective priority. -/
def dispatchable (s : State) : List (Nat × Nat × Nat) :=
  s.kerns.filterMap (fun (k : Nat × Kern) =>
    if k.2.st == .dispatching && ctxLive s k.2.asid && (nextGroupOf k.2).isSome then
      some (k.2.l.queue, k.1, effPrio (min k.2.l.prio (s.queue k.2.l.queue).pmax) k.2.passed)
    else none)
/-- Hand out the group of one kernel, if it can be placed. -/
def handOut (s : State) (k : Nat) : Option State :=
  match s.kern k with
  | none => none
  | some x => match nextGroupOf x with
    | none => none
    | some g => match findPlace s x g with
      | none => none
      | some ((lid, d, cl, r), tr) =>
        let rg := groupRange x.l g
        let s := moveDisp s d cl r
        let s := match tr with
          | some (d2, cl2, r2) => moveDisp s d2 cl2 r2
          | none => s
        let s := (List.range rg.2).foldl (fun s i =>
          let one := fun (d : Nat) (r : List (Nat × Spot)) => (r[i]?).map (fun y => (d, y.1, y.2))
          let cs := [one d r, tr.bind (fun t => one t.1 t.2.2)].filterMap id
          startBlock s k x g (rg.1 + i) cs) s
        let re := x.again.contains g
        let again := x.again.filter (· != g)
        let next := if re then x.nextGroup else x.nextGroup + 1
        let s := s.updKern k (fun y => { y with
          again := again, nextGroup := next, diePtr := lid, passed := 0, reruns := if re then y.reruns + 1 else y.reruns
          st := if again.isEmpty && decide (groupsOf x.l ≤ next) then .running else .dispatching })
        let c := s.ctx x.asid
        some (if c.st == .ready then ctxStatus (s.setCtx x.asid { c with st := .running }) x.asid else s)
/-- The first kernel in order whose group can be placed. -/
def handFirst (s : State) : Nat → List (Nat × Nat × Nat) → Option (State × Nat × Nat × Nat)
  | 0, _ => none
  | n + 1, cs => match firstBy s.outRr cs with
    | none => none
    | some a => match handOut s a.2.1 with
      | some t => some (t, a)
      | none => handFirst s n (cs.filter (fun x => x.2.1 != a.2.1))
/-- The package scheduler works: on I/O die 0, or its mirror on I/O die 1 (R371). -/
def schedulerUp (s : State) : Bool := !s.schedMirror || (s.die 0x31).st == .active
/-- GROUP_HANDOUT. -/
def execGroupHandout (s : State) : Host.Outcome State Fault Refusal :=
  .next (
    let cs := if schedulerUp s then dispatchable s else []
    match handFirst s cs.length cs with
    | none => s
    | some (t, q, k, p) =>
      let t := { t with outRr := tset t.outRr p q }
      cs.foldl (fun (t : State) (x : Nat × Nat × Nat) => if x.2.1 = k then t else t.updKern x.2.1 (fun y => { y with passed := y.passed + 1 })) t)

end Sys2Proof.Machine
end

