-- ==== Sys2Proof/Machine/Image.lean ====
section
/-! DEFINITION. Saving blocks of a context being pre-empted and restoring them (R153 to R157, R251, R355), and abandoning block groups
(R182). -/

namespace Sys2Proof.Machine

/-! ### Rest (R154) -/

def splitAtRest (x : Split) : Bool :=
  !x.inUse
    || (match x.st with
      | .waitMerge => true
      | .waitBar _ _ _ _ => true
      | .waitMap _ _ _ => true
      | .waitWatch _ _ _ _ _ _ _ _ _ _ _ _ => true
      | .sleep _ => true
      | _ => false)
    || (match x.hold with
      | .backoff _ => true
      | .yielded => true
      | _ => false)
def waveAtRest (w : Wave) : Bool := w.trap.isNone && w.exitOp.isNone && (List.range 4).all (fun k => splitAtRest (w.split k))
/-- An access through the cluster window that has had no effect yet, whose peer is saved: at a forced save it stays where its wave stopped, and is
issued again after the restore. -/
def peerSaved (s : State) (x : Op) : Bool :=
  x.space == .none && !x.told && x.lanes.any (fun l => (destBlock s x l).any (fun d => savedOut s d.1 d.2))
/-- No operation of a wave is on its way: what is left stands in the replay queue or waits as a watch. -/
def opsQuiet (s : State) (uid : Nat) : Bool :=
  s.ops.all (fun (o : Nat × Op) => o.2.wuid != uid || o.2.inRq || (o.2.kind == .result && !o.2.fin) || o.2.kind == .cmd .exit)
def blockWaves (s : State) (b : Nat) : List (WaveRef × Wave) := s.waves.filter (fun (w : WaveRef × Wave) => w.2.block == b)
/-- The deadline of a context on a core has expired: it counts no longer (R155). -/
def expired (s : State) (d c asid : Nat) : Bool := (tfind (s.core d c).deadlines asid).isNone
def copiesIn (s : State) (b : Nat) (p : CopySt → Bool) : Bool := s.copies.all (fun (c : Nat × Copy) => c.2.block != b || p c.2.st)
/-- The fixed-latency results of a wave are written. -/
def fixedOver (s : State) (r : WaveRef) (w : Wave) : Bool := decide (fixedTill w ≤ s.cyc r.die)
/-- A checked access of a peer is still to be performed in a block's scratchpad. -/
def peerOut (s : State) (b : Nat) : Bool := stillOut s (fun s x l => x.space == .none && (destBlock s x l).any (fun d => d.1 == b))
/-- Nothing of the block's peers is on its way to it: that, or a QUEUED or ACTIVE copy that reads, writes or tells the block. -/
def peersDone (s : State) (b : Nat) : Bool :=
  s.copies.all (fun (c : Nat × Copy) => (c.2.st != .active && c.2.st != .queued) || (copyBlocks c.2).all (fun t => t.1 != b)) && !peerOut s b
/-- A block at rest, with every copy and matrix batch complete and no unmatched entry (R154, R355). -/
def blockAtRest (s : State) (b : Nat) : Bool :=
  (blockWaves s b).all (fun w => waveAtRest w.2 && opsQuiet s w.2.uid && fixedOver s w.1 w.2) && copiesIn s b (fun st => st == .done || st == .dropped)
    && s.mxs.all (fun (m : Nat × MxCmd) => m.2.block != b) && s.twins.all (fun t => t.2.block != b)
/-- A block of a core whose deadline expired, drained (R155). A load or mx.st that has not started is saved so, and keeps its place at the core's array:
whether it gives that up, or the save waits for it, the spec does not say (R336; entry 80: the model's choice). -/
def blockDrained (s : State) (b : Nat) : Bool :=
  (blockWaves s b).all (fun w => w.2.stopped && w.2.trap.isNone && opsQuiet s w.2.uid && fixedOver s w.1 w.2)
    && s.copies.all (fun (c : Nat × Copy) => c.2.block != b
      || c.2.st == .done || c.2.st == .dropped || c.2.st == .stalled || c.2.st == .held)
    && s.mxs.all (fun (m : Nat × MxCmd) => m.2.block != b || m.2.st == .waiting || m.2.st == .held
        || (match m.2.kind with | .mx _ _ _ _ _ _ => true | _ => false))

/-! ### Saving -/

/-- A split as its image holds it; inside a clause the header's waits are evaluated again after the restore (R37), and no S is left. -/
def savedSplit (x : Split) : Split :=
  let y := match x.st with
    | .sleep _ => { x with st := .runnable }
    | .settle _ => { x with st := .runnable }
    | _ => x
  { y with recheck := x.recheck || x.hdrw.isSome, settle := none, hold := match y.hold with
    | .yielded => .none
    | .clause => .none
    | .backoff _ => .backoff 0
    | h => h }
def savedWave (now : Nat) (w : Wave) : Wave :=
  let w := settleWave now w
  let w := (List.range 4).foldl (fun w k =>
    let x := w.split k
    match x.st with
    | .sleep _ => if x.hdrw.isNone then arrive (w.setSplit k { x with st := .runnable, settle := none }) k x.hdr else w
    | .settle _ => if x.hdrw.isNone then arrive (w.setSplit k { x with st := .runnable, settle := none }) k x.hdr else w
    | _ => w) w
  { w with
    splits := w.splits.map savedSplit
    sdivTill := 0
    v := match w.live with
      | some n => w.v.filter (fun (e : Nat × List Val) => decide (e.1 < n))
      | none => w.v
    live := none, preq := false, stopped := false }
/-- Remaining timeouts of a wave's watches (R251). -/
def remainOf (s : State) (r : WaveRef) (w : Wave) : List (SplitRef × Nat) :=
  (List.range 4).filterMap (fun k => match (w.split k).st with
    | .waitWatch _ _ _ (some t) _ _ _ _ _ _ _ _ => some (⟨r, k⟩, t - s.cyc r.die)
    | _ => none)
def inRange (a lo n : Nat) : Bool := decide (lo ≤ a) && decide (a < lo + n)
/-- One copy of a block leaves its core for its image. -/
def savePlace (s : State) (asid b j : Nat) (p : Place) (l : Launch) : State :=
  let ws := (blockWaves s b).filter (fun w => w.2.copy == j)
  let c := s.core p.die p.core
  let mine := fun (f : Nat × Frag) => f.2.fstate != 0 && ws.any (fun w => w.2.uid == f.2.wuid)
  let inSpad := fun (a : Nat) => inRange a (1024 * p.spadBase) (1024 * l.spad)
  let img : Image :=
    { lid := s.lidOf p.die, core := p.core, block := b, copy := j
      waves := ws.map (fun w => (w.1.slot, savedWave (s.cyc p.die) w.2))
      frags := c.frags.filter mine
      bars := c.bars.filter (fun (x : Nat × Bar) => inRange x.1 p.barBase l.bars)
      tiles := c.tiles.filter (fun (x : Nat × Tile) => p.tiles.contains x.1)
      macros := c.macros.filter (fun (x : Nat × Macro) => x.2.owner == b)
      spad := c.spad.filter (fun (x : Nat × Byte) => inSpad x.1)
      spadPsn := c.spadPsn.filter (fun ln => inSpad (128 * ln))
      remain := ws.flatMap (fun w => remainOf s w.1 w.2) }
  let s := s.setCore p.die p.core { c with
    frags := c.frags.map (fun (f : Nat × Frag) => if mine f then (f.1, { f.2 with fstate := 0, permit := false, lanes := [] }) else f)
    bars := c.bars.filter (fun (x : Nat × Bar) => !inRange x.1 p.barBase l.bars)
    tiles := c.tiles.filter (fun (x : Nat × Tile) => !p.tiles.contains x.1)
    macros := c.macros.filter (fun (x : Nat × Macro) => x.2.owner != b)
    spad := c.spad.filter (fun (x : Nat × Byte) => !inSpad x.1)
    spadPsn := c.spadPsn.filter (fun ln => !inSpad (128 * ln))
    slices := c.slices.map (fun x => (x.1, if ws.any (fun w => x.2.run.map (·.1) == some w.1.slot) then { x.2 with run := none } else x.2)) }
  let k := s.ctx asid
  let s := s.setCtx asid { k with images := k.images ++ [img] }
  { s with
    waves := s.waves.filter (fun (w : WaveRef × Wave) => !(w.2.block == b && w.2.copy == j))
    watches := s.watches.filter (fun x => match x.2.target with | .split u => !ws.any (fun w => decide (w.1 = u.w)) | .dep _ _ => true) }
/-- The mx of a block that have not committed are abandoned (R155, R336), those of waves that have exited among them. -/
def abandonBlockMx (s : State) (b : Nat) : State :=
  (((s.mxs.filter (fun (m : Nat × MxCmd) => m.2.block == b)).map (fun m => m.2.wuid)).eraseDups).foldl (fun s u => abandonMx s u true) s
/-- The accesses of a block that stay at a saved peer are taken out; their instructions have had no effect in any lane. -/
def takeWaiting (s : State) (b : Nat) : State :=
  let ids := (blockWaves s b).map (fun w => w.2.uid)
  (s.ops.filter (fun (o : Nat × Op) => ids.contains o.2.wuid && !o.2.inRq && peerSaved s o.2)).foldl (fun s o =>
    (takeOut s o.1 o.2).updSplit ⟨o.2.w, o.2.k⟩ (fun x => { x with hold := if x.hold = .access o.1 then .none else x.hold })) s
/-- No entry of a twin block is on its way to a match: two of one key wait for their comparison, or the statuses of one are to return. -/
def entriesLone (s : State) (b : Nat) : Bool :=
  (s.twins.filter (fun t => t.2.block == b)).all (fun t =>
    (if t.2.sig.isNone then (s.op t.2.op).all (fun x => !accepted s x || peerSaved s x)
     else s.twins.all (fun e => !(sameKey e.2 t.2 && e.2.copy != t.2.copy && e.2.sig.isSome))))
/-- The waves of a twin block that hold unmatched entries are restarted (R355). -/
def restartUnmatched (s : State) (b : Nat) : State :=
  let ids := (s.twins.filter (fun t => t.2.block == b)).map (fun t => t.2.waveId)
  let s := discardEntries s (fun t => t.block == b)
  ((blockWaves s b).filter (fun w => ids.contains w.2.waveId)).foldl (fun s w => restartWave s w.1) s
/-- Blocks of a context on a core that are not saved yet. -/
def unsavedOn (s : State) (d c asid : Nat) : Bool :=
  s.blocks.any (fun (b : Nat × Block) => (s.kern b.2.kernel).any (fun k => k.asid == asid)
    && b.2.places.any (fun p => p.die == d && p.core == c && !p.retired && !p.saved))
/-- Save a block: every copy of it. -/
def saveBlock (s : State) (asid b : Nat) (x : Block) (l : Launch) : State :=
  let s := (x.places.mapIdx (fun j p => (j, p))).foldl (fun s q => freeShare (savePlace s asid b q.1 q.2 l) q.2 l)
    ((blockWaves s b).foldl (fun s w => freeRows s w.1 w.2) s)
  { s with blocks := tset s.blocks b { x with places := x.places.map (fun p => { p with saved := true }) } }
/-- The start of a forced save, once every wave of the block has stopped and what its twin entries had on their way is done: the unmatched entries
are discarded (R355) and the accesses at saved peers are taken out. A close, open or load that waited for one of these goes on and is drained. -/
def startForced (s : State) (b : Nat) : State := takeWaiting (restartUnmatched s b) b
/-- A forced save of a block, once all that its waves had on their way is drained (R155, R355). -/
def forceSave (s : State) (asid b : Nat) (x : Block) (l : Launch) : State :=
  if (blockWaves s b).all (fun w => w.2.stopped) && entriesLone s b then
    let t := startForced s b
    if blockDrained t b then saveBlock (abandonBlockMx t b) asid b x l else t
  else s
/-- BLOCK_REST_SAVE (R154, R155): a block of a context in PREEMPTING that is at rest, or that a forced save has drained; what its peers have on
their way to it is done first. -/
def execBlockRestSave (b : Nat) (s : State) : Host.Outcome State Fault Refusal :=
  .next (match tfind s.blocks b with
    | none => s
    | some x => match s.kern x.kernel with
      | none => s
      | some k =>
        if (s.ctx k.asid).st != .preempting || x.places.any (fun p => p.retired || p.saved) then s
        else
          let t := (List.range x.places.length).foldl (fun s j => flushPeer s b j) s
          if !peersDone t b then t
          else if blockAtRest t b && !(blockWaves t b).isEmpty then saveBlock t k.asid b x k.l
          else if x.places.all (fun p => expired s p.die p.core k.asid) then forceSave t k.asid b x k.l
          else t)
/-- A wave stops at an instruction boundary; what it has issued drains, since every store it issued is performed before SAVED; its replay
queue is what a trap has put there (R155). -/
def stopWave (s : State) (r : WaveRef) (w : Wave) : State := s.setWave r { w with stopped := true }
/-- PREEMPT_DEADLINE_EXPIRY (R155): cores whose count has run out with blocks not yet saved stop the context's waves, and have a record to make. -/
def execPreemptDeadlineExpiry (asid : Nat) (s : State) : Host.Outcome State Fault Refusal :=
  .next (
    if (s.ctx asid).st != .preempting then s
    else
      let due := s.cores.filter (fun (c : (Nat × Nat) × Core) => (tfind c.2.deadlines asid).any (fun t => decide (t ≤ s.cyc c.1.1)))
      due.foldl (fun (s : State) (c : (Nat × Nat) × Core) =>
        let k := s.core c.1.1 c.1.2
        let s := if unsavedOn s c.1.1 c.1.2 asid then s.setCtx asid { s.ctx asid with forced := (s.ctx asid).forced ++ [c.1] } else s
        let s := s.setCore c.1.1 c.1.2 { k with deadlines := tdel k.deadlines asid }
        (s.waves.filter (fun (w : WaveRef × Wave) => w.2.asid == asid && w.1.die == c.1.1 && w.1.core == c.1.2)).foldl
          (fun s w => stopWave s w.1 w.2) s) s)

/-! ### The end of a save (R155, R156) -/

/-- Address of a core's image. -/
def imageVa (s : State) (asid lid c : Nat) : Nat := (s.ctx asid).saveBase + Config.imageBytes * (40 * lid + c)
/-- The lines of a core's image after its first: bytes of a layout private to the stepping (R156; entry 43). -/
def writeLines (s : State) (va : Nat) : Nat → State × Nat
  | 0 => (s, 0)
  | n + 1 => match writeLines s va n with
    | (s, c) =>
      if c ≠ 0 then (s, c)
      else match devWrite s 0 (va + 128 * (n + 1)) ((List.range 128).map (fun j => Config.imageByte s.tick (128 * (n + 1) + j))) with
        | (s, c, _) => (s, c)
/-- A core has reported its image saved: where its save was forced it makes the record, whose CLK is that core's cycle counter (Table 6.6;
entry 46). -/
def reportSaved (s : State) (asid lid c : Nat) : State :=
  match s.dieOfLid lid with
  | some d => if (s.ctx asid).forced.contains (d, c) then record s asid 2 0x3C1 0 0 0 ⟨lid, c, 0, 0, 0, coreClock s ⟨d, c, 0⟩⟩ else s
  | none => s
/-- Every core's image (R156): HOLDS and the block count, and where the image holds blocks the rest of its region; the first cause. -/
def writeImages (s : State) (asid : Nat) : State × Nat :=
  let lids := (List.range 16).filter (fun n => (s.ctx asid).dieset.testBit n && lidActive s n)
  let cores := lids.flatMap (fun n => (List.range 40).map (fun c => (n, c)))
  cores.foldl (fun (r : State × Nat) (x : Nat × Nat) =>
    if r.2 ≠ 0 then r
    else
      let n := ((r.1.ctx asid).images.filter (fun (i : Image) => i.lid == x.1 && i.core == x.2)).length
      let va := imageVa r.1 asid x.1 x.2
      let w := match devWrite r.1 0 va (leBytes 8 (n * 2 ^ 16 + (if n = 0 then 0 else 1))) with
        | (s, c, _) => if c ≠ 0 ∨ n = 0 then (s, c) else writeLines s va (Config.imageBytes / 128 - 1)
      (if w.2 = 0 then reportSaved w.1 asid x.1 x.2 else w.1, w.2)) (s, 0)
/-- Discard what a context has on the cores: its kernels' blocks with their images. -/
def discardBlocks (s : State) (asid : Nat) : State :=
  ((s.blocks.filter (fun (b : Nat × Block) => (s.kern b.2.kernel).any (fun k => k.asid == asid))).map (·.1)).foldl dropBlock s
/-- A command of a context ends: its result, and STATUS. -/
def ctxDone (s : State) (asid : Nat) (st : CtxSt) (result : Nat) : State :=
  ctxStatus (s.setCtx asid { s.ctx asid with st := st, result := result, busy := false, forced := [] }) asid
/-- CONTEXT_SAVED (Table 6.2): every core has reported and the context's stores are performed. -/
def execContextSaved (asid : Nat) (s : State) : Host.Outcome State Fault Refusal :=
  .next (
    if (s.ctx asid).st != .preempting then s
    else if s.waves.any (fun (w : WaveRef × Wave) => w.2.asid == asid)
        || s.blocks.any (fun (b : Nat × Block) => (s.kern b.2.kernel).any (fun k => k.asid == asid) && b.2.places.any (fun p => !p.retired && !p.saved))
        || s.ops.any (fun (o : Nat × Op) => o.2.asid == asid && !o.2.inRq && !o.2.performed && isStoreKind o.2.kind)
        || s.recq.any (fun r => r.asid == asid) then s
    else
      let s := { s with cores := s.cores.map (fun (c : (Nat × Nat) × Core) => (c.1, { c.2 with deadlines := tdel c.2.deadlines asid })) }
      match writeImages s asid with
      | (s, c) => if c = 0 then ctxDone s asid .saved 0 else ctxDone (discardBlocks s asid) asid .dead 3)

/-! ### Abandoned groups (R182) -/

/-- A block group is abandoned as a whole: it runs again under RERUN_OK, or its kernel is aborted. A RUNNING kernel whose group is to be handed out
again is DISPATCHING until it is, for which Table 8.2 has no row (entry 64: the model's choice). -/
def abandonGroup (s : State) (k g : Nat) : State :=
  match s.kern k with
  | none => s
  | some x =>
    if !(x.st == .dispatching || x.st == .running) then s
    else if !x.l.rerun then abortKernel s k 3 0x106
    else
      let mine := s.blocks.filter (fun (b : Nat × Block) => b.2.kernel == k && b.2.group == g)
      let done := (mine.filter (fun (b : Nat × Block) => b.2.places.all (fun p => p.retired))).length
      let s := (mine.map (·.1)).foldl dropBlock s
      s.updKern k (fun y => { y with counter := y.counter - done, again := y.again ++ [g], st := .dispatching })
/-- Groups with a block a predicate picks that have not retired. -/
def groupsWhere (s : State) (p : Nat → Block → Bool) : List (Nat × Nat) :=
  let open' := fun (k g : Nat) => s.blocks.any (fun (b : Nat × Block) => b.2.kernel == k && b.2.group == g && b.2.places.any (fun q => !q.retired))
  (((s.blocks.filter (fun (b : Nat × Block) => p b.1 b.2)).map (fun b => (b.2.kernel, b.2.group))).filter (fun g => open' g.1 g.2)).eraseDups
def abandonWhere (s : State) (p : Nat → Block → Bool) : State := (groupsWhere s p).foldl (fun s g => abandonGroup s g.1 g.2) s

/-! ### Restoring (R157) -/

/-- The place of an image's block: the die that holds its logical id now. -/
def imageDie (s : State) (i : Image) : Option Nat := s.dieOfLid i.lid
/-- What an image needs is free on its core. -/
def imageFits (s : State) (i : Image) : Bool :=
  match imageDie s i, s.place i.block i.copy, (tfind s.blocks i.block).bind (fun b => s.kern b.kernel) with
  | some d, some p, some k =>
    let sh := sharesOn s d i.core
    let apart := fun (a n b m : Nat) => n == 0 || m == 0 || decide (a + n ≤ b) || decide (b + m ≤ a)
    let c := s.core d i.core
    sh.all (fun x => apart x.1.spadBase x.2.spad p.spadBase k.l.spad && apart x.1.barBase x.2.bars p.barBase k.l.bars
        && x.1.tiles.all (fun t => !p.tiles.contains t))
      && i.waves.all (fun (w : Nat × Wave) => (sliceWaves s d i.core (sliceOfSlot w.1)).all (fun m =>
          m.1 != w.1 && apart m.2.1 m.2.2 w.2.rowBase w.2.allot))
      && i.frags.all (fun (f : Nat × Frag) => (tget Frag.fresh c.frags f.1).fstate == 0)
      && i.macros.all (fun (m : Nat × Macro) => (tget Macro.fresh c.macros m.1).fmt == 0)
  | _, _, _ => false
/-- A watch of a restored split is armed again and evaluated at once (R157, R251); a split that polled has no entry, and goes on polling (R249). The
spec does not say what a word gives that cannot be read at the restore, or that is poisoned: the split reads it again as one that polls, at once, and
meets the cause there; a poisoned word is taken as 0, and where that meets the condition D gets 0 without poison (entry 77: the model's choices). -/
def rearm (s : State) (asid : Nat) (u : SplitRef) (left : Option Nat) : State :=
  match (s.split u).st with
  | .waitWatch va cond val til polls _ pq d e opn op none =>
    let now := s.cyc u.w.die
    let til := if til.isSome then left.map (· + now) else none
    let set := fun (s : State) (poll : Bool) (next : Nat) (v : Option W32) =>
      s.updSplit u (fun x => { x with st := .waitWatch va cond val til poll next pq d e opn op v })
    if polls then set s true (now + 1024) none
    else match homeWord s asid va with
    | (s, v, _, c) =>
      if c ≠ 0 then set s true now none
      else if wcond cond v val then set s false 0 (some v)
      else
        let a := armWatch s asid va cond val (.split u)
        set a.1 (!a.2) (now + 1024) none
  | _ => s
/-- Put one saved block copy back: nothing another block left in its share remains (R190, R226). Of a wave in handler mode only what the forced save
abandoned is accepted again; what the trap left in its replay queue waits for its tret (entry 69: the model's choice). -/
def restoreImage (s : State) (asid : Nat) (i : Image) : State :=
  match imageDie s i, tfind s.blocks i.block with
  | some d, some b =>
    let s := dropOpen s d i.core asid
    let p := (s.place i.block i.copy).getD ⟨d, i.core, 0, 0, [], false, false⟩
    let l := ((s.kern b.kernel).map (·.l)).getD Launch.zero
    let c := clearShare (s.core d i.core) p.spadBase l.spad p.barBase l.bars p.tiles (fun _ => none)
    let put := fun {β : Type} (m xs : List (Nat × β)) => xs.foldl (fun m x => tset m x.1 x.2) m
    let s := s.setCore d i.core { c with
      frags := put c.frags i.frags
      bars := put c.bars i.bars
      tiles := put c.tiles i.tiles
      macros := put c.macros i.macros
      spad := put c.spad i.spad
      spadCtx := i.spad.foldl (fun m x => tset m x.1 asid) c.spadCtx
      spadPsn := c.spadPsn ++ i.spadPsn }
    let s := { s with blocks := tset s.blocks i.block { b with places := b.places.mapIdx (fun j p => if j = i.copy then { p with die := d, saved := false } else p) } }
    let s := i.waves.foldl (fun (s : State) (w : Nat × Wave) => s.setWave ⟨d, i.core, w.1⟩ { w.2 with die := d }) s
    let s := { s with mxs := s.mxs.map (fun (m : Nat × MxCmd) =>
      if m.2.block == i.block && m.2.bcopy == i.copy then (m.1, { m.2 with w := { m.2.w with die := d } }) else m) }
    let s := i.waves.foldl (fun (s : State) (w : Nat × Wave) =>
      let r : WaveRef := ⟨d, i.core, w.1⟩
      let s := { s with
        ops := s.ops.map (fun (o : Nat × Op) =>
          if o.2.wuid == w.2.uid then (o.1, { o.2 with w := r, inRq := o.2.inRq && w.2.rq.contains o.1 }) else o) }
      let s := reinjectMx s r w.2.uid (fun m => m.saved || !w.2.hmode)
      let s := tidy s r
      (List.range 4).foldl (fun s k => rearm s asid ⟨r, k⟩ ((i.remain.find? (fun x => x.1.w.slot == w.1 && x.1.k == k)).map (·.2))) s) s
    let left := s.mxs.filter (fun (m : Nat × MxCmd) => m.2.block == i.block && m.2.bcopy == i.copy && m.2.st == .held && !i.waves.any (fun w => w.2.uid == m.2.wuid))
    let s := left.foldl (fun s m => reinjectOne s m.2.w m.1) s
    { s with copies := s.copies.map (fun (c : Nat × Copy) =>
        if c.2.block == i.block && c.2.bcopy == i.copy && c.2.st == .stalled then (c.1, { c.2 with st := .queued, stallVa := [], released := false, die := d, w := { c.2.w with die := d } }) else c) }
  | _, _ => s
/-- An image one of whose lines finds an uncorrectable error: HOLDS of every core of the die set, and where the image holds blocks its whole region. A
line that cannot be read for another cause (0x101, 0x102, 0x106) is none (entry 65: the model's choice). -/
def imagesBad (s : State) (asid : Nat) : State × Bool :=
  let held := (s.ctx asid).images.map (fun (i : Image) => (i.lid, i.core))
  (((List.range 16).filter (fun n => (s.ctx asid).dieset.testBit n)).flatMap (fun n => (List.range 40).map (fun c => (n, c)))).foldl
    (fun (r : State × Bool) (i : Nat × Nat) =>
      match devRead r.1 0 (imageVa r.1 asid i.1 i.2) (if held.contains i then Config.imageBytes else 8) with
      | (s, _, c, _) => (s, r.2 || c == 0x104)) (s, false)
/-- RESTORE (R157): the blocks whose die is not ACTIVE are abandoned; the others go back once all that they need is free. The context is RUNNING if
an image held a block (Table 6.2), and goes on from there to READY where none is left. -/
def tryRestore (s : State) (asid : Nat) : State :=
  let holds := !(s.ctx asid).images.isEmpty
  let gone := (s.ctx asid).images.filter (fun (i : Image) => !lidActive s i.lid)
  let s := abandonWhere s (fun b _ => gone.any (fun i => i.block == b))
  let imgs := (s.ctx asid).images
  if imgs.all (imageFits s) then
    let s := imgs.foldl (fun s i => restoreImage s asid i) s
    let s := s.setCtx asid { s.ctx asid with images := [] }
    ctxIdle (ctxDone s asid (if holds then .running else .ready) 0) asid
  else s
/-- A RESTORE in progress, which waits for what its blocks need on their cores, is tried again. -/
def retryRestore (s : State) (asid : Nat) : State := if (s.ctx asid).st == .saved && (s.ctx asid).busy then tryRestore s asid else s

end Sys2Proof.Machine
end

