-- ==== Sys2Proof/Machine/Kernel.lean ====
section
/-! DEFINITION. Waves and blocks at their end, and the completion of kernels: the retire counter, the job record, the signal word and
the host delivery (R181 to R184, R218, R367). -/

namespace Sys2Proof.Machine

/-! ### Waves and blocks (R181, R187, R218) -/

/-- A wave leaves its slot with what it still holds inside the core; its slot and rows are free from the next cycle on (R187). -/
def removeWave (s : State) (r : WaveRef) (w : Wave) : State :=
  let s := freeRows s r w
  let c := s.coreOf r
  let s := s.setCoreOf r { c with
    slices := c.slices.map (fun x => (x.1, if x.2.run.map (·.1) == some r.slot then { x.2 with run := none } else x.2)) }
  { s with waves := tdel s.waves r, ops := s.ops.filter (fun (o : Nat × Op) => o.2.wuid != w.uid) }
/-- EXIT_CLOSE_COMPLETE (R218): the close of the exiting wave is complete, with its engine commands and compared entries; nothing stands in its replay
queue, which a handler that exits never empties. -/
def execExitCloseComplete (r : WaveRef) (s : State) : Host.Outcome State Fault Refusal :=
  .next (match s.wave r with
    | none => s
    | some w => match w.exitOp.bind (fun o => s.op o) with
      | none => s
      | some x =>
        if accepted s x && w.rq.isEmpty && (opsOf s w.uid (fun k => isCapturedKind k || (match k with | .cmd c => c != .exit | _ => false))).isEmpty
            && s.twins.all (fun t => !(t.2.block == w.block && t.2.copy == w.copy && t.2.waveId == w.waveId)) then
          ctxIdle (removeWave s r w) w.asid
        else s)
/-- Nothing of a block is left to finish: its waves, copies and matrix commands. -/
def blockDone (s : State) (b : Nat) (x : Block) : Bool :=
  x.places.all (fun p => !p.saved && !p.retired) && s.waves.all (fun (w : WaveRef × Wave) => w.2.block != b)
    && s.copies.all (fun (c : Nat × Copy) => c.2.block != b || c.2.st == .done || c.2.st == .dropped)
    && s.mxs.all (fun (m : Nat × MxCmd) => m.2.block != b)
/-- The counter of a kernel; at N the kernel is COMPLETING (Table 8.2). -/
def countRetired (s : State) (k : Nat) : State :=
  s.updKern k (fun x =>
    let x := { x with counter := x.counter + 1, blocks := (x.blocks + 1) % 2 ^ 32 }
    if x.counter = x.l.gx * x.l.gy * x.l.gz ∧ (x.st = .dispatching ∨ x.st = .running) then
      { x with st := .completing, phase := 1, tend := s.ns, word := BitVec.ofNat 32 x.l.doneVal }
    else x)
/-- BLOCK_RETIRE (R181): peer requests that passed their checks are performed (R298); the block's shares are free from the next cycle on
(R187), its macros EMPTY, and the retire counter rises. -/
def execBlockRetire (b : Nat) (s : State) : Host.Outcome State Fault Refusal :=
  .next (match tfind s.blocks b with
    | none => s
    | some x =>
      if !blockDone s b x then s
      else
        let t := (List.range x.places.length).foldl (fun s j => flushPeer s b j) s
        if peerOut t b then s
        else
        let s := match t.kern x.kernel with
          | some k => x.places.foldl (fun s p => freeShare s p k.l) t
          | none => t
        let ps := x.places.map (fun p => { p with retired := true })
        let s := emptyMacros { s with blocks := tset s.blocks b { x with places := ps }, copies := s.copies.filter (fun (c : Nat × Copy) => c.2.block != b) } b
        let s := countRetired s x.kernel
        match s.kern x.kernel with
        | some k => ctxIdle s k.asid
        | none => s)

/-! ### Completion (R181, R184) -/

/-- The firmware measurement: the SHA-512 digest of the firmware image (R380). -/
def measurement : List Byte := sha512 Config.firmware
/-- Bytes 0x00 to 0x77 of a job record. -/
def jobBytes (k : Kern) : List Byte :=
  leBytes 8 (k.word.toNat * 2 ^ 32 + (if k.st == .aborted then 2 ^ 28 else 0) + k.asid * 2 ^ 16 + 1)
    ++ leBytes 8 (k.acceptedAs * 2 ^ 32 + k.l.queue) ++ leBytes 8 k.tstart ++ leBytes 8 k.tend ++ leBytes 8 (k.reruns * 2 ^ 32 + k.blocks)
    ++ measurement.take 16 ++ (k.codeHash ++ List.replicate 64 0).take 64
/-- The job record, signed; a write that faults is recorded. -/
def writeJob (s : State) (k : Kern) : State :=
  if !k.l.jobrec then s
  else
    let d := jobBytes k
    let dig := sha512 d
    match devWrite s k.asid k.l.jobVa (d ++ signatureBytes dig s.tick ++ List.replicate 4 0) with
    | (s, c, _) => if c = 0 then s else record s k.asid 2 c 0 0 0 (whoNone s)
/-- The exchange that writes the signal word. -/
def writeSignal (s : State) (k : Kern) : State :=
  if k.l.doneVa = 0 then s
  else match reachLine (arriveAt s k.asid k.l.doneVa) k.asid k.l.doneVa .wr with
    | (s, .bad c) => record s k.asid 2 c 0 0 k.l.doneVa (whoNone s)
    | (s, .ok l) =>
      if l.psn || l.pp then record s k.asid 2 0x104 0 0 k.l.doneVa (whoNone s)
      else putLine s k.asid k.l.doneVa l (leBytes 4 k.word.toNat)
/-- The kernel is DONE, or completed as ABORTED: its blocks leave the scheduler. -/
def finishKernel (s : State) (k : Nat) : State :=
  let s := s.updKern k (fun x => { x with phase := 3, st := if x.st == .completing then .done else x.st })
  { s with blocks := s.blocks.filter (fun (b : Nat × Block) => b.2.kernel != k) }
/-- Every operation of a kernel's waves that left its core is performed (R180, R183). -/
def kernelQuiet (s : State) (k : Nat) : Bool := s.ops.all (fun (o : Nat × Op) => o.2.kernel != k || o.2.performed)
/-- KERNEL_SIGNAL_PERFORMED: once what left the cores is performed, job record, then the signal word, then the host delivery where there is one. -/
def execKernelSignalPerformed (k : Nat) (s : State) : Host.Outcome State Fault Refusal :=
  .next (match s.kern k with
    | none => s
    | some x =>
      if x.phase ≠ 1 ∨ !(x.st == .completing || x.st == .aborted) ∨ !kernelQuiet s k then s
      else
        let s := writeSignal (writeJob s x) x
        if x.l.hqpn = 0 then finishKernel s k else s.updKern k (fun y => { y with phase := 2 }))

/-! ### Host delivery (R367) -/

/-- The send is skipped or dropped, with a record. -/
def skipSend (s : State) (k : Nat) (x : Kern) (cause : Nat) : State := finishKernel (record s x.asid 2 cause 0 0 0 (whoNone s)) k
/-- HOST_COMPLETION_SEND: judged against the connection present now; held while its port is not ACTIVE. -/
def execHostCompletionSend (k : Nat) (s : State) : Host.Outcome State Fault Refusal :=
  .next (match s.kern k with
    | none => s
    | some x =>
      if x.phase ≠ 2 then s
      else match endpointOf s x.l.hqpn, tfind s.conns x.l.hqpn with
        | some (_, q), some c =>
          if q.asid ≠ x.asid then skipSend s k x 0x106
          else if c.winLen < x.l.hoff + 4 then skipSend s k x 0x102
          else if s.port c.port == .down then
            s.updKern k (fun y => { y with sendAt := if y.sendAt.isSome then y.sendAt else some s.now })
          else if s.port c.port == .training then s
          else
            let s := { s with conns := tset s.conns x.l.hqpn { c with sent := (c.rkey, (c.winVa + x.l.hoff) % 2 ^ 64, x.word) :: c.sent } }
            s.updKern k (fun y => { y with phase := 4, sendAt := none })
        | _, _ => skipSend s k x 0x106)
/-- HOST_COMPLETION_ACK: the peer acknowledged the WRITE, in a frame of the connection's port (R363). -/
def execHostCompletionAck (k : Nat) (s : State) : Host.Outcome State Fault Refusal :=
  .next (match s.kern k with
    | none => s
    | some x => match tfind s.conns x.l.hqpn with
      | some c => if x.phase = 4 ∧ framesIn s c.port 1 = true then finishKernel (takeFrames s c.port 1) k else s
      | none => s)
/-- HOST_SEND_TIMEOUT: held by a port in DOWN for more than 1 s. -/
def execHostSendTimeout (k : Nat) (s : State) : Host.Outcome State Fault Refusal :=
  .next (match s.kern k with
    | none => s
    | some x =>
      let down := (tfind s.conns x.l.hqpn).any (fun c => s.port c.port == .down)
      match x.sendAt with
      | some t => if (x.phase = 2 ∨ x.phase = 4) ∧ down ∧ t + 1100000000 < s.now then skipSend s k x 0x106 else s
      | none => s)

end Sys2Proof.Machine
end

