-- ==== Sys2Proof/Machine/Context.lean ====
section
/-! DEFINITION. Contexts: psysw and its commands (R137 to R144, R153, R157, R164), pg.inval (R303, R304), and the end of DRAINING. -/

namespace Sys2Proof.Machine

/-! ### CREATE (R139) -/

/-- The checks of R139 on the 256 bytes of a context record. Its STATUS word belongs to the device, which takes SEQ from it and writes the
rest: the reserved bits of that word are not checked (entry 54). -/
def ctxRecordOk (va : Nat) (b : List Byte) : Bool :=
  let q := recWord b
  decide (va % 256 = 0) && bits (q 1) 2 62 == 0 && bits (q 3) 16 48 == 0 && bits (q 12) 32 32 == 0 && bits (q 15) 5 59 == 0
    && (List.range 12).all (fun i => q (20 + i) == 0) && bits (q 3) 0 16 != 0 && (List.range 8).any (fun i => q (4 + i) != 0)
    && decide (6 ≤ bits (q 15) 0 5) && decide (bits (q 15) 0 5 ≤ 16) && decide (q 2 % 16384 = 0) && decide (q 13 % 8 = 0)
    && decide (q 14 % 64 = 0) && decide (q 16 % 16384 = 0) && decide (q 17 % 16384 = 0) && decide (q 18 % 8 = 0)
    && ((q 1).testBit 1 || q 19 == 0)
/-- The fields of Table 6.1 in the device's copy. -/
def ctxFields (c : Ctx) (b : List Byte) : Ctx :=
  let q := recWord b
  { c with
    keyed := (q 1).testBit 1, ilk := (q 1).testBit 0, dieset := bits (q 3) 0 16
    chanset := (List.range 512).filter (fun n => (q (4 + n / 64)).testBit (n % 64))
    deadline := if bits (q 12) 0 32 = 0 then Config.defaultDeadline else bits (q 12) 0 32
    handler := q 13, fqBase := q 14, fqLog2 := bits (q 15) 0 5, frameBase := q 16, saveBase := q 17, capsig := q 18 }
/-- The key pair of a wrapped blob (R380): header, unwrap by the root, halves that differ. -/
def keyOf (s : State) (va asid : Nat) : State × Option (List Byte) :=
  match devRead s 0 va 256 with
  | (s, d, c, _) =>
    if c ≠ 0 ∨ recWord d 0 ≠ 0x4B42 * 2 ^ 48 + asid then (s, none)
    else match unwrapKey d asid with
      | none => (s, none)
      | some k => (s, if k.length = 64 ∧ k.take 32 ≠ k.drop 32 then some k else none)
/-- The stripe map as the device copies it (R289); a map that cannot be read leaves every entry unusable. -/
def stripeOf (s : State) (va : Nat) : State × List (Nat × Nat) :=
  match devRead s 0 va 8192 with
  | (s, d, c, _) => (s, (List.range 4096).map (fun i => (i, if c = 0 then leVal ((d.drop (2 * i)).take 2) else 0xFFFF)))
/-- CREATE: FREE to BUILDING, then READY or FREE (Table 6.2). -/
def ctxCreate (s : State) (asid va : Nat) : State :=
  match devRead s 0 va 256 with
  | (s, d, c, _) =>
    let s := s.setCtx asid { Ctx.fresh with st := .building, recVa := va, lastCmd := 1, busy := true, seqn := bits (recWord d 0) 32 32 }
    let s := ctxStatus s asid
    if c ≠ 0 || !ctxRecordOk va d then ctxDone s asid .free 1
    else
      let s := s.setCtx asid (ctxFields (s.ctx asid) d)
      let ready := fun (s : State) (key : List Byte) =>
        match stripeOf s (recWord d 2) with
        | (s, m) => ctxDone (s.setCtx asid { s.ctx asid with key := key, stripe := m }) asid .ready 0
      if (s.ctx asid).keyed then
        match keyOf s (recWord d 19) asid with
        | (s, none) => ctxDone (s.setCtx asid { s.ctx asid with keyed := false }) asid .free 2
        | (s, some k) => ready s k
      else ready s []

/-! ### The other commands -/

/-- PREEMPT (R153): from RUNNING, PREQ in every wave, and each core's deadline count. -/
def ctxPreempt (s : State) (asid : Nat) : State :=
  if (s.ctx asid).st == .ready then ctxDone s asid .saved 0
  else
    let s := { s with waves := s.waves.map (fun (w : WaveRef × Wave) => if w.2.asid == asid then (w.1, { w.2 with preq := true, live := none }) else w) }
    let at' := (s.blocks.flatMap (fun (b : Nat × Block) =>
      if (s.kern b.2.kernel).any (fun k => k.asid == asid) then (b.2.places.filter (fun p => !p.retired)).map (fun p => (p.die, p.core)) else [])).eraseDups
    let s := at'.foldl (fun (s : State) (x : Nat × Nat) =>
      let c := s.core x.1 x.2
      s.setCore x.1 x.2 { c with deadlines := tset c.deadlines asid (s.cyc x.1 + (s.ctx asid).deadline) }) s
    ctxStatus (s.setCtx asid { s.ctx asid with st := .preempting, images := [] }) asid
/-- RESTORE (Table 6.2). -/
def ctxRestore (s : State) (asid : Nat) : State :=
  match imagesBad s asid with
  | (s, true) => ctxDone (discardBlocks s asid) asid .dead 4
  | (s, false) => tryRestore s asid
/-- Kernels of a context that have not finished. -/
def ctxKernels (s : State) (asid : Nat) : List Nat := (s.kerns.filter (fun (k : Nat × Kern) => k.2.asid == asid && k.2.phase != 3)).map (·.1)
/-- DESTROY: to DRAINING; pending and running kernels are aborted with reason 4, a stop at any state the waves are in; the context's records leave the
sluices (R317), but for those of fenced dies, which refuse (R370). -/
def ctxDestroy (s : State) (asid : Nat) : State :=
  let s := ctxStatus (s.setCtx asid { s.ctx asid with st := .draining }) asid
  let s := (ctxKernels s asid).foldl (fun s k => abortKernel s k 4 0) s
  refuseDrops (dropRecs s (fun a _ => a == asid))
/-- SETDL: DEADLINE is read again; a read that fails leaves the device's copy as it is, with RESULT 0 (entry 63: the model's choice). -/
def ctxSetdl (s : State) (asid : Nat) : State :=
  match devRead s 0 ((s.ctx asid).recVa + 0x60) 4 with
  | (s, d, c, _) =>
    let v := leVal d
    let x := s.ctx asid
    let x := if c ≠ 0 then x else { x with deadline := if v = 0 then Config.defaultDeadline else v }
    ctxStatus (s.setCtx asid { x with result := 0, busy := false }) asid
/-- A row of Table 6.2 exists for a command in a state. -/
def ctxRow (st : CtxSt) (cmd : Nat) : Bool :=
  match st with
  | .free => cmd == 1
  | .building => cmd == 5
  | .ready => cmd == 2 || cmd == 4 || cmd == 5
  | .running => cmd == 2 || cmd == 4 || cmd == 5
  | .preempting => cmd == 5
  | .saved => cmd == 3 || cmd == 4 || cmd == 5
  | .draining => cmd == 5
  | .dead => cmd == 4 || cmd == 5
def ctxCmd (s : State) (asid cmd va : Nat) : State :=
  if cmd = 1 then ctxCreate s asid va
  else
    let s := s.setCtx asid { s.ctx asid with lastCmd := cmd, busy := true }
    if cmd = 2 then ctxPreempt s asid
    else if cmd = 3 then ctxRestore s asid
    else if cmd = 4 then ctxDestroy s asid
    else ctxSetdl s asid
/-- psysw takes effect after its close (R164): the status. -/
def runPsysw (cmd : Nat) (d : SReg) (asid : Nat) (arg : W64) (s : State) (o : Nat) : State :=
  let x := s.ctx asid
  if asid = 0 then giveStatus s o d [3]
  else if cmd ≠ 1 ∧ arg ≠ 0 then giveStatus s o d [1]
  else if x.busy then giveStatus s o d [2]
  else if !ctxRow x.st cmd then giveStatus s o d [1]
  else giveStatus (ctxCmd s asid cmd arg.toNat) o d [0]
def psyswIssue (cmd : Nat) (d : SReg) (a : SSrc) (b : SPair) (s : State) (i : Issue) : Option State :=
  if i.e = 0 then some s
  else if slackStall s i then none
  else
    let asid := (ssrc s i.w a).v.toNat
    let arg := (spair s i.w b).1
    some (command s i (.psysw cmd d (asid % 4096) arg) true [asid, arg.toNat] (cmdAfter s i) (some d) 1 (runPsysw cmd d (asid % 4096) arg))
def execPsyswCreate (c : Cm) (d : SReg) (a : SSrc) (b : SPair) (s : State) : Host.Outcome State Fault Refusal :=
  issueOp s (.psyswCreate c d a b) c 1 (psyswIssue 1 d a b)
def execPsyswPreempt (c : Cm) (d : SReg) (a : SSrc) (b : SPair) (s : State) : Host.Outcome State Fault Refusal :=
  issueOp s (.psyswPreempt c d a b) c 1 (psyswIssue 2 d a b)
def execPsyswRestore (c : Cm) (d : SReg) (a : SSrc) (b : SPair) (s : State) : Host.Outcome State Fault Refusal :=
  issueOp s (.psyswRestore c d a b) c 1 (psyswIssue 3 d a b)
def execPsyswDestroy (c : Cm) (d : SReg) (a : SSrc) (b : SPair) (s : State) : Host.Outcome State Fault Refusal :=
  issueOp s (.psyswDestroy c d a b) c 1 (psyswIssue 4 d a b)
def execPsyswSetdl (c : Cm) (d : SReg) (a : SSrc) (b : SPair) (s : State) : Host.Outcome State Fault Refusal :=
  issueOp s (.psyswSetdl c d a b) c 1 (psyswIssue 5 d a b)

/-! ### The end of DRAINING (R144, R167) -/

/-- The lines of an ASID go: written back unless the context is keyed, whose dirty lines are discarded and its key destroyed. What it left
in scratchpads is no later context's (R190). -/
def retireAsid (s : State) (asid : Nat) : State :=
  let s := refuseDrops (dropL1s s (fun l => l.asid == asid))
  let s := dropRecs { s with
    cores := s.cores.map (fun (c : (Nat × Nat) × Core) => (c.1, { c.2 with spadCtx := c.2.spadCtx.filter (fun x => x.2 != asid) })) } (fun a _ => a == asid)
  if (s.ctx asid).keyed then { s with slines := s.slines.filter (fun e => e.1.1 != asid) }
  else evictWhere s (fun a _ _ => a == asid)
/-- Launches of a context that are still PENDING or READY. -/
def ctxPending (s : State) (asid : Nat) : List Nat :=
  (s.kerns.filter (fun (k : Nat × Kern) => k.2.asid == asid && (k.2.st == .pending || k.2.st == .ready))).map (·.1)
/-- What a context has besides its lines goes: its queues close, its watch entries, operations, copies and pages in transit go, and it is FREE with every
field as at reset but its last command. -/
def freeCtx (s : State) (asid : Nat) : State :=
  let mine := (s.queues.filter (fun (q : Nat × Queue) => q.2.asid == asid && q.2.st != .closed)).map (·.1)
  let s := mine.foldl closeQueue s
  let s := { s with
    watches := s.watches.filter (fun w => w.2.asid != asid)
    ops := s.ops.filter (fun (o : Nat × Op) => o.2.asid != asid)
    copies := s.copies.filter (fun (c : Nat × Copy) => c.2.asid != asid)
    chans := s.chans.map (fun (c : Nat × Chan) => (c.1, { c.2 with old := tdel c.2.old asid, away := c.2.away.filter (fun e => e.1 != asid) })) }
  (ctxDone s asid .free 0).setCtx asid { Ctx.fresh with lastCmd := 4 }
/-- CONTEXT_DRAIN_COMPLETE (Table 6.2): with nothing of the context left but launches its queues took while it was DRAINING, those are
aborted (R167, Table 8.2), and once their words are written it is FREE and its queues CLOSED. The DESTROY that began it completes here, so
that until then the context has a command in progress (R142; entry 54). -/
def execContextDrainComplete (asid : Nat) (s : State) : Host.Outcome State Fault Refusal :=
  .next (
    if (s.ctx asid).st != .draining then s
    else if s.waves.any (fun (w : WaveRef × Wave) => w.2.asid == asid) || s.ops.any (fun (o : Nat × Op) => o.2.asid == asid && !o.2.performed)
        || s.copies.any (fun (c : Nat × Copy) => c.2.asid == asid && c.2.st != .done && c.2.st != .dropped)
        || s.kerns.any (fun (k : Nat × Kern) => k.2.asid == asid && k.2.phase != 3 && k.2.st != .pending && k.2.st != .ready)
        || s.recq.any (fun r => r.asid == asid) then s
    else if !(ctxPending s asid).isEmpty then (ctxPending s asid).foldl (fun s k => abortKernel s k 4 0) s
    else freeCtx (retireAsid s asid) asid)

/-! ### pg.inval (R304) -/

/-- The pages a pg.inval covers. -/
def pgCovers (var asid : Nat) (va : W64) (a vpn : Nat) : Bool :=
  if var = 0 then a == asid && vpn == vpnOf va.toNat else if var = 1 then a == asid else true
/-- After its close: status 1, or the covered entries and lines are dropped, once no access of the pages stands between its check and its
performance (R298, R304); the status follows with PG_INVAL_COMPLETE. -/
def runPgInval (var : Nat) (d : SReg) (asid : Nat) (va : W64) (s : State) (o : Nat) : State :=
  if (var ≠ 2 ∧ 4095 < asid) ∨ (var = 0 ∧ 2 ^ 56 ≤ va.toNat) then giveStatus s o d [1]
  else if stillOut (flushPages s (pgCovers var asid va)) (ofPages (pgCovers var asid va)) then flushPages s (pgCovers var asid va)
  else
    let s := dropRecs (leavePages s (pgCovers var asid va)) (fun a rec => pgCovers var asid va a (vpnOf rec))
    s.updOp o (fun x => { x with left := true })
/-- PG_INVAL_COMPLETE: every step is done; stalled copies of the covered pages are released (Table 15.5). -/
def execPgInvalComplete (o : Nat) (s : State) : Host.Outcome State Fault Refusal :=
  .next (match s.op o with
    | none => s
    | some x => match x.kind with
      | .cmd (.pgInval var d asid va) =>
        if !x.left || x.twin == 3 then s
        else
          let s := { s with copies := s.copies.map (fun (c : Nat × Copy) =>
            let l := c.2.stallVa.map (fun a => (a.1, a.2 || pgCovers var asid va c.2.asid (vpnOf a.1)))
            if c.2.st == .stalled then (c.1, { c.2 with stallVa := l, released := l.all (·.2) }) else c) }
          giveStatus s o d [0]
      | _ => s)
def pgIssue (var : Nat) (d : SReg) (asid : Val) (va : W64 × Bool) (blocks : List Nat) (s : State) (i : Issue) : Option State :=
  if i.e = 0 then some s
  else if slackStall s i then none
  else if asid.psn || va.2 then some (faultEntry s i false (faultMask i.e 0x104) true blocks)
  else some (command s i (.pgInval var d asid.v.toNat va.1) true blocks (cmdAfter s i) (some d) 1 (runPgInval var d asid.v.toNat va.1))
def execPgInvalPage (c : Cm) (d : SReg) (a : SPair) (b : SSrc) (s : State) : Host.Outcome State Fault Refusal :=
  issueOp s (.pgInvalPage c d a b) c 1 (fun s i =>
    let va := spair s i.w a
    let x := ssrc s i.w b
    pgIssue 0 d x va [va.1.toNat, x.v.toNat] s i)
def execPgInvalAsid (c : Cm) (d : SReg) (b : SSrc) (s : State) : Host.Outcome State Fault Refusal :=
  issueOp s (.pgInvalAsid c d b) c 1 (fun s i =>
    let x := ssrc s i.w b
    pgIssue 1 d x (0, false) [x.v.toNat] s i)
def execPgInvalAll (c : Cm) (d : SReg) (s : State) : Host.Outcome State Fault Refusal :=
  issueOp s (.pgInvalAll c d) c 1 (fun s i => pgIssue 2 d Val.zero (0, false) [] s i)

end Sys2Proof.Machine
end

