-- ==== Sys2Proof/Machine/Die.lean ====
section
/-! DEFINITION. Chiplets: fencing, reset, power and admission (R369 to R371), the completion of a management request (R392), and the
package reset (R8, R17). -/

namespace Sys2Proof.Machine

/-! ### Numbers of R361 -/

def isCompute (n : Nat) : Bool := decide (n < 18)
def isCache (n : Nat) : Bool := decide (0x20 ≤ n) && decide (n < 0x24)
def isChiplet (n : Nat) : Bool := isCompute n || isCache n || n == 0x30 || n == 0x31
/-- Channels of a cache die by chiplet number. -/
def channelsOf (n : Nat) : List Nat := (List.range 128).map (fun i => 128 * (n - 0x20) + i)

/-! ### The end of a management request (R368, R392) -/

/-- Word 0x00 is written for a request. -/
def finishReq (s : State) (cmd seq result : Nat) : State :=
  (devWrite { s with doneSeq := seq, mgmtResult := result, mgmtLast := cmd, mgmtBusy := none } 0 Config.mgmtVa
    (leBytes 8 (seq * 2 ^ 32 + result * 2 ^ 16 + cmd * 2 ^ 8))).1
/-- The request in progress completes if it is one of the commands about this unit. -/
def mgmtFor (s : State) (cmds : List Nat) (unit result : Nat) : State :=
  match s.mgmtBusy with
  | some (cmd, u, seq) => if cmds.contains cmd && u == unit then finishReq s cmd seq result else s
  | none => s

/-! ### Ports and links as a chiplet changes state -/

def setPort (s : State) (p : Nat) (x : PortSt) : State := { s with ports := tset s.ports p x }
/-- A kernel's send is on its way through a port. -/
def sendVia (s : State) (p : Nat) (k : Kern) : Bool :=
  (k.phase == 2 || k.phase == 4) && (tfind s.conns k.l.hqpn).any (fun c => c.port == p)
/-- A port reaches DOWN (R363, R367): the sends it holds are timed from now. -/
def portDown (s : State) (p : Nat) : State :=
  if s.port p == .down then s
  else
    let s := setPort s p .down
    { s with kerns := s.kerns.map (fun (k : Nat × Kern) => if sendVia s p k.2 then (k.1, { k.2 with sendAt := some s.now }) else k) }
/-- Every connection through a port is broken (R371): a send not acknowledged is judged again. -/
def breakConns (s : State) (p : Nat) : State :=
  { s with
    kerns := s.kerns.map (fun (k : Nat × Kern) => if sendVia s p k.2 then (k.1, unsend k.2) else k)
    conns := s.conns.filter (fun (c : Nat × Conn) => c.2.port != p) }
/-- A link changes its state or rate (R360). -/
def setLink (s : State) (l : LinkRef) (x : Link) : State :=
  let t := { s with links := tset s.links l x }
  if x.st = (s.link l).st ∧ x.rate = (s.link l).rate then t else capChange t
/-- Every link of a chiplet is QUIESCED (Table 18.1). -/
def quiesceLinks (s : State) (n : Nat) : State :=
  (modulesOf n).foldl (fun s l =>
    let x := s.link l
    if x.st == .down then s else setLink s l { x with st := .quiesced, busy := false }) s
/-- The links of a chiplet being admitted train, from 32 GT/s with all spare lanes (Table 19.2, R358): those that its fence left QUIESCED or DOWN, and those
of a spare, which Table 18.1 gives no row for (entry 8). -/
def trainLinks (s : State) (n : Nat) : State :=
  (modulesOf n).foldl (fun s l =>
    let x := s.link l
    if x.st != .training then setLink s l { x with st := .training, rate := .g32, spareTx := 4, spareRx := 4, busy := false } else s) s

/-! ### Fencing (R369 to R371) -/

/-- A chiplet enters FENCING; `err` for a fence raised for an error. A context in PREEMPTING loses what is saved of the die's blocks too: its cores report
no blocks (R370). -/
def enterFencing (s : State) (n : Nat) (err : Bool) : State :=
  let s := s.setDie n { s.die n with st := .fencing, err := err }
  if isCompute n then
    let leaves := fun (b : Block) => (s.kern b.kernel).any (fun k => (s.ctx k.asid).st == .preempting)
    let s := abandonWhere s (fun _ b => b.places.any (fun p => p.die == n && !p.retired && (!p.saved || leaves b)))
    { s with cores := s.cores.map (fun (c : (Nat × Nat) × Core) => if c.1.1 = n then (c.1, { c.2 with deadlines := [] }) else c) }
  else if n = 0x31 then breakConns (portDown s 1) 1
  else s
/-- The device raises FENCE on its own. -/
def fenceForError (s : State) (n : Nat) : State := if (s.die n).st == .active then enterFencing s n true else s
/-- An operation of a die's cores: none of a wave that stands in a core image. -/
def ofDie (s : State) (n : Nat) (x : Op) : Bool := isCompute n && x.w.die == n && !(savedUids s (fun _ => true)).contains x.wuid
/-- Operations that left a die's cores are all performed. -/
def dieQuiet (s : State) (n : Nat) : Bool := s.ops.all (fun (o : Nat × Op) => !ofDie s n o.2 || o.2.performed)
/-- FENCING_QUIESCED (Table 19.2). -/
def execFencingQuiesced (ch : Nat) (s : State) : Host.Outcome State Fault Refusal :=
  if !isChiplet ch then .fault (.noSuchUnit ch)
  else .next (
    if (s.die ch).st != .fencing || !dieQuiet s ch then s
    else
      let s := quiesceLinks s ch
      let s := { s with ops := s.ops.filter (fun (o : Nat × Op) => !ofDie s ch o.2) }
      let err := (s.die ch).err
      let s := capChange (s.setDie ch { s.die ch with st := if err then .failed else .quiesced })
      let s := if err then record s 0 2 0x106 0 0 (ch * 256) (whoNone s) else s
      mgmtFor s [1] ch 0)
/-- DIE_ERROR_FENCE. -/
def execDieErrorFence (die : Nat) (s : State) : Host.Outcome State Fault Refusal :=
  if !isCompute die then .fault (.noSuchUnit die) else .next (fenceForError s die)
/-- IO_DIE1_FAULT. -/
def execIoDie1Fault (s : State) : Host.Outcome State Fault Refusal := .next (fenceForError s 0x31)

/-! ### Admission -/

/-- Power-on or warm reset: the die's logic, SRAMs, tables and permits are as after reset; those of a cache die are its slices' tables and
its channels' controllers (R371), whose HBM keeps what their images held. -/
def clearDie (s : State) (n : Nat) : State :=
  if isCache n then
    let s := (channelsOf n).foldl (fun s c =>
      let s := flushChan s c
      s.setChan c { s.chan c with tlb := [], corr := [], hintTill := 0, banked := 0 }) s
    { s with
      slines := s.slines.filter (fun e => cacheDieOf e.2.chan != n)
      watches := s.watches.filter (fun e => 0x20 + e.2.slice / 64 != n) }
  else if !isCompute n then s
  else
    let s := { s with
      cores := s.cores.filter (fun (c : (Nat × Nat) × Core) => c.1.1 != n)
      disps := tdel s.disps n
      recs := s.recs.filter (fun (r : (Nat × Nat) × List (Nat × Nat × List Byte)) => r.1.1 != n)
      sluiceRr := s.sluiceRr.filter (fun r => r.1.1 != n) }
    (List.range 40).foldl (fun s c => s.setCore n c (Core.fresh (s.cyc n))) s
/-- Amperes granted to the dies of the core rail: compute and cache dies (R24). -/
def granted (s : State) : Nat := ((List.range 18 ++ [0x20, 0x21, 0x22, 0x23]).map (fun d => (s.die d).grant)).foldl (· + ·) 0
/-- A chiplet begins ADMITTING: its links retrain from 32 GT/s, and it draws from what the ceiling leaves (R24). Its clock starts at 1100 MHz
(entry 48: the model's choice). -/
def toAdmitting (s : State) (n : Nat) : State :=
  let s := trainLinks (clearDie s n) n
  let x := (s.die n).setMhz s.now 1100
  let s := s.setDie n { x with grant := 0 }
  s.setDie n { x with
    st := .admitting, err := false, grant := if isCompute n || isCache n then min 150 (16000 - granted s) else x.grant
    stepAt := s.now, raiseAt := s.now, accRef := x.ticksAt s.now, refAt := s.now }
/-- DIE_RESET_COMPLETE. -/
def execDieResetComplete (ch : Nat) (s : State) : Host.Outcome State Fault Refusal :=
  if !isChiplet ch then .fault (.noSuchUnit ch)
  else .next (if (s.die ch).st == .reset then toAdmitting s ch else s)
/-- Every router has a module that trained. -/
def routersUp (s : State) (n : Nat) : Bool :=
  (List.range 4).all (fun r => (modulesOf n).any (fun l => l.router == r && ((s.link l).st == .active || (s.link l).st == .stepped)))
/-- DIE_ADMIT_RESULT: no link is training any more. The CLKMHZ word of a die just admitted is 1100 (entry 48: the model's choice). -/
def execDieAdmitResult (ch : Nat) (pass : Bool) (s : State) : Host.Outcome State Fault Refusal :=
  if !isChiplet ch then .fault (.noSuchUnit ch)
  else .next (
    if (s.die ch).st != .admitting || (modulesOf ch).any (fun l => (s.link l).st == .training) then s
    else if pass && routersUp s ch then
      let s := s.setDie ch { s.die ch with st := .active }
      let s := match (s.die ch).lid with
        | some lid => { s with capMhz := tset s.capMhz lid 1100 }
        | none => s
      let s := if ch = 0x31 then setPort s 1 .training else s
      mgmtFor (capChange s) [2, 4, 5] ch 0
    else mgmtFor (s.setDie ch { s.die ch with st := .failed }) [2, 4, 5] ch 4)

/-! ### Package reset (R8, R17; entry 19) -/

/-- HBM keeps its bytes; firmware writes every translation table as zero (R292). -/
def packageReset (s : State) : State :=
  { State.reset with
    tick := s.tick
    agenda := s.agenda
    nextId := s.nextId
    hbm := s.hbm.filter (fun (c : Host.Cell) => decide (2 ^ 22 ≤ c.1 % 2 ^ 31))
    hpsn := s.hpsn.filter (fun p => decide (2 ^ 22 ≤ 128 * p.1 % 2 ^ 31)) }
/-- COLD_RESET. -/
def execColdReset (s : State) : Host.Outcome State Fault Refusal := .next (packageReset s)
/-- IO_DIE0_UNIT_FAULT (R371). -/
def execIoDie0UnitFault (unit : IoUnit) (s : State) : Host.Outcome State Fault Refusal :=
  .next (match unit with
    | .scheduler => { s with schedMirror := true }
    | .arbiter => { s with arbMirror := true }
    | .port => portDown s 0
    | .queueEngine => packageReset s
    | .root => packageReset s)

end Sys2Proof.Machine
end

