-- ==== Sys2Proof/Machine/Budget.lean ====
section
/-! DEFINITION. The capacity signal, CLKMHZ, the current budget and refresh (R376, R378, R379). -/

namespace Sys2Proof.Machine

/-- The signal word of one context; a store that faults leaves a record, whose VA is zero (Table 6.6). -/
def signalCtx (s : State) (asid : Nat) : State :=
  let va := (s.ctx asid).capsig
  if va = 0 then s
  else match devWrite s asid va (leBytes 4 (s.gen % 2 ^ 32)) with
    | (s, c, _) => if c = 0 then s else record s asid 2 c 0 0 0 (whoNone s)
/-- 100 µs: within it of a change or of the last write no signal word is written, so that changes within 100 µs get one write at most (R376). -/
def capEarly (s : State) : Bool := decide (s.now < s.capAt + 110000) || s.capSentAt.any (fun t => decide (s.now < t + 110000))
/-- CAPSIG_WRITE: once for the changes that fall within 100 µs, always the latest GEN. -/
def execCapsigWrite (s : State) : Host.Outcome State Fault Refusal :=
  .next (
    if !s.capPending || capEarly s then s
    else
      let live := (s.ctxs.filter (fun (x : Nat × Ctx) => x.2.st != .free && x.2.st != .building)).map (·.1)
      live.foldl signalCtx { s with capPending := false, capSentAt := some s.now })

/-- The mean clock of a die since the last refresh of its word, or since its admission, in MHz (R376, R396). -/
def meanMhz (s : State) (n : Nat) : Nat := ((s.die n).ticksAt s.now - (s.die n).accRef) / (s.now - (s.die n).refAt)
/-- CLKMHZ_REFRESH: once in a millisecond, the mean clock since the last one. -/
def execClkmhzRefresh (s : State) : Host.Outcome State Fault Refusal :=
  .next (
    if s.now < s.clkAt + 1100000 then s
    else
      let held := (List.range 16).filterMap (fun lid => (s.holder lid).bind (fun d => if inService s d && decide ((s.die d).refAt < s.now) then some (lid, d) else none))
      let new := held.map (fun x => (x.1, meanMhz s x.2))
      let changed := new.any (fun x => x.2 != tget 1100 s.capMhz x.1)
      let t := held.foldl (fun s x => s.setDie x.2 { s.die x.2 with accRef := (s.die x.2).ticksAt s.now, refAt := s.now }) s
      let t := { t with clkAt := s.now, capMhz := new.foldl (fun m x => tset m x.1 x.2) s.capMhz }
      if changed then capChange t else t)

/-- The chiplets that share the core rail, in the order of a demand list: compute dies by physical number, then cache dies. -/
def railDies : List Nat := List.range 18 ++ [0x20, 0x21, 0x22, 0x23]
def onRail (s : State) (n : Nat) : Bool := (s.die n).st == .active || (isCompute n && (s.die n).st == .admitting)
/-- The unit in charge of the budget works. -/
def arbiterUp (s : State) : Bool := !s.arbMirror || (s.die 0x31).st == .active
/-- The dies that stay at 150 A: those whose share of what the dies at 150 A leave would be less. At most as many rounds as dies. -/
def floorDies (ds : List (Nat × Nat)) : Nat → List Nat → List Nat
  | 0, low => low
  | n + 1, low =>
    let total := ((ds.filter (fun x => !low.contains x.1)).map (·.2)).foldl (· + ·) 0
    let more := (ds.filter (fun x => !low.contains x.1 && (total == 0 || decide ((16000 - 150 * low.length) * x.2 / total < 150)))).map (·.1)
    if more.isEmpty then low else floorDies ds n (low ++ more)
/-- The grants, for a list of dies with their demands: in proportion to demand where no share falls below 150 A; else 150 A for those below,
and for each of the others between 150 A and its share of what is left (entry 14). The ceiling of 16000 A holds. -/
def grantsOf (s : State) (ds : List (Nat × Nat)) : List (Nat × Nat) :=
  let low := floorDies ds ds.length []
  let total := ((ds.filter (fun x => !low.contains x.1)).map (·.2)).foldl (· + ·) 0
  ds.map (fun x =>
    if low.contains x.1 then (x.1, 150)
    else
      let p := (16000 - 150 * low.length) * x.2 / total
      (x.1, if low.isEmpty then p else max 150 (min p (Config.grant s.tick x.1))))
/-- ARBITER_GRANT: every 8 µs. -/
def execArbiterGrant (demand : List Nat) (s : State) : Host.Outcome State Fault Refusal :=
  .next (
    if s.now < s.grantAt + 8800 || !arbiterUp s then s
    else
      let ds := ((railDies.mapIdx (fun i n => (i, n))).filter (fun x => onRail s x.2)).map (fun x => (x.2, demand.getD x.1 0))
      (grantsOf s ds).foldl (fun s x => s.setDie x.1 { s.die x.1 with grant := x.2 }) { s with grantAt := s.now })
/-- ARBITER_TAKEOVER: no grant for 16 µs. -/
def execArbiterTakeover (s : State) : Host.Outcome State Fault Refusal :=
  .next (if s.now < s.grantAt + 17600 || (s.die 0x31).st != .active then s else { s with arbMirror := true })
/-- CLOCK_STEP: a die compares its draw with its grant, at most once in a microsecond; it raises its clock at most once
in an interval of 8 µs. -/
def execClockStep (ch draw : Nat) (s : State) : Host.Outcome State Fault Refusal :=
  if !(isCompute ch || isCache ch) then .fault (.noSuchUnit ch)
  else .next (
    let x := s.die ch
    if x.st != .active || decide (s.now < x.stepAt + 1100) then s
    else
      let set := fun (mhz raise : Nat) => s.setDie ch { x.setMhz s.now mhz with stepAt := s.now, raiseAt := raise }
      if x.grant < draw then set (max 400 (x.mhz - 25)) x.raiseAt
      else if 10 * draw ≤ 9 * x.grant ∧ x.raiseAt + 8800 ≤ s.now then set (min 1100 (x.mhz + 25)) s.now
      else set x.mhz x.raiseAt)
/-- HBM_REFRESH (R379): inside a window the controller banks up to 8 intervals ahead; after it, it defers as many. -/
def execHbmRefresh (ch : Nat) (s : State) : Host.Outcome State Fault Refusal :=
  if Config.nChan ≤ ch then .fault (.noSuchUnit ch)
  else .next (
    let k := s.chan ch
    if s.now < k.hintTill then s.setChan ch { k with banked := min 8 (k.banked + 1) } else s.setChan ch { k with banked := k.banked - 1 })

end Sys2Proof.Machine
end

