-- ==== Sys2Proof/Machine/Channel.lean ====
section
/-! DEFINITION. Channel retirement: the maps on entry to RETIRING, the migration engine, and the return of a channel (R372 to R375). -/

namespace Sys2Proof.Machine

/-! ### The page at BP (R373, R374) -/

/-- The page of an entry. -/
def pageOf (w0 : Nat) : Nat × Nat := (bits w0 42 12, bits w0 0 42)
/-- Line i of a page is copied with its check word, from an offset of one channel to one of another. The read may meet an error (R308): a corrected one
counts for its row; an uncorrectable one poisons the line, at its new place, for the page's context. -/
def copyLine (s : State) (asid ln i c a d b : Nat) : State :=
  let s := touchRow s c a none none
  let data := s.hbmLine c a
  let mark := s.hbmMark c a
  if s.flaw = 11 + 2 * i then
    let s := { s with flaw := 0 }
    touchRow (s.setChan c { s.chan c with corr := (s.chan c).corr ++ [(a / 128 / 15, s.now)] }) d b (some data) (some mark)
  else if s.flaw = 12 + 2 * i then touchRow { s with flaw := 0, flawed := s.flawed ++ [(asid, ln)] } d b (some data) (some (some asid))
  else touchRow s d b (some data) (some mark)
/-- Write back the page's slice lines, and copy its frame with the check words, through the two controllers (R373 step 2). -/
def copyFrame (s : State) (asid vpn c f d g : Nat) : State :=
  let s := evictWhere s (fun a l _ => (a == asid && vpnOf (l * 128) == vpn && !inWindow a (l * 128)))
  let win := fun (ch fr : Nat) (a l : Nat) => inWindow a (l * 128) && winChan (l * 128) == ch && winOff (l * 128) / 16384 == fr
  let s := evictWhere s (fun a l _ => win c f a l)
  let s := { s with slines := s.slines.filter (fun e => !win d g e.1.1 e.1.2) }
  (List.range 128).foldl (fun s i => copyLine s asid (128 * vpn + i) i c (16384 * f + 128 * i) d (16384 * g + 128 * i)) s
/-- Step 4: the conflict buffer, whose accesses the new copy holds, is empty, and BP advances. -/
def passPage (s : State) (c : Nat) (t : Transit) : State :=
  let p := pageOf t.w0
  s.setChan c { s.chan c with transit := none, conflict := [], bp := some (p.1, p.2 + 1) }

/-! ### Entry to RETIRING (R372) -/

/-- ACTIVE channels of a context's CHANSET other than c, ascending. -/
def otherChans (s : State) (asid c : Nat) : List Nat := (s.ctx asid).chanset.filter (fun n => n != c && (s.chan n).st == .active)
/-- Stripe indices of a context that name c. -/
def indicesOf (s : State) (asid c : Nat) : List Nat := (List.range 4096).filter (fun i => s.stripe asid i == c)
/-- One context's map moves off c; the indices that named it, where they moved. -/
def leaveMap (s : State) (c asid : Nat) : State × List Nat :=
  let ds := otherChans s asid c
  let is := indicesOf s asid c
  if ds.isEmpty then (s, [])
  else
    let x := s.ctx asid
    let m := (is.mapIdx (fun k i => (i, ds.getD (k % ds.length) c))).foldl (fun m y => tset m y.1 y.2) x.stripe
    (s.setCtx asid { x with stripe := m }, is)
/-- VPNs of a context from which on the home of an index's pages may be another: at boundary pointers, and at the ends of ranges. -/
def homeBreaks (s : State) (asid : Nat) : List Nat :=
  (0 :: s.oldHomes.flatMap (fun x => (match x.2.bp with | some p => (if p.1 = asid then [p.2] else []) | none => [])
    ++ (x.2.away.filter (fun e => e.1 == asid)).flatMap (fun e => [e.2.2.1, e.2.2.2]))).eraseDups
/-- The pages of an index whose map entry names a channel that an earlier retirement has still to move to their new home. -/
def awayPages (s : State) (asid idx : Nat) : List (Nat × Nat × Nat × Nat) :=
  let bs := homeBreaks s asid
  (bs.filter (fun b => (s.oldHomes.find? (holdsPage asid idx b)).isSome)).map (fun b =>
    (asid, idx, b, (bs.filter (fun x => decide (b < x))).foldl min (2 ^ 42)))
/-- Contexts that exist. -/
def liveCtxs (s : State) : List Nat := (s.ctxs.filter (fun (x : Nat × Ctx) => x.2.st != .free)).map (·.1)
/-- The page that another engine has in transit to a channel stays with that engine when the channel enters RETIRING: it begins again at step 1 for
another channel, or where its entry is placed already its step 4 is done (entry 28). -/
def turnBack (s : State) (c : Nat) (x : Nat × Chan) : State :=
  match x.2.transit with
  | none => s
  | some t =>
    if t.dest ≠ c then s
    else if t.step = 4 then passPage s x.1 t
    else if t.step = 1 then s
    else
      let p := pageOf t.w0
      let s := if t.step = 3 then copyFrame s p.1 p.2 c t.frame x.1 (bits t.w1 0 17) else s
      s.setChan x.1 { s.chan x.1 with transit := some { t with step := 1 } }
/-- A channel enters RETIRING with a frame pool, if a request gave one. -/
def enterRetiring (s : State) (c : Nat) (pool : Option Nat) : State :=
  let s := s.retiring.foldl (fun s x => turnBack s c x) s
  let away := (liveCtxs s).flatMap (fun asid => if (otherChans s asid c).isEmpty then [] else (indicesOf s asid c).flatMap (awayPages s asid))
  let r := (liveCtxs s).foldl (fun (r : State × List (Nat × List Nat)) asid =>
    let m := leaveMap r.1 c asid
    (m.1, r.2 ++ [(asid, m.2)])) (s, [])
  let s := r.1
  capChange ({ s with nextId := s.nextId + 1 }.setChan c
    { s.chan c with st := .retiring, order := s.nextId, bp := none, transit := none, conflict := [], pool := pool, taken := [], halt := 0, old := r.2, away := away })
/-- Errors of a row within one hour (3.96 × 10^12 units of 1/1100 µs). -/
def rowErrors (s : State) (c row : Nat) : Nat :=
  ((s.chan c).corr.filter (fun e => e.1 == row && decide (s.now ≤ e.2 + 3960000000000))).length
/-- CHANNEL_AUTO_RETIRE. -/
def execChannelAutoRetire (ch : Nat) (s : State) : Host.Outcome State Fault Refusal :=
  if Config.nChan ≤ ch then .fault (.noSuchUnit ch)
  else .next (
    if (s.chan ch).st == .active && (s.chan ch).corr.any (fun e => decide (64 < rowErrors s ch e.1)) then enterRetiring s ch none else s)
/-- CACHE_DIE_FAULT: each channel still ACTIVE begins its retirement; the die is fenced when its last one is RETIRED. -/
def allRetired (s : State) (n : Nat) : Bool := (channelsOf n).all (fun c => (s.chan c).st == .retired)
def execCacheDieFault (n : Nat) (s : State) : Host.Outcome State Fault Refusal :=
  if 4 ≤ n then .fault (.noSuchUnit (0x20 + n))
  else .next (
    let d := 0x20 + n
    if (s.die d).st != .active then s
    else
      let s := ((channelsOf d).filter (fun c => (s.chan c).st == .active)).foldl (fun s c => enterRetiring s c none) s
      let s := s.setDie d { s.die d with err := true }
      if allRetired s d then fenceForError s d else s)

/-! ### The end of a retirement (R374) -/

/-- The pages whose home is a channel, and those of its window. -/
def pagesAt (s : State) (c : Nat) (a v : Nat) : Bool :=
  s.home a (v * Config.pageBytes) == some c || (inWindow a (v * Config.pageBytes) && winChan (v * Config.pageBytes) == c)
/-- c is RETIRED: the requests it has checked are performed (R298), its lines leave its slice and its images their banks (R307), and only the
physical window names it. -/
def channelRetired (s : State) (c : Nat) (keep : Bool) : State :=
  let s := flushPages s (pagesAt s c)
  let s := flushChan (evictWhere s (fun _ _ l => l.chan == c)) c
  let k := s.chan c
  let s := s.setChan c { k with
    st := .retired, tlb := [], pool := none, transit := none, conflict := [], taken := [], halt := 0
    bp := if keep then k.bp else none, old := if keep then k.old else [], away := if keep then k.away else [] }
  let s := mgmtFor { s with engines := s.engines.filter (fun e => e.2 != c) } [6] c 0
  let d := cacheDieOf c
  if (s.die d).err && allRetired s d then fenceForError s d else s
/-- Every channel of a cache die becomes RETIRED at once (R362). -/
def retireAtOnce (s : State) (d : Nat) : State :=
  (channelsOf d).foldl (fun s c =>
    if (s.chan c).st == .retired then s
    else
      let s := if (s.chan c).st == .active then capChange s else s
      channelRetired s c true) s

/-! ### The migration engine (R373) -/

/-- The channel a cache die's engine works on. -/
def engineOf (s : State) (n : Nat) : Option Nat :=
  let works := fun (c : Nat) => (s.chan c).st == .retiring && (s.chan c).halt == 0
  match tfind s.engines n with
  | some c => if works c then some c else ((s.retiring.filter (fun x => x.1 / 128 == n && works x.1)).map (·.1)).head?
  | none => ((s.retiring.filter (fun x => x.1 / 128 == n && works x.1)).map (·.1)).head?
/-- An entry of an affected page that BP has not passed. -/
def affected (s : State) (c : Nat) (k : Chan) (w0 : Nat) : Bool :=
  let p := pageOf w0
  w0.testBit 63 && (s.ctx p.1).st != .free && (s.ctx p.1).chanset.contains c && stillHomes p.1 p.2 (c, k)
/-- The lower of two entries. -/
def lowerEntry (a : Option (Nat × Nat × Nat)) (b : Nat × Nat × Nat) : Option (Nat × Nat × Nat) :=
  match a with
  | none => some b
  | some x => if pageLt (pageOf b.2.1) (pageOf x.2.1) then some b else some x
/-- The lowest affected page that a bucket gives, or the one before it: its entry's offset in the table and its words. -/
def bucketPage (s : State) (c b : Nat) (a : Option (Nat × Nat × Nat)) : Option (Nat × Nat × Nat) :=
  let line := s.windowLine c (b * 128)
  if s.windowPoison c (b * 128) then a
  else (List.range 8).foldl (fun a i =>
    let w0 := leVal ((line.drop (16 * i)).take 8)
    if affected s c (s.chan c) w0 then lowerEntry a (b * 128 + 16 * i, w0, leVal ((line.drop (16 * i + 8)).take 8)) else a) a
/-- An engine reads bucket b of a channel's table (R306), which may meet an error: an uncorrectable one is recorded for ASID 0 (R308). -/
def tableBucket (s : State) (c b : Nat) : State :=
  let t := readBucket s c (b * 128) (132 + b)
  if s.flaw = 4 + 2 * (132 + b) then { t with flawed := t.flawed ++ [(0, lineOf (windowVa c (b * 128)))] } else t
/-- The next affected page of a channel, which its engine finds by reading the table. A poisoned bucket gives none, as to a walk (entry 28). -/
def nextPage (s : State) (c : Nat) : State × Option (Nat × Nat × Nat) :=
  (List.range 32768).foldl (fun r b => let s := tableBucket r.1 c b
                                       (s, bucketPage s c b r.2)) (s, none)
/-- A frame pool's next word for a channel. -/
inductive PoolRes where
  | word (i frame : Nat)
  | empty
  | bad (cause va : Nat)
deriving DecidableEq, Repr
def poolNext (va : Nat) (taken : List Nat) (d : Nat) : Nat → Nat → State → State × PoolRes
  | 0, _, s => (s, .empty)
  | n + 1, i, s =>
    if taken.contains i then poolNext va taken d n (i + 1) s
    else match devRead s 0 (va + 8 * i) 8 with
      | (s, x, c, _) =>
        let w := leVal x
        if c ≠ 0 then (s, .bad c (va + 8 * i))
        else if w = 0 then (s, .empty)
        else if bits w 32 10 = d then (s, .word i (bits w 0 17))
        else poolNext va taken d n (i + 1) s
/-- The first free entry of a page's four buckets at a channel, which the engine reads. -/
def freeEntryAt (s : State) (d asid vpn : Nat) : State × Option Nat :=
  (List.range 4).foldl (fun r j =>
    let b := (bucketOf asid vpn + j) % 32768
    if r.2.isSome then r
    else
      let s := tableBucket r.1 d b
      (s, if s.windowPoison d (b * 128) then none
        else (List.range 8).findSome? (fun i =>
          if (leVal (((s.windowLine d (b * 128)).drop (16 * i)).take 8)).testBit 63 then none else some (b * 128 + 16 * i)))) (s, none)
/-- The engine reads a word of the page it moves, in front of the accesses that its buffer holds. -/
def movedWord (s : State) (asid va : Nat) : State × W32 × Bool × Nat :=
  match reachLine s asid va .rd with
  | (s, .bad c) => (s, 0, false, c)
  | (s, .ok l) => (s, lineWord l.data (va % 128), l.psn || l.pp, 0)
/-- The page's watch entries take places in the new slice's table and are evaluated (R250); a word that cannot be read there, or is poisoned, does not
meet the condition, and its entry stays armed (entry 77: the model's choice). -/
def moveWatch (s : State) (d : Nat) (e : Nat × Watch) : State :=
  let sl := sliceOf d
  match movedWord s e.2.asid e.2.va with
  | (s, v, psn, c) =>
    let met := c = 0 ∧ !psn ∧ wcond e.2.cond v e.2.val
    let s := if met then wakeTarget s e.2.target v else s
    let gone := { s with watches := tdel s.watches e.1 }
    if met ∧ e.2.target.isSplit then gone
    else if e.2.slice = sl ∨ watchCount s sl < Config.watchEntries then { s with watches := tset s.watches e.1 { e.2 with slice := sl } }
    else match e.2.target with
      | .split u => gone.updSplit u (fun x => match x.st with
          | .waitWatch va cond val til _ _ pq dd m opn op wk => { x with st := .waitWatch va cond val til true (s.cyc u.w.die + 1024) pq dd m opn op wk }
          | _ => x)
      | .dep q i => updDep gone q i (fun y => { y with armed := false, next := s.now + pollCycles })
def moveWatches (s : State) (asid vpn d : Nat) : State :=
  (s.watches.filter (fun e => e.2.asid == asid && vpnOf e.2.va == vpn)).foldl (fun s e => moveWatch s d e) s
/-- The engine's step on the page in transit. -/
def setTransit (s : State) (c : Nat) (t : Transit) : State := s.setChan c { s.chan c with transit := some t }
/-- The engine pauses (3) or stops (2): a page at BP stays in transit, and one whose move has not begun stays above BP (R373, R395). -/
def haltEngine (s : State) (n c : Nat) (code : Nat) : State :=
  let k := s.chan c
  mgmtFor { (s.setChan c { k with transit := k.transit.map (fun t => { t with step := 1 }), halt := code }) with engines := tdel s.engines n } [6] c code
/-- Step 1: the next word of the frame pool that names the page's new channel; the page is at BP from now on. -/
def takeFrame (s : State) (n c : Nat) (t : Transit) : State :=
  let p := pageOf t.w0
  let d := s.stripe p.1 (stripeIdx p.1 p.2)
  match (s.chan c).pool with
  | none => haltEngine s n c 3
  | some va =>
    match poolNext va (s.chan c).taken d (Config.chanFrames * Config.nChan) 0 s with
    | (s, .word i f) => s.setChan c { s.chan c with taken := i :: (s.chan c).taken, bp := some p, transit := some { t with step := 2, dest := d, frame := f } }
    | (s, .empty) => haltEngine s n c 3
    | (s, .bad cause va) => haltEngine (record s 0 2 cause 0 0 va (whoNone s)) n c 2
/-- The requests of a page in transit that have passed their checks are performed before its engine's step, which waits for those that cannot be
performed yet (R298). -/
def afterPage (s : State) (t : Transit) (k : State → State) : State :=
  let p := fun (a v : Nat) => decide ((a, v) = pageOf t.w0)
  let s := flushPages s p
  if stillOut s (ofPages p) then s else k s
/-- Step 2: the frame is copied. -/
def copyPage (s : State) (c : Nat) (t : Transit) : State :=
  let p := pageOf t.w0
  setTransit (copyFrame s p.1 p.2 c (bits t.w1 0 17) t.dest t.frame) c { t with step := 3 }
/-- Step 3: the entry at the new channel's table, V cleared at c, the cached entries dropped, the watch entries moved. Where the entry cannot be
placed the engine stops, and the page is as it was: with what has been applied to it meanwhile. -/
def placePage (s : State) (n c : Nat) (t : Transit) : State :=
  let (asid, vpn) := pageOf t.w0
  let d := t.dest
  match freeEntryAt s d asid vpn with
  | (s, none) => haltEngine (copyFrame s asid vpn d t.frame c (bits t.w1 0 17)) n c 2
  | (s, some off) =>
    let s := (homeStore s 0 (windowVa d off) (leBytes 8 t.w0 ++ leBytes 8 (t.w1 - bits t.w1 0 17 + t.frame))).1
    let s := (homeStore s 0 (windowVa c t.off) (leBytes 8 (t.w0 - 2 ^ 63))).1
    let drop := fun (s : State) (ch : Nat) =>
      s.setChan ch { s.chan ch with tlb := (s.chan ch).tlb.filter (fun t => !(t.asid == asid && t.vpn == vpn)) }
    moveWatches (setTransit (drop (drop s c) d) c { t with step := 4 }) asid vpn d
/-- PAGE_MOVE of cache die n: the next step on the page in transit, or on the next affected page, or the channel is RETIRED. -/
def execPageMove (n : Nat) (s : State) : Host.Outcome State Fault Refusal :=
  if 4 ≤ n then .fault (.noSuchUnit (0x20 + n))
  else .next (match engineOf s n with
    | none => s
    | some c =>
      let s := { s with engines := tset s.engines n c }
      match (s.chan c).transit with
      | some t =>
        if t.step = 1 then takeFrame s n c t
        else if t.step = 2 then afterPage s t (fun s => copyPage s c t)
        else if t.step = 3 then afterPage s t (fun s => placePage s n c t)
        else passPage s c t
      | none => match nextPage s c with
        | (s, some e) => takeFrame s n c ⟨e.1, e.2.1, e.2.2, 1, 0, 0⟩
        | (s, none) =>
          let s := flushPages s (pagesAt s c)
          if stillOut s (ofPages (pagesAt s c)) then s else channelRetired s c false)

/-! ### RETIRE and READMIT (R372, R375, R392) -/

/-- A RETIRE request that is not refused: none where R392 refuses it. -/
def startRetire (s : State) (c pool : Nat) : Option State :=
  let k := s.chan c
  match k.st with
  | .active => some (enterRetiring s c (some pool))
  | .retired => none
  | .retiring =>
    if k.halt = 0 ∧ engineOf s (c / 128) = some c then none
    else some (s.setChan c { k with pool := some pool, taken := [], halt := 0 })
/-- READMIT's steps: the table cleared, the caches cleared, the self-test; whether it passed. -/
def readmitChan (s : State) (c : Nat) : State × Bool :=
  let inTable := fun (a : Nat) => decide (phys c 0 ≤ a) && decide (a < phys c 0 + 2 ^ 22)
  let s := flushChan s c
  let s := { s with
    hbm := s.hbm.filter (fun (x : Host.Cell) => !inTable x.1)
    hpsn := s.hpsn.filter (fun p => !inTable (128 * p.1))
    slines := s.slines.filter (fun e => !(inWindow e.1.1 (e.1.2 * 128) && winChan (e.1.2 * 128) == c)) }
  let k := s.chan c
  let s := s.setChan c { k with tlb := [] }
  if Config.selfTest c s.tick then
    (capChange (s.setChan c { s.chan c with st := .active, bp := none, transit := none, conflict := [], pool := none, taken := [], halt := 0, old := [], away := [] }), true)
  else (s, false)

end Sys2Proof.Machine
end

