-- ==== Sys2Proof/Machine/Check.lean ====
section
/-! DEFINITION. The meanings of cap.rd, rgn, ckacc, chk and memhint.compute (chapters 17 and 19). -/

namespace Sys2Proof.Machine

/-- cap.rd (R377). -/
def execCapRd (c : Cm) (d : SReg) (a : SSrc) (s : State) : Host.Outcome State Fault Refusal :=
  issueS s (.capRd c d a) c (fun s i =>
    let x := ssrc s i.w a
    poisonGate s i x.psn (fun s i => resultS s i d [⟨capWord s x.v.toNat, false⟩]))

/-- A region entry may be recorded (R348): the split holds every lane that is neither exited nor in a fragment. -/
def rgnOk (s : State) (i : Issue) : Bool :=
  (i.sp.mask ||| i.w.exited ||| fragLanes (s.coreOf i.u.w) i.w.uid) == 0xFFFFFFFF && i.w.stack.isEmpty && i.w.wsm == 0
/-- The entry a rgn records. -/
def rgnEntry (s : State) (i : Issue) : Region :=
  let n := wordAfter i.sp 1
  ⟨n.1, if n.2 then n.1 else i.sp.hdr, i.sp.mask, i.w.ck0, i.w.ck1, i.w.ckp, i.w.rseq + 1, 0, fragsOf (s.coreOf i.u.w) i.w.uid⟩
/-- rgn (R348): the predicate at issue; the entry at once, or in a twin wave when its compare entry is matched. -/
def execRgn (c : Cm) (q : PReg) (s : State) : Host.Outcome State Fault Refusal :=
  issueOp s (.rgn c q) c 1 (fun s i =>
    if i.e = 0 then some s
    else
      let ok := rgnOk s i
      if ok && slackStall s i then none
      else
        let s := writeP s i.u.w q i.e (fun _ => (ok, false)) 2
        if !ok then some s
        else if compares i then
          let id := s.nextId
          let s := { s with nextId := s.nextId + 1 }
          let s := addTwin s i id (some []) true
          some (s.updWave i.u.w (fun w => { w with rseq := w.rseq + 1, keyCnt := [], pendRgn := w.pendRgn ++ [(id, rgnEntry s i)] }))
        else some (s.updWave i.u.w (fun w => { w with rseq := w.rseq + 1, keyCnt := [], region := rgnEntry s i })))

/-- ckacc (R350): one fold per lane in ascending order. -/
def ckFold (ck : W32 × W32 × Bool) (v : Val) : W32 × W32 × Bool :=
  let a := ck.1 + v.v
  (a, ck.2.1 + a, ck.2.2 || v.psn)
def execCkacc (c : Cm) (a : VSrc) (s : State) : Host.Outcome State Fault Refusal :=
  issueS s (.ckacc c a) c (fun s i =>
    let r := (lanes i.e).foldl (fun ck l => ckFold ck (vsrc s i.w .int a 0 l)) (i.w.ck0, i.w.ck1, i.w.ckp)
    s.updWave i.u.w (fun w => { w with ck0 := r.1, ck1 := r.2.1, ckp := r.2.2 }))
def execCkaccClr (c : Cm) (s : State) : Host.Outcome State Fault Refusal :=
  issueS s (.ckaccClr c) c (fun s i => s.updWave i.u.w (fun w => { w with ck0 := 0, ck1 := 0, ckp := false }))

/-- chk (R351). -/
def execChk (c : Cm) (a : SPair) (rst : Bool) (s : State) : Host.Outcome State Fault Refusal :=
  issueS s (.chk c a rst) c (fun s i =>
    let x := spair s i.w a
    poisonGate s i x.2 (fun s i =>
      if !i.w.ckp && x.1 == i.w.ck1 ++ i.w.ck0 then s
      else if rst && i.w.twin then twinRestart s i.w i.sp.pc.toNat
      else if rst && decide (i.w.region.rcnt < 8) then restartWave s i.u.w
      else trapIs s i 0x381 0))

/-- memhint.compute (R379): the window of each channel of the context, in time units of 1100 per microsecond; a window that runs longer
stands. -/
def execMemhintCompute (c : Cm) (a : SSrc) (s : State) : Host.Outcome State Fault Refusal :=
  issueS s (.memhintCompute c a) c (fun s i =>
    let x := ssrc s i.w a
    poisonGate s i x.psn (fun s i =>
      let n := min x.v.toNat 1000
      (s.ctx i.w.asid).chanset.foldl (fun s k => s.setChan k { s.chan k with hintTill := max (s.chan k).hintTill (s.now + 1100 * n) }) s))

end Sys2Proof.Machine
end

