-- ==== Sys2Proof/Machine/Matrix.lean ====
section
/-! DEFINITION. Macros, tiles, format descriptors and the matrix array: the instructions 0xD0 to 0xD9 and the events of their commands
(chapter 16, R86 to R95). -/

namespace Sys2Proof.Machine

/-! ### Objects -/

def Core.tile (c : Core) (t : Nat) : Tile := tget Tile.fresh c.tiles t
def Core.macro8 (c : Core) (m : Nat) : Macro := tget Macro.fresh c.macros m
/-- Tile aT of a block's copy: die, core and physical number. -/
def tileAt (s : State) (b cp t : Nat) : Option (Nat × Nat × Nat) := (s.place b cp).bind (fun p => (p.tiles[t]?).map (fun n => (p.die, p.core, n)))
def State.tile (s : State) (b cp t : Nat) : Tile :=
  match tileAt s b cp t with
  | some (d, c, n) => (s.core d c).tile n
  | none => Tile.fresh
def State.setTile (s : State) (b cp t : Nat) (x : Tile) : State :=
  match tileAt s b cp t with
  | some (d, c, n) => let k := s.core d c
                      s.setCore d c { k with tiles := tset k.tiles n x }
  | none => s
def setMacro (s : State) (d c m : Nat) (x : Macro) : State :=
  let k := s.core d c
  s.setCore d c { k with macros := tset k.macros m x }
/-- Tiles of the wave's block (TILES). -/
def tilesOf (s : State) (w : Wave) : Nat := ((s.launchOf w).map (·.tiles)).getD 0

/-! ### Format descriptors (R328, R329) -/

def fdFmt (x : W64) : Nat := bits x.toNat 0 4
def fdSc (x : W64) : Bool := x.getLsbD 4
def fdScale (x : W64) : Nat := bits x.toNat 8 20
def fdSuper (x : W64) : Nat := bits x.toNat 28 20
def fdStride (x : W64) : Nat := bits x.toNat 48 16
/-- Bits of an element (Table 3.9). -/
def elemBits (fmt : Nat) : Nat := if fmt = 1 ∨ fmt = 2 then 16 else if fmt = 3 ∨ fmt = 4 ∨ fmt = 6 then 8 else 4
/-- The checks of R329. -/
def fdBad (x : W64) : Bool :=
  let f := fdFmt x
  decide (f = 0) || decide (8 < f) || bits x.toNat 5 3 != 0
    || (fdSc x && (f == 1 || f == 2)) || (!fdSc x && f == 8)
    || (fdSc x && decide (3 ≤ f ∧ f ≤ 7) && fdScale x % 4 != 0) || fdSuper x % 4 != 0
    || fdStride x == 0 || fdStride x % 16 != 0 || (fdSc x && fdStride x % (8 * elemBits f) != 0)
/-- fdl (R329): its result is written 2 cycles after issue (R346). -/
def execFdl (c : Cm) (n : BitVec 3) (a : SPair) (s : State) : Host.Outcome State Fault Refusal :=
  issueE s (.fdl c n a) c (fun s i =>
    let x := spair s i.w a
    some (poisonGate s i x.2 (fun s i =>
      if fdBad x.1 then trapIs s i 0x202 0
      else writeFd s i.u.w n.toNat x.1 2)))

/-! ### Elements and blocks (R77 to R94) -/

/-- The signed codebook of Table 3.6. -/
def q4nBook : List Int := [-127, -90, -68, -51, -37, -24, -12, 0, 11, 22, 33, 45, 58, 73, 93, 127]
def nfmtOf (fmt : Nat) : NFmt := if fmt = 3 then .e4m3 else if fmt = 4 then .e5m2 else if fmt = 5 then .e2m1 else if fmt = 6 then .i8 else .i4
/-- The value of an element code. -/
def elemVal (fmt code : Nat) : FV :=
  if fmt = 1 then fp16.dec code
  else if fmt = 2 then bf16.dec code
  else if fmt = 8 then let v := q4nBook.getD code 0
                       .fin (decide (v < 0)) v.natAbs 0
  else let x := nDec (nfmtOf fmt) code
       .fin x.1 x.2.1 x.2.2
/-- Passes W of A (Table 3.11). -/
def passes (fmt : Nat) : Nat := if fmt = 7 then 4 else if fmt = 5 then 5 else if fmt = 1 ∨ fmt = 2 then 16 else 8
/-- floor(log2 |x|) of a nonzero value. -/
def topExp : FV → Option Int
  | .fin _ m e => if m = 0 then none else some ((Nat.log2 m : Int) + e)
  | _ => none
/-- q of an element for exponent E. -/
def alignQ (e0 : Int) : FV → Int
  | .fin n m e => signedMan n (roundToInt .rn n m (e - e0) false)
  | _ => 0
/-- A block turned into integers and one exponent, and whether it holds an infinity or NaN (R92 to R94). -/
def alignBlock (fmt : Nat) (xs : List FV) : List Int × Int × Bool :=
  let bad := xs.any (fun v => match v with | .fin _ _ _ => false | _ => true)
  let e : Int :=
    if fmt = 6 ∨ fmt = 7 then 0
    else if fmt = 5 then -1
    else if fmt = 8 then 0
    else match (xs.filterMap topExp).max? with
      | none => 0
      | some t => t - ((passes fmt : Nat) - 2)
  (xs.map (alignQ e), if fmt = 8 then -14 else e, bad)
/-- The code of element k of a row of bytes. -/
def codeAt (fmt : Nat) (row : List Byte) (k : Nat) : Nat :=
  if elemBits fmt = 16 then leVal ((row.drop (2 * k)).take 2)
  else if elemBits fmt = 8 then (row.getD k 0).toNat
  else bits (row.getD (k / 2) 0).toNat (4 * (k % 2)) 4

/-! ### Commands at the array (R334) -/

/-- Macros of one B block for formats of a width (R326). -/
def blockMacros (fd : W64) : Nat := if elemBits (fdFmt fd) = 16 then 2 else 1
/-- Macros that a command names on its core: the formats that mx accepts together have one width (Table 16.2). -/
def macrosOf : MxKind → List Nat
  | .mx _ fd _ m0 nb _ => (List.range (blockMacros fd * nb)).map (· + m0)
  | .ldb m fd _ _ => (List.range (blockMacros fd)).map (· + m)
  | .st _ _ _ _ _ _ _ => []
/-- The commands of a core that a predicate picks, but for those in a replay queue: these hold no load back (R332; entry 69). -/
def mxsOf (s : State) (r : WaveRef) (p : MxCmd → Bool) : List (Nat × MxCmd) :=
  s.mxs.filter (fun (m : Nat × MxCmd) => m.2.w.die == r.die && m.2.w.core == r.core && m.2.st != .held && p m.2)
/-- The issued format, tag and owner of a macro (R331): those of the last load accepted for it that is outstanding, else of its contents. -/
def issued (s : State) (r : WaveRef) (n : Nat) : Nat × BitVec 16 × Nat :=
  let x := (s.coreOf r).macro8 n
  (mxsOf s r (fun y => match y.kind with | .ldb _ _ _ _ => (macrosOf y.kind).contains n | _ => false)).foldl
    (fun a y => match y.2.kind with | .ldb _ fd _ tag => (fdFmt fd, tag, y.2.block) | _ => a) (x.fmt, x.tag, x.owner)
def isMx : MxKind → Bool
  | .mx _ _ _ _ _ _ => true
  | _ => false
def mxTile : MxKind → Option Nat
  | .mx t _ _ _ _ _ => some t
  | _ => none
/-- Uncommitted mx of a block's copy on a tile. -/
def mxOn (s : State) (b cp t : Nat) : List (Nat × MxCmd) :=
  s.mxs.filter (fun (m : Nat × MxCmd) => m.2.block == b && m.2.bcopy == cp && mxTile m.2.kind == some t)
/-- Those queued or running at the array. -/
def mxAtArray (s : State) (b cp t : Nat) : Bool := (mxOn s b cp t).any (fun m => m.2.st != .held)
/-- An interlocked wave's mx on a tile that have not committed (R48); those of a replay queue are accepted again only after it (R336). -/
def tileStall (s : State) (i : Issue) (t : Nat) : Bool :=
  i.w.ilk && (mxOn s i.w.block i.w.copy t).any (fun m => m.2.wuid == i.w.uid && m.2.st != .held)
/-- Accepted unfinished commands of a wave. -/
def mxCount (s : State) (uid : Nat) : Nat := (s.mxs.filter (fun (m : Nat × MxCmd) => m.2.wuid == uid && m.2.st != .held)).length
/-- Earlier commands of the same core. -/
def mxBefore (s : State) (o : Nat) (x : MxCmd) : List (Nat × MxCmd) := (mxsOf s x.w (fun _ => true)).filter (fun m => decide (m.1 < o))
def shares (a b : List Nat) : Bool := a.any (fun m => b.contains m)
/-- A command finishes. -/
def mxFinish (s : State) (o : Nat) : State := { s with mxs := tdel s.mxs o }
/-- A matrix command stalls at issue: as any engine command, or as a ninth unfinished one (R334). -/
def mxStall (s : State) (i : Issue) : Bool := engStall s i false || decide (8 ≤ mxCount s i.w.uid)
/-- Accept a command: it joins the wave's open batch (R339). -/
def acceptMx (s : State) (i : Issue) (k : MxKind) (gated : Bool) (pc : Addr) (word : W64) : State :=
  let id := s.nextId
  let x : MxCmd := ⟨i.u.w, i.w.uid, i.w.block, i.w.copy, i.w.asid, k, .waiting, s.cyc i.u.w.die, i.w.bc, [], false, gated, pc, word, [], false, false⟩
  { s with nextId := id + 1, mxs := s.mxs ++ [(id, x)] }.updWave i.u.w (fun w => { w with openBatch := w.openBatch ++ [id] })

/-! ### mx (R341) -/

/-- The first failing check of an issue: a trap, or a fault of the lanes of E. -/
inductive MxBad where
  | trap (cause : Nat)
  | fault (cause : Nat)
deriving DecidableEq, Repr

/-- Bytes of A's rows and scales end within the allocation. -/
def mxRange (fd : W64) (spa nb size : Nat) : Bool :=
  let b := elemBits (fdFmt fd)
  let n := fdStride fd * 8 / (64 * b)
  decide (spa + 15 * fdStride fd + 8 * b * nb ≤ size) && (!fdSc fd || decide (fdScale fd + 4 * (15 * n + nb - 1) + 4 ≤ size))
/-- Format pairs of Table 16.2. -/
def pairOk (a b : Nat) : Bool := if elemBits a = 16 then b == 1 || b == 2 else decide (3 ≤ b ∧ b ≤ 8)
def mxBad (s : State) (w : Wave) (r : WaveRef) (t : Nat) (fd : W64) (spa : Val) (m0 nb : Nat) (tag : BitVec 16) (tc z : Bool) : Option MxBad :=
  let wd := if (issued s r m0).1 = 1 ∨ (issued s r m0).1 = 2 then 2 else 1
  let ms := (List.range (wd * nb)).map (fun j => issued s r (j + m0))
  if tilesOf s w ≤ t then some (.trap 0x201)
  else if fd = 0 ∨ fdFmt fd = 8 then some (.trap 0x202)
  else if 8 < m0 + wd * nb ∨ (wd = 2 ∧ m0 % 2 = 1)
      ∨ ms.any (fun m => m.1 == 0 || m.2.2 != w.block || (tc && m.2.1 != tag)) then some (.trap 0x201)
  else if ms.any (fun m => !pairOk (fdFmt fd) m.1) then some (.trap 0x202)
  else if !(s.tile w.block w.copy t).valid && !z
      && (mxOn s w.block w.copy t).all (fun m => match m.2.kind with | .mx _ _ _ _ _ z' => !z' | _ => true) then some (.trap 0x201)
  else if spa.psn then some (.fault 0x104)
  else if spa.v.toNat % 16 ≠ 0 then some (.fault 0x105)
  else if !mxRange fd spa.v.toNat nb (spadSize s w) then some (.fault 0x102)
  else none
/-- Act on a check. -/
def mxGate (s : State) (i : Issue) (b : Option MxBad) (k : State → Issue → State) : State :=
  match b with
  | some (.trap c) => trapIs s i c 0
  | some (.fault c) => faultThen s i false (faultMask i.e c) (fun s _ => s)
  | none => k s i
def execMx (c : Cm) (t : BitVec 4) (fda : BitVec 3) (spa : SSrc) (m0 : BitVec 3) (mc : BitVec 2) (tag : BitVec 16) (tc z : Bool) (s : State) :
    Host.Outcome State Fault Refusal :=
  issueOp s (.mx c t fda spa m0 mc tag tc z) c 1 (fun s i =>
    if i.e = 0 then some s
    else if mxStall s i || spadStall s i || tileStall s i t.toNat then none
    else
      let fd := readFd s i.w fda.toNat
      let a := ssrc s i.w spa
      let nb := 2 ^ mc.toNat
      some (mxGate s i (mxBad s i.w i.u.w t.toNat fd a m0.toNat nb tag tc z) (fun s i =>
        acceptMx s i (.mx t.toNat fd a.v.toNat m0.toNat nb z) false i.sp.pc i.word)))

/-- Scratchpad bytes as the array reads them: a poisoned line supplies zeros (R337); and whether any was. -/
def arrayNow (s : State) (b cp off n : Nat) : List Byte × Bool :=
  match spadAt s b cp off with
  | none => (leBytes n 0, false)
  | some (d, c, a) =>
    let k := s.core d c
    ((List.range n).map (fun i => if k.spadPsn.contains ((a + i) / 128) then 0 else tget 0 k.spad (a + i)),
      (List.range n).any (fun i => k.spadPsn.contains ((a + i) / 128)))
/-- Bytes as a command has them: those of a unit it has read already are the ones it read (R338). -/
def arrayRead (u : List (Nat × (List Byte × Bool))) (s : State) (b cp off n : Nat) : List Byte × Bool :=
  let y := arrayNow s b cp off n
  if u.isEmpty then y
  else
    let at' := fun (i : Nat) => (i, tfind u ((off + i) / 8 * 8))
    ((y.1.mapIdx (fun i b => (b, at' i))).map (fun p => match p.2.2 with
      | some r => r.1.getD ((off + p.2.1) % 8) 0
      | none => p.1),
     (List.range n).any (fun i => match (at' i).2 with
      | some r => r.2
      | none => (arrayNow s b cp (off + i) 1).2))
/-- A BS20 entry in scratchpad. -/
def bs20At (u : List (Nat × (List Byte × Bool))) (s : State) (b cp off : Nat) : FV × Bool :=
  let r := arrayRead u s b cp off 4
  (bs20Dec (leVal r.1), r.2)
def oneFV : FV := .fin false 1 0
/-- One partial of R95 as an FP32 pattern. -/
def partialOf (i : Int) (e : Int) (sa sb : FV) (bad : Bool) : Nat :=
  if bad then fp32.nan
  else match mulFV (mulFV (.fin (decide (i < 0)) i.natAbs e) sa) sb with
    | .fin n m e => if m = 0 then 0 else fp32.round .rn n m e false
    | v => fp32.enc .rn v
/-- A block of A with its scale. -/
structure ABlock where
  q : List Int
  e : Int
  s : FV
  bad : Bool
deriving DecidableEq, Repr

/-- Row i, block kb of A. -/
def aBlock (u : List (Nat × (List Byte × Bool))) (s : State) (b cp : Nat) (fd : W64) (spa i kb : Nat) : ABlock × Bool :=
  let f := fdFmt fd
  let n := 8 * elemBits f
  let r := arrayRead u s b cp (spa + i * fdStride fd + kb * n) n
  let al := alignBlock f ((List.range 64).map (fun k => elemVal f (codeAt f r.1 k)))
  let sc := if fdSc fd then bs20At u s b cp (fdScale fd + 4 * (i * (fdStride fd * 8 / (64 * elemBits f)) + kb)) else (oneFV, false)
  (⟨al.1, al.2.1, sc.1, al.2.2⟩, r.2 || sc.2)
/-- One element of the result (R95). -/
def mxElem (acc : Nat) (j : Nat) (blocks : List (ABlock × MacroB)) : Nat :=
  blocks.foldl (fun acc (p : ABlock × MacroB) =>
    let i := (p.1.q.mapIdx (fun k a => a * tget 0 p.2.q (64 * k + j))).foldl (· + ·) 0
    let sc := tget (0x3F800, 1) p.2.sb j
    let sb := mulFV (bs20Dec sc.1) (.fin false sc.2 0)
    fp32.add .rn acc (partialOf i (p.1.e + tget 0 p.2.eb j) p.1.s sb (p.1.bad || p.2.nanCol.contains j))) acc
/-- Cycles an mx occupies its macros. -/
def mxBusy (x : MxCmd) : Nat := match x.kind with
  | .mx _ fd _ _ _ _ => 4 * passes (fdFmt fd)
  | _ => 0
/-- An mx may start (R334). -/
def mxMayStart (s : State) (o : Nat) (x : MxCmd) : Bool :=
  let ms := macrosOf x.kind
  x.st == .waiting && !x.gated && !savedOut s x.block x.bcopy
    && (mxBefore s o x).all (fun m =>
      (match m.2.kind with
        | .mx _ _ _ _ _ _ =>
          !(m.2.block == x.block && mxTile m.2.kind == mxTile x.kind)
            && (!shares (macrosOf m.2.kind) ms || (m.2.st == .started && decide (m.2.startAt + mxBusy m.2 ≤ s.cyc x.w.die)))
        | .ldb _ _ _ _ => !shares (macrosOf m.2.kind) ms
        | _ => true))
/-- MX_START: A is read, and the shadow formed from the committed value or +0 (R335, R341). -/
def execMxStart (o : Nat) (s : State) : Host.Outcome State Fault Refusal :=
  .next (match tfind s.mxs o with
    | none => s
    | some x => match x.kind with
      | .mx t fd spa m0 nb z =>
        if !mxMayStart s o x then s
        else
          let k := s.coreOf x.w
          let wd := blockMacros fd
          let tile := s.tile x.block x.bcopy t
          let rows := (List.range 16).map (fun i => (List.range nb).map (fun kb => aBlock x.units s x.block x.bcopy fd spa i kb))
          let ms := (List.range nb).map (fun kb => k.macro8 (m0 + wd * kb))
          let psn := rows.any (fun r => r.any (·.2)) || ms.any (·.psn)
          let shadow := (rows.mapIdx (fun i r =>
            let bl := (r.map (·.1)).zip (ms.map (·.b))
            (List.range 64).map (fun j =>
              (64 * i + j, BitVec.ofNat 32 (mxElem (if z then 0 else (tget 0 tile.acc (64 * i + j)).toNat) j bl))))).flatten
          { s with mxs := tset s.mxs o { x with st := .started, startAt := s.cyc x.w.die, shadow := shadow, psn := psn } }
      | _ => s)
/-- A commit is noted by the stores that have read the tile already (Table 16.4). -/
def noteCommit (s : State) (b cp t : Nat) : State :=
  { s with mxs := s.mxs.map (fun (m : Nat × MxCmd) => match m.2.kind with
      | .st t' _ _ _ _ _ _ => if m.2.block = b ∧ m.2.bcopy = cp ∧ t' = t ∧ m.2.st = .started then (m.1, { m.2 with late := true }) else m
      | _ => m) }
/-- MX_COMMIT (R335). -/
def execMxCommit (o : Nat) (s : State) : Host.Outcome State Fault Refusal :=
  .next (match tfind s.mxs o with
    | none => s
    | some x => match x.kind with
      | .mx t _ _ _ _ _ =>
        if x.st != .started || savedOut s x.block x.bcopy || decide (s.cyc x.w.die < x.startAt + mxBusy x + 10) then s
        else
          let y := s.tile x.block x.bcopy t
          mxFinish (noteCommit (s.setTile x.block x.bcopy t { acc := x.shadow, valid := true, dirty := true, psn := y.psn || x.psn }) x.block x.bcopy t) o
      | _ => s)

/-! ### mx.ldb (R332) -/

def ldbBad (s : State) (w : Wave) (m : Nat) (fd : W64) (p : Val) : Option MxBad :=
  let f := fdFmt fd
  let size := spadSize s w
  let b := elemBits f
  let sc := if !fdSc fd then 0 else if f = 8 then max (fdScale fd + 64) (fdSuper fd + 4) else fdScale fd + 256
  if fd = 0 then some (.trap 0x202)
  else if b = 16 ∧ m % 2 = 1 then some (.trap 0x201)
  else if p.psn then some (.fault 0x104)
  else if p.v.toNat % 16 ≠ 0 then some (.fault 0x105)
  else if size < p.v.toNat + 63 * fdStride fd + 8 * b ∨ size < sc then some (.fault 0x102)
  else none
/-- An interlocked wave's load waits for the earlier mx that read its macros (R48). -/
def macroStall (s : State) (i : Issue) (k : MxKind) : Bool :=
  i.w.ilk && !(mxsOf s i.u.w (fun y => isMx y.kind && shares (macrosOf y.kind) (macrosOf k))).isEmpty
def execMxLdb (c : Cm) (m fdb : BitVec 3) (spb : SSrc) (tag : BitVec 16) (s : State) : Host.Outcome State Fault Refusal :=
  issueOp s (.mxLdb c m fdb spb tag) c 1 (fun s i =>
    if i.e = 0 then some s
    else
      let fd := readFd s i.w fdb.toNat
      let p := ssrc s i.w spb
      let k := MxKind.ldb m.toNat fd p.v.toNat tag
      if mxStall s i || spadStall s i || macroStall s i k then none
      else some (mxGate s i (ldbBad s i.w m.toNat fd p) (fun s i => acceptMx s i k false i.sp.pc i.word)))
/-- MX_LDB_START (R331, R334): the old contents are no longer readable. -/
def execMxLdbStart (o : Nat) (s : State) : Host.Outcome State Fault Refusal :=
  .next (match tfind s.mxs o with
    | none => s
    | some x =>
      let ms := macrosOf x.kind
      let free := (mxBefore s o x).all (fun m => !shares (macrosOf m.2.kind) ms
        || (isMx m.2.kind && m.2.st == .started && decide (m.2.startAt + mxBusy m.2 ≤ s.cyc x.w.die)))
      match x.kind with
      | .ldb _ fd _ tag =>
        if x.st != .waiting || x.gated || savedOut s x.block x.bcopy || !free then s
        else
          let s := ms.foldl (fun (s : State) (n : Nat) =>
            setMacro s x.w.die x.w.core n ⟨1, fdFmt fd, tag, x.block, Macro.fresh.b, false⟩) s
          { s with mxs := tset s.mxs o { x with st := .started, startAt := s.cyc x.w.die } }
      | _ => s)
/-- The B block at an offset, converted per column (R93). -/
def loadB (u : List (Nat × (List Byte × Bool))) (s : State) (b cp : Nat) (fd : W64) (p : Nat) : MacroB × Bool :=
  let f := fdFmt fd
  let rows := (List.range 64).map (fun k => arrayRead u s b cp (p + k * fdStride fd) (8 * elemBits f))
  let cols := (List.range 64).map (fun j => alignBlock f (rows.map (fun r => elemVal f (codeAt f r.1 j))))
  let sc := (List.range 64).map (fun j =>
    if !fdSc fd then ((0x3F800, 1), false)
    else if f = 8 then
      let e := arrayRead u s b cp (fdScale fd + j) 1
      let v := arrayRead u s b cp (fdSuper fd) 4
      ((leVal v.1 % 2 ^ 20, leVal e.1), e.2 || v.2)
    else
      let e := arrayRead u s b cp (fdScale fd + 4 * j) 4
      ((leVal e.1 % 2 ^ 20, 1), e.2))
  (⟨(cols.mapIdx (fun j c => c.1.mapIdx (fun k q => (64 * k + j, q)))).flatten, cols.mapIdx (fun j c => (j, c.2.1)),
    sc.mapIdx (fun j x => (j, x.1)), (List.range 64).filter (fun j => (cols.getD j ([], 0, false)).2.2)⟩,
    rows.any (·.2) || sc.any (·.2))
/-- MX_LDB_COMPLETE (Table 16.3, Table 16.6). -/
def execMxLdbComplete (o : Nat) (s : State) : Host.Outcome State Fault Refusal :=
  .next (match tfind s.mxs o with
    | none => s
    | some x => match x.kind with
      | .ldb _ fd p _ =>
        let ms := macrosOf x.kind
        if x.st != .started || decide (s.cyc x.w.die < x.startAt + 16 * ms.length) then s
        else
          let r := loadB x.units s x.block x.bcopy fd p
          let s := ms.foldl (fun (s : State) (n : Nat) =>
            setMacro s x.w.die x.w.core n { (s.coreOf x.w).macro8 n with st := 2, b := r.1, psn := r.2 }) s
          mxFinish s o
      | _ => s)

/-! ### Tiles (R342 to R344) -/

/-- mx.zero (R342). -/
def execMxZero (c : Cm) (t : BitVec 4) (s : State) : Host.Outcome State Fault Refusal :=
  issueE s (.mxZero c t) c (fun s i =>
    if tilesOf s i.w ≤ t.toNat then some (trapIs s i 0x201 0)
    else if mxAtArray s i.w.block i.w.copy t.toNat then none
    else some (s.setTile i.w.block i.w.copy t.toNat ⟨[], true, false, false⟩))
/-- mx.rd (R343); in interlocked mode it waits for the tile's mx (R48). That T is checked first, then the poison of ROW, then its value, is the model's
choice (entry 81). -/
def execMxRd (c : Cm) (d : VDst) (t : BitVec 4) (row : SSrc) (s : State) : Host.Outcome State Fault Refusal :=
  issueE s (.mxRd c d t row) c (fun s i =>
    let r := ssrc s i.w row
    if tilesOf s i.w ≤ t.toNat then some (trapIs s i 0x201 0)
    else if r.psn then some (faultThen s i false (faultMask i.e 0x104) (fun s _ => s))
    else if 16 ≤ r.v.toNat then some (trapIs s i 0x201 0)
    else if tileStall s i t.toNat then none
    else
      let x := s.tile i.w.block i.w.copy t.toNat
      let n := effV s i.w d
      let at' := fun (col : Nat) => (⟨tget 0 x.acc (64 * r.v.toNat + col), x.psn⟩ : Val)
      some (writeV (writeV s i.u.w n i.e (fun l => at' l) 6) i.u.w (n + 1) i.e (fun l => at' (32 + l)) 6))
/-- mx.wr (R343), with its checks in the order of mx.rd's (entry 81). -/
def execMxWr (c : Cm) (t : BitVec 4) (row : SSrc) (a : VDst) (s : State) : Host.Outcome State Fault Refusal :=
  issueE s (.mxWr c t row a) c (fun s i =>
    let r := ssrc s i.w row
    if tilesOf s i.w ≤ t.toNat then some (trapIs s i 0x201 0)
    else if r.psn then some (faultThen s i false (faultMask i.e 0x104) (fun s _ => s))
    else if 16 ≤ r.v.toNat then some (trapIs s i 0x201 0)
    else if mxAtArray s i.w.block i.w.copy t.toNat then none
    else
      let x := s.tile i.w.block i.w.copy t.toNat
      let n := effV s i.w a
      let vs := (lanes i.e).flatMap (fun l => [(l, readV s i.w n l), (32 + l, readV s i.w (n + 1) l)])
      some (s.setTile i.w.block i.w.copy t.toNat
        { acc := vs.foldl (fun m p => tset m (64 * r.v.toNat + p.1) p.2.v) x.acc, valid := true, dirty := true
          psn := x.psn || vs.any (fun p => p.2.psn) }))

/-- Bytes of a stored row. -/
def stRow : MxCv → Nat
  | .f32 => 256
  | .bf16 => 128
  | .f16 => 128
  | .e4m3 => 64
/-- mx.st (R344) is accepted. -/
def execMxSt (c : Cm) (t : BitVec 4) (spd str : SSrc) (sco : Option SSrc) (cv : MxCv) (rnd : Rnd) (s : State) :
    Host.Outcome State Fault Refusal :=
  issueOp s (.mxSt c t spd str sco cv rnd) c 1 (fun s i =>
    if i.e = 0 then some s
    else if mxStall s i || tileStall s i t.toNat then none
    else
      let p := ssrc s i.w spd
      let q := ssrc s i.w str
      let o := match sco with
        | some x => ssrc s i.w x
        | none => Val.zero
      let size := spadSize s i.w
      let bad : Option MxBad :=
        if tilesOf s i.w ≤ t.toNat then some (.trap 0x201)
        else if p.psn || q.psn || o.psn then some (.fault 0x104)
        else if p.v.toNat % 16 ≠ 0 ∨ q.v.toNat % 16 ≠ 0 ∨ o.v.toNat % 4 ≠ 0 then some (.fault 0x105)
        else if size < p.v.toNat + 15 * q.v.toNat + stRow cv ∨ (sco.isSome ∧ size < o.v.toNat + 64) then some (.fault 0x102)
        else none
      some (mxGate s i bad (fun s i =>
        acceptMx s i (.st t.toNat p.v.toNat q.v.toNat o.v.toNat sco.isSome cv rnd) false i.sp.pc i.word)))
/-- One row of a stored tile: its bytes, its scale word, and whether a NaN was dropped (R82, R90). -/
def stRowBytes (cv : MxCv) (rnd : Rnd) (sc : Bool) (row : List Nat) : List Byte × Nat × Bool :=
  let vs := row.map fp32.dec
  match cv with
  | .f32 => (row.flatMap (leBytes 4), 0, false)
  | .bf16 => (vs.flatMap (fun v => leBytes 2 (bf16.enc rnd v)), 0, false)
  | .f16 => (vs.flatMap (fun v => leBytes 2 (fp16.enc rnd v)), 0, false)
  | .e4m3 =>
    if sc then
      let k := blockScale .e4m3 vs
      let nan := vs.any FV.isNan
      (vs.flatMap (fun v => leBytes 1 (if nan then 0 else nConv .e4m3 rnd (scaleDown k.2 v))), k.1, false)
    else (vs.flatMap (fun v => leBytes 1 (nConv .e4m3 rnd v)), 0, vs.any FV.isNan)
/-- The tile a store has read: at the first unit it wrote, or now (R335, R344). -/
def stTile (s : State) (x : MxCmd) (t : Nat) : Tile :=
  let y := s.tile x.block x.bcopy t
  if x.st = .started then { y with acc := x.shadow, psn := x.psn } else y
/-- The rows of a store: bytes, scale, and whether a NaN was dropped. -/
def stRows (acc : List (Nat × W32)) (cv : MxCv) (rnd : Rnd) (sc : Bool) : List (List Byte × Nat × Bool) :=
  (List.range 16).map (fun i => stRowBytes cv rnd sc ((List.range 64).map (fun j => (tget 0 acc (64 * i + j)).toNat)))
/-- The bytes a store writes, each once: each row's scale word and then the row, in ascending rows (R344). -/
def stCells (rows : List (List Byte × Nat × Bool)) (spd str sco : Nat) (sc : Bool) : List (Nat × Byte) :=
  let cells := (rows.mapIdx (fun i r => (if sc then cellsOf (sco + 4 * i) (leBytes 4 r.2.1) else []) ++ cellsOf (spd + i * str) r.1)).flatten
  cells.foldl (fun (m : List (Nat × Byte)) (y : Nat × Byte) => tset m y.1 y.2) []
/-- Poison of the lines a store writes: set where the tile is poisoned, else cleared on the lines that `all` covers whole (R258). -/
def stPoison (s : State) (b cp : Nat) (psn : Bool) (cells all : List (Nat × Byte)) : State :=
  match spadAt s b cp 0 with
  | none => s
  | some (d, c, a) =>
    let k := s.core d c
    if psn then s.setCore d c { k with spadPsn := (k.spadPsn ++ cells.map (fun (y : Nat × Byte) => (a + y.1) / 128)).eraseDups }
    else
      let cs := all.map (fun (y : Nat × Byte) => (a + y.1, y.2))
      s.setCore d c { k with spadPsn := k.spadPsn.filter (fun ln => !coversLine cs ln) }
/-- MX_ST_FINISH (R344): the tile is read at one instant and its rows are written, but for the units written already (R338). DIRTY
stays where the tile differs from what was stored, by an mx.wr since the read (entry 74: the model's choice). -/
def execMxStFinish (o : Nat) (s : State) : Host.Outcome State Fault Refusal :=
  .next (match tfind s.mxs o with
    | none => s
    | some x => match x.kind with
      | .st t spd str sco sc cv rnd =>
        let cyc := match cv with | .f32 => 16 | .bf16 => 8 | .f16 => 8 | .e4m3 => 6
        if savedOut s x.block x.bcopy || decide (s.cyc x.w.die < x.startAt + cyc) then s
        else
          let tile := stTile s x t
          let rows := stRows tile.acc cv rnd sc
          let all := stCells rows spd str sco sc
          let cells := all.filter (fun (y : Nat × Byte) => (tfind x.units (y.1 / 8 * 8)).isNone)
          let y := s.tile x.block x.bcopy t
          let s := stPoison (spadPut s x.asid x.block x.bcopy cells) x.block x.bcopy tile.psn all all
          let s := s.setTile x.block x.bcopy t { y with dirty := y.dirty && (x.late || decide (tile.acc ≠ y.acc)) }
          let s := s.updWave x.w (fun w => if w.uid = x.wuid ∧ rows.any (·.2.2) then { w with nandrop := true } else w)
          mxFinish s o
      | _ => s)

/-! ### Units read and written one by one (R338) -/

/-- The units of 8 bytes a command reads or writes. -/
def unitsOf (x : MxCmd) : List Nat :=
  (match x.kind with
    | .mx _ fd spa _ nb _ =>
      let b := elemBits (fdFmt fd)
      (List.range 16).flatMap (fun i => (List.range (b * nb)).map (fun k => spa + i * fdStride fd + 8 * k)
        ++ (if fdSc fd then (List.range nb).map (fun kb => (fdScale fd + 4 * (i * (fdStride fd * 8 / (64 * b)) + kb)) / 8 * 8) else []))
    | .ldb _ fd p _ =>
      (List.range 64).flatMap (fun k => (List.range (elemBits (fdFmt fd))).map (fun j => p + k * fdStride fd + 8 * j)
        ++ (if !fdSc fd then [] else if fdFmt fd = 8 then [(fdScale fd + k) / 8 * 8, fdSuper fd / 8 * 8] else [(fdScale fd + 4 * k) / 8 * 8]))
    | .st _ spd str sco sc cv _ =>
      (List.range 16).flatMap (fun i => (List.range (stRow cv / 8)).map (fun k => spd + i * str + 8 * k) ++ (if sc then [(sco + 4 * i) / 8 * 8] else []))).eraseDups
/-- The array reads one unit of an accepted command before the rest, so that a store performed later is not observed there; or writes
one unit of an mx.st before the rest, its tile read at that instant (R338, R344). -/
def mxUnit (o off : Nat) (s : State) : State :=
  match tfind s.mxs o with
  | none => s
  | some x =>
    if x.gated || savedOut s x.block x.bcopy || x.st == .held || (tfind x.units off).isSome || !(unitsOf x).contains off then s
    else match x.kind with
      | .mx _ _ _ _ _ _ =>
        if x.st = .waiting then { s with mxs := tset s.mxs o { x with units := tset x.units off (arrayNow s x.block x.bcopy off 8) } } else s
      | .ldb _ _ _ _ => { s with mxs := tset s.mxs o { x with units := tset x.units off (arrayNow s x.block x.bcopy off 8) } }
      | .st t spd str sco sc cv rnd =>
        let tile := stTile s x t
        let all := stCells (stRows tile.acc cv rnd sc) spd str sco sc
        let cells := all.filter (fun (y : Nat × Byte) => y.1 / 8 * 8 == off)
        let s := stPoison (spadPut s x.asid x.block x.bcopy cells) x.block x.bcopy tile.psn cells cells
        { s with mxs := tset s.mxs o { x with st := .started, shadow := tile.acc, psn := tile.psn, units := tset x.units off ([], false) } }

/-! ### Batches and state (R339, R345) -/

/-- mx.batch (R339). -/
def execMxBatch (c : Cm) (d : SReg) (s : State) : Host.Outcome State Fault Refusal :=
  issueE s (.mxBatch c d) c (fun s i =>
    if !(batchCmds s i.w ((i.w.bc + 1) % 32)).isEmpty then none
    else
      let live := i.w.batches.filter (fun (b : Batch) => !b.cmds.all (mxFinished s))
      some ((writeS s i.u.w d.toNat ⟨BitVec.ofNat 32 i.w.bc, false⟩ 2).updWave i.u.w (fun w =>
        { w with batches := live ++ [⟨w.bc, w.openBatch⟩], openBatch := [], bc := (w.bc + 1) % 32 })))
/-- mx.wait (R339): the split stays at the word until the batch and every one closed before it have finished. -/
def execMxWait (c : Cm) (n : BitVec 5) (s : State) : Host.Outcome State Fault Refusal :=
  issueE s (.mxWait c n) c (fun s i =>
    let cs := batchCmds s i.w n.toNat
    some (if cs.isEmpty then s else s.updSplit i.u (fun _ => { i.sp with hold := .batch cs, last := s.cyc i.u.w.die + 1 })))
/-- The word mx.stat writes (R345). -/
def mxStatVal (s : State) (w : Wave) (r : WaveRef) (sel : Nat) : Nat :=
  if sel < 16 then
    let x := s.tile w.block w.copy sel
    let on := mxOn s w.block w.copy sel
    x.valid.toNat + x.dirty.toNat * 2 + (!on.isEmpty).toNat * 4 + x.psn.toNat * 8 + min 15 on.length * 256
  else if sel < 24 then
    let m := (s.coreOf r).macro8 (sel - 16)
    let q := issued s r (sel - 16)
    m.st + (if q.1 != 0 && q.2.2 == w.block then 4 + q.1 * 16 + m.psn.toNat * 256 + q.2.1.toNat * 2 ^ 16 else 0)
  else
    w.bc + (w.batches.filter (fun (b : Batch) => !b.cmds.all (mxFinished s))).length * 2 ^ 8 + min 8 (mxCount s w.uid) * 2 ^ 16
def execMxStat (c : Cm) (d : SReg) (sel : BitVec 8) (s : State) : Host.Outcome State Fault Refusal :=
  issueE s (.mxStat c d sel) c (fun s i =>
    some (if sel.toNat < 16 ∧ tilesOf s i.w ≤ sel.toNat then trapIs s i 0x201 0
    else writeS s i.u.w d.toNat ⟨BitVec.ofNat 32 (mxStatVal s i.w i.u.w sel.toNat), false⟩ 2))

end Sys2Proof.Machine
end

