-- ==== Sys2Proof/Machine/Copies.lean ====
section
/-! DEFINITION. The sluices: tensor records, the copy instructions 0xC0 to 0xC5, and the events of a copy (chapter 15). -/

namespace Sys2Proof.Machine

/-! ### Tensor records (R313, R314) -/

/-- The fields of Table 15.1; `bad` is R314 but for the two limits of a gather or scatter. -/
def tensorRec (b : List Byte) : TRec :=
  let q := fun (i : Nat) => leVal ((b.drop (8 * i)).take 8)
  let ext := [bits (q 1) 0 32, bits (q 1) 32 32, bits (q 2) 0 32, bits (q 2) 32 32, bits (q 3) 0 32]
  let box := [bits (q 4) 56 8, bits (q 4) 48 8, bits (q 4) 40 8, bits (q 5) 56 8, bits (q 5) 48 8]
  let str := [bits (q 4) 0 40, bits (q 5) 0 40, bits (q 6) 0 40, bits (q 7) 0 40]
  let rank := bits (q 7) 45 3
  let fmt := bits (q 7) 42 3
  let swz := bits (q 7) 40 2
  let at' := fun (l : List Nat) (d : Nat) => l.getD d 0
  let esz := if fmt = 0 then 1 else 2 ^ (fmt - 1)
  let row := if fmt = 0 then (at' box 0 + 1) / 2 else (at' box 0 + 1) * esz
  let bytes := row * (at' box 1 + 1) * (at' box 2 + 1) * (at' box 3 + 1) * (at' box 4 + 1)
  let bad := bits (q 0) 56 8 != 0 || bits (q 5) 40 8 != 0 || bits (q 6) 40 24 != 0 || bits (q 7) 48 16 != 0
    || rank == 0 || decide (5 < rank) || decide (4 < fmt)
    || (List.range rank).any (fun d => at' ext d == 0)
    || (List.range 5).any (fun d => decide (rank ≤ d) && (at' ext d != 1 || at' box d != 0 || (decide (1 ≤ d) && at' str (d - 1) != 0)))
    || (fmt != 0 && (bits (q 0) 0 56 % esz != 0 || str.any (fun x => x % esz != 0)))
    || (fmt == 0 && (at' ext 0 % 2 == 1 || (at' box 0 + 1) % 2 == 1))
    || row % 16 != 0 || (swz != 0 && row % (16 * 2 ^ swz) != 0) || decide (32768 < bytes)
  ⟨bits (q 0) 0 56, ext, box, str, bits (q 3) 32 32, rank, fmt, swz, bad⟩
/-- The further limits of a gather or scatter (R314). -/
def gatherBad (r : TRec) : Bool :=
  decide (63 < r.box.getD 1 0) || r.box.getD 2 0 != 0 || r.box.getD 3 0 != 0 || r.box.getD 4 0 != 0
/-- Bytes of an element; B4 counts as one byte with dimension 0 halved. -/
def TRec.esz (r : TRec) : Nat := if r.efmt = 0 then 1 else 2 ^ (r.efmt - 1)
def TRec.half (r : TRec) (x : Nat) : Nat := if r.efmt = 0 then x / 2 else x
/-- Bytes of the box row. -/
def TRec.row (r : TRec) : Nat := r.half (r.box.getD 0 0 + 1) * r.esz
def TRec.rows (r : TRec) : Nat := (r.box.getD 1 0 + 1) * (r.box.getD 2 0 + 1) * (r.box.getD 3 0 + 1) * (r.box.getD 4 0 + 1)
def TRec.boxBytes (r : TRec) : Nat := r.row * r.rows
/-- Bytes of a dimension-0 row inside the extents. -/
def TRec.inner (r : TRec) : Nat := r.half (r.ext.getD 0 0) * r.esz
/-- Byte i of a fill pattern (R315). -/
def TRec.fillByte (r : TRec) (i : Nat) : Byte :=
  if r.efmt = 0 then BitVec.ofNat 8 (r.fill % 16 * 17) else BitVec.ofNat 8 (r.fill / 2 ^ (8 * (i % min r.esz 4)))
/-- The swizzle span S (R316). -/
def TRec.span (r : TRec) : Nat := 16 * 2 ^ r.swz
/-- R316. -/
def TRec.swizzle (r : TRec) (o : Nat) : Nat :=
  if r.swz = 0 then o else Nat.xor o (o / r.span % (r.span / 16) * 16)

/-! ### Accesses of a copy (R315, R322): one per 8-byte unit of the dense layout, which scratchpad reads or writes as one -/

/-- The VA of row coordinates (n1 to n4) at dimension 0 byte 0, where each lies in its extent. -/
def rowVa (r : TRec) (n : List Int) : Option Int :=
  if (n.mapIdx (fun d x => decide (0 ≤ x) && decide (x < ((r.ext.getD (d + 1) 0 : Nat) : Int)))).all id then
    some ((n.mapIdx (fun d x => x * ((r.stride.getD d 0 : Nat) : Int))).foldl (· + ·) ((r.base : Nat) : Int))
  else none
/-- Bytes of a unit whose dimension-0 position is x that lie before, inside and after the extent. -/
def unitParts (inner : Nat) (x : Int) : Nat × Nat × Nat :=
  let lo := (min 8 (max 0 (-x))).toNat
  let hi := (min 8 (max (lo : Int) (((inner : Nat) : Int) - x))).toNat
  (lo, hi - lo, 8 - hi)
/-- Pieces of a range of global memory that lie in one line each: offset, VA and length. -/
def linePieces (va n : Nat) : List (Nat × Nat × Nat) :=
  let k := min n (128 - va % 128)
  if n = 0 then [] else if k = n then [(0, va, n)] else [(0, va, k), (k, va + k, n - k)]
/-- The access of one unit at dense offset o of a copy at SPO: `load` into the scratchpad, with FILL for what lies outside the extents, or a store from
it of what lies inside (R322). -/
def unitAccs (r : TRec) (load : Bool) (b cp spo o c0 : Nat) (neg : Bool) (n : List Int) : List CAcc :=
  let start : Int := (if neg then -((c0 : Nat) : Int) else ((c0 : Nat) : Int)) + ((o % r.row : Nat) : Int)
  let sp := fun (i : Nat) => End.spad b cp (spo + r.swizzle o + i)
  let chunk := o / 512
  let fill := fun (i k : Nat) => (List.range k).map (fun j => r.fillByte (i + j))
  let none' := if load then [(⟨none, sp 0, fill 0 8, [], 8, chunk, false⟩ : CAcc)] else []
  match rowVa r n with
  | none => none'
  | some va =>
    let (lo, m, hi) := unitParts r.inner start
    let g := End.glob (va + start + (lo : Int)).toNat
    if m = 0 then none'
    else if load then [⟨some g, sp 0, fill 0 lo, fill (lo + m) hi, 8, chunk, false⟩]
    else [⟨some (sp lo), g, [], [], m, chunk, false⟩]
/-- The accesses of the rows of a box or of a gather: row k of the dense layout with coordinates n1 to n4. -/
def rowAccs (r : TRec) (load : Bool) (b cp spo : Nat) (c0 : Int) (rows : List (List Int)) : List CAcc :=
  let x0 := (if r.efmt = 0 then c0 / 2 else c0) * ((r.esz : Nat) : Int)
  (rows.mapIdx (fun k n => (List.range (r.row / 8)).flatMap (fun j =>
    unitAccs r load b cp spo (k * r.row + 8 * j) x0.natAbs (decide (x0 < 0)) n))).flatten
/-- Coordinates of the rows of a whole box, i1 fastest. -/
def boxRows (r : TRec) (c : List Int) : List (List Int) :=
  let bx := fun (d : Nat) => r.box.getD d 0 + 1
  let cc := fun (d : Nat) => if d < r.rank then c.getD d 0 else 0
  (List.range r.rows).map (fun i =>
    [cc 1 + ((i % bx 1 : Nat) : Int), cc 2 + ((i / bx 1 % bx 2 : Nat) : Int), cc 3 + ((i / bx 1 / bx 2 % bx 3 : Nat) : Int),
     cc 4 + ((i / bx 1 / bx 2 / bx 3 % bx 4 : Nat) : Int)])
/-- Coordinates of the rows a mask selects. -/
def maskRows (r : TRec) (c : List Int) (m : W64) : List (List Int) :=
  let cc := fun (d : Nat) => if d < r.rank then c.getD d 0 else 0
  ((List.range (r.box.getD 1 0 + 1)).filter m.getLsbD).map (fun i => [cc 1 + ((i : Nat) : Int), cc 2, cc 3, cc 4])
/-- One end at an offset. -/
def End.plus (e : End) (n : Nat) : End :=
  match e with
  | .glob va => .glob (va + n)
  | .spad b c off => .spad b c (off + n)
/-- The accesses of a linear copy. -/
def linAccs (src dst : End) (len : Nat) : List CAcc :=
  (List.range (len / 8)).map (fun i => ⟨some (src.plus (8 * i)), dst.plus (8 * i), [], [], 8, i / 64, false⟩)

/-! ### Acceptance (R311, R317, R320, R321) -/

/-- An end lies in the scratchpad of a block copy that is saved. -/
def spadSaved (s : State) : End → Bool
  | .glob _ => false
  | .spad b cp _ => savedOut s b cp
/-- How the checks of a copy end. -/
inductive CpRes where
  | trap (cause : Nat)
  | fault (cause : Nat)
  | ok (accs : List CAcc) (nchunk total count : Nat) (perChunk : Bool) (tblock slot pb : Nat) (byte : Bool)
deriving DecidableEq, Repr

/-- The sluice of a core. -/
def sluiceOf (r : WaveRef) : Nat × Nat := (r.die, r.core / 4)
/-- The 64 bytes of a record (R317): on a hit the cached bytes or those in memory, as a free value has it; on a miss a read. -/
def lookupRec (s : State) (r : WaveRef) (asid va : Nat) : State × List Byte × Nat :=
  let l := tget [] s.recs (sluiceOf r)
  let put := fun (s : State) (d : List Byte) =>
    { s with recs := tset s.recs (sluiceOf r) (((asid, va, d) :: l.filter (fun e => !(e.1 == asid && e.2.1 == va))).take 16) }
  match devRead s asid va 64, l.find? (fun e => e.1 == asid && e.2.1 == va) with
  | (s, m, c, _), some e => (put s e.2.2, if c ≠ 0 then e.2.2 else pick s va e.2.2 [e.2.2, m], 0)
  | (s, m, c, _), none => if c ≠ 0 then (s, [], c) else (put s m, m, 0)
/-- The SLOT value fails R320, Table 15.4 or BARS. -/
def slotBad (s : State) (w : Wave) (v : Nat) (peer spadDst : Bool) (chunks : Nat) : Bool :=
  let n := bits v 0 10
  let pb := bits v 16 6
  let k := (s.bar w.block w.copy n).kind
  bits v 10 6 != 0 || bits v 22 10 != 0 || decide (barsOf s w.block ≤ n)
    || (if peer then decide (8 ≤ pb)
        else if k = 3 then spadDst && decide (64 < pb + chunks)
        else if k = 2 then decide (8 ≤ pb)
        else true)
def chunksOf (n : Nat) : Nat := (n + 511) / 512
/-- The last check, and the plan of an accepted copy. -/
def planCopy (s : State) (w : Wave) (v : Nat) (dst : Option Nat) (accs : List CAcc) (total count : Nat) : CpRes :=
  let spadDst := dst.isSome
  let tb := dst.getD w.block
  let peer := tb != w.block
  let nc := if spadDst then chunksOf total else 0
  if slotBad s w v peer spadDst nc then .trap 0x303
  else .ok accs nc total count spadDst tb (bits v 0 10) (bits v 16 6) (peer || (s.bar w.block w.copy (bits v 0 10)).kind == 2)
/-- The checks of R321 for a tiled form. -/
def tileCheck (s : State) (i : Issue) (kind : CopyKind) (rec crd : SReg) (spo slot : SSrc) (msk : Option SReg) : State × CpRes :=
  let va := sreg64 s i.w rec
  let cs := (List.range 5).map (fun (j : Nat) => readS s i.w (crd.toNat + j))
  let p := ssrc s i.w spo
  let v := ssrc s i.w slot
  let m := match msk with
    | some x => sreg64 s i.w x
    | none => (0, false)
  if va.2 || cs.any (·.psn) || p.psn || v.psn || m.2 then (s, .fault 0x104)
  else if va.1.toNat % 64 ≠ 0 then (s, .fault 0x105)
  else
    match lookupRec s i.u.w i.w.asid va.1.toNat with
    | (s, b, k) =>
      let r := tensorRec b
      let gs := kind == .gat || kind == .sca
      let c := cs.map (fun (x : Val) => x.v.toInt)
      let off := p.v.toNat
      let rows := if gs then maskRows r c m.1 else boxRows r c
      let need := if kind == .gat then r.row * (r.box.getD 1 0 + 1) else r.row * rows.length
      let load := kind == .tile || kind == .gat
      (s,
        if k ≠ 0 then .fault k
        else if r.bad || (gs && gatherBad r) then .trap 0x210
        else if r.efmt = 0 ∧ (c.getD 0 0) % 2 ≠ 0 then .fault 0x105
        else if off % 16 ≠ 0 ∨ (r.swz ≠ 0 ∧ off % r.span ≠ 0) then .fault 0x105
        else if spadSize s i.w < off + need then .fault 0x102
        else planCopy s i.w v.v.toNat (if load then some i.w.block else none)
          (rowAccs r load i.w.block i.w.copy off (c.getD 0 0) rows) (r.row * rows.length)
          (if gs then rows.length else r.row * rows.length))
/-- One end of a linear copy: its address, poison, and where it lies; a window address is decoded by R193. -/
def linEnd (s : State) (w : Wave) (e : CpEnd) (window : Bool) (len : Nat) : Nat × Bool × (Except Nat End) :=
  match e with
  | .glob n => let x := sreg64 s w n
               (x.1.toNat, x.2, .ok (.glob x.1.toNat))
  | .off a =>
    let x := ssrc s w a
    let off := x.v.toNat
    (off, x.psn,
      if !window then (if spadSize s w < off + len then .error 0x102 else .ok (.spad w.block w.copy off))
      else if 2 ^ 22 ≤ off ∨ (groupOf s w.block).2.1 ≤ off / 2 ^ 20 ∨ spadSize s w < off % 2 ^ 20 + len then .error 0x102
      else match peerBlock s w.block (off / 2 ^ 20) with
        | some b => if retired s b w.copy then .error 0x107 else .ok (.spad b w.copy (off % 2 ^ 20))
        | none => .error 0x107)
/-- The checks of R321 for cp.lin. Where both ends fail the check of range or window, the destination's cause decides (entry 73: the model's choice). -/
def linCheck (s : State) (i : Issue) (dst src : CpEnd) (len slot : SSrc) (dir : LinDir) : CpRes :=
  let n := ssrc s i.w len
  let v := ssrc s i.w slot
  let d := linEnd s i.w dst (dir == .sc || dir == .gc) n.v.toNat
  let e := linEnd s i.w src (dir == .cs) n.v.toNat
  if n.psn || v.psn || d.2.1 || e.2.1 then .fault 0x104
  else if n.v = 0 ∨ 2 ^ 24 < n.v.toNat ∨ n.v.toNat % 16 ≠ 0 ∨ d.1 % 16 ≠ 0 ∨ e.1 % 16 ≠ 0 then .fault 0x105
  else match d.2.2, e.2.2 with
    | .error c, _ => .fault c
    | _, .error c => .fault c
    | .ok t, .ok f =>
      planCopy s i.w v.v.toNat (match t with | .spad b _ _ => some b | .glob _ => none) (linAccs f t n.v.toNat) n.v.toNat n.v.toNat

/-- The command is accepted: QUEUED, or in a twin wave held until its entry is matched (Table 17.1). -/
def acceptCopy (s : State) (i : Issue) (accs : List CAcc) (nchunk total count : Nat) (perChunk : Bool) (tb slot pb : Nat) (byte compared : Bool)
    (blocks : List Nat) (follow : Option Nat) : State :=
  let id := s.nextId
  let tw := compared && compares i
  let c : Copy := ⟨i.u.w.die, i.u.w.core / 4, i.u.w, i.w.uid, i.w.block, i.w.copy, i.w.asid, i.sp.pc, if tw then .held else .queued, accs,
    [], false, tb, i.w.copy, slot, pb, perChunk, nchunk, [], total, count, 0, follow, byte, none⟩
  let s := { s with nextId := id + 1, copies := s.copies ++ [(id, c)] }
  if tw then addTwin s i id (fieldBlocks blocks) false else s
/-- A copy command stalls at issue: no credit or entry (R311), a rec.fence of its split in progress, or one of its wave that names the
record it would look up (R318). -/
def copyStall (s : State) (i : Issue) (compared : Bool) (rec : Option Nat) : Bool :=
  engStall s i compared || !sluiceRoom s i.u.w.die i.u.w.core
    || s.ops.any (fun (o : Nat × Op) => o.2.wuid == i.w.uid && (match o.2.kind with
      | .cmd (.recFence va) => o.2.k == i.u.k || rec == some va
      | _ => false))
/-- Act on the checks. -/
def copyGate (s : State) (i : Issue) (r : CpRes) (compared : Bool) (blocks : List Nat) : State :=
  match r with
  | .trap c => trapIs s i c 0
  | .fault c => faultEntry s i false (faultMask i.e c) compared blocks
  | .ok accs nc total count pc tb slot pb byte => acceptCopy s i accs nc total count pc tb slot pb byte compared blocks none
/-- The operand fields of a tiled command as a signature takes them (R353). -/
def tileBlocks (s : State) (w : Wave) (rec crd : SReg) (spo slot : SSrc) (msk : Option SReg) : List Nat :=
  (sreg64 s w rec).1.toNat :: (List.range 5).map (fun (j : Nat) => (readS s w (crd.toNat + j)).v.toNat)
    ++ [(ssrc s w spo).v.toNat, (ssrc s w slot).v.toNat]
    ++ (match msk with | some x => [(sreg64 s w x).1.toNat] | none => [])
/-- The shared issue of the tiled forms. -/
def tileIssue (kind : CopyKind) (compared : Bool) (rec crd : SReg) (spo slot : SSrc) (msk : Option SReg) (s : State) (i : Issue) : Option State :=
  if i.e = 0 then some s
  else if copyStall s i compared (some (sreg64 s i.w rec).1.toNat) || ((kind == .tilest || kind == .sca) && spadStall s i) then none
  else match tileCheck s i kind rec crd spo slot msk with
    | (t, r) => some (copyGate t i r compared (tileBlocks s i.w rec crd spo slot msk))
def execCpTile (c : Cm) (rec crd : SReg) (spo slot : SSrc) (s : State) : Host.Outcome State Fault Refusal :=
  issueOp s (.cpTile c rec crd spo slot) c 1 (tileIssue .tile false rec crd spo slot none)
def execCpTilest (c : Cm) (rec crd : SReg) (spo slot : SSrc) (s : State) : Host.Outcome State Fault Refusal :=
  issueOp s (.cpTilest c rec crd spo slot) c 1 (tileIssue .tilest true rec crd spo slot none)
def execCpGat (c : Cm) (rec crd : SReg) (spo slot : SSrc) (msk : SReg) (s : State) : Host.Outcome State Fault Refusal :=
  issueOp s (.cpGat c rec crd spo slot msk) c 1 (tileIssue .gat false rec crd spo slot (some msk))
def execCpSca (c : Cm) (rec crd : SReg) (spo slot : SSrc) (msk : SReg) (s : State) : Host.Outcome State Fault Refusal :=
  issueOp s (.cpSca c rec crd spo slot msk) c 1 (tileIssue .sca true rec crd spo slot (some msk))
/-- The value of an operand field of cp.lin. -/
def endBlock (s : State) (w : Wave) (e : CpEnd) : Nat :=
  match e with
  | .glob n => (sreg64 s w n).1.toNat
  | .off a => (ssrc s w a).v.toNat
/-- A check passes for a copy to or from a peer whose scratchpad stands in an image: it is not accepted until the peer is back, so that what is
QUEUED can be done before the save (Table 15.5; entry 30). -/
def atSaved (s : State) : CpRes → Bool
  | .ok accs _ _ _ _ _ _ _ _ => accs.any (fun a => spadSaved s a.dst || a.src.any (spadSaved s))
  | _ => false
def execCpLin (c : Cm) (dst src : CpEnd) (len slot : SSrc) (dir : LinDir) (s : State) : Host.Outcome State Fault Refusal :=
  issueOp s (.cpLin c dst src len slot dir) c 1 (fun s i =>
    let cmpd := dir == .sg || dir == .gg
    if i.e = 0 then some s
    else if copyStall s i cmpd none || ((match src with | .off _ => true | .glob _ => false) && spadStall s i) || atSaved s (linCheck s i dst src len slot dir) then none
    else some (copyGate s i (linCheck s i dst src len slot dir) cmpd
      [endBlock s i.w dst, endBlock s i.w src, (ssrc s i.w len).v.toNat, (ssrc s i.w slot).v.toNat]))

/-! ### cp.tile.then (R324) -/

/-- The follow-on word: the guard, the checks it makes at issue, and how it is accepted. -/
inductive Follow where
  | mx (t : Nat) (fd : W64) (spa : Val) (m0 nb : Nat) (tag : BitVec 16) (tc z : Bool)
  | ldb (m : Nat) (fd : W64) (p : Val) (tag : BitVec 16)
  | none
deriving DecidableEq, Repr

def followOf (s : State) (w : Wave) (x : Instr) : Follow :=
  match x with
  | .mx _ t fda spa m0 mc tag tc z => .mx t.toNat (readFd s w fda.toNat) (ssrc s w spa) m0.toNat (2 ^ mc.toNat) tag tc z
  | .mxLdb _ m fdb spb tag => .ldb m.toNat (readFd s w fdb.toNat) (ssrc s w spb) tag
  | _ => .none
def followCm (x : Instr) (c : Cm) : Cm :=
  match x with
  | .mx c _ _ _ _ _ _ _ _ => c
  | .mxLdb c _ _ _ _ => c
  | _ => c
def followBad (s : State) (i : Issue) (f : Follow) : Option MxBad :=
  match f with
  | .mx t fd spa m0 nb tag tc z => mxBad s i.w i.u.w t fd spa m0 nb tag tc z
  | .ldb m fd p _ => ldbBad s i.w m fd p
  | .none => none
def acceptFollow (s : State) (i : Issue) (f : Follow) (gated : Bool) (pc : Addr) (word : W64) : State :=
  match f with
  | .mx t fd spa m0 nb _ _ z => acceptMx s i (.mx t fd spa.v.toNat m0 nb z) gated pc word
  | .ldb m fd p tag => acceptMx s i (.ldb m fd p.v.toNat tag) gated pc word
  | .none => s
/-- The follow-on word stalls as its instruction does (R48, R334). -/
def followStall (s : State) (i : Issue) (f : Follow) : Bool :=
  mxStall s i || spadStall s i || (match f with
    | .mx t _ _ _ _ _ _ _ => tileStall s i t
    | .ldb m fd p tag => macroStall s i (.ldb m fd p.v.toNat tag)
    | .none => false)
/-- A trap of the follow-on word, at its own word. -/
def trapNext (s : State) (i : Issue) (cause : Nat) : State :=
  takeTrap (s.updSplit i.u (fun _ => i.sp)) i.u (i.sp.pc + 8) i.sp.hdr cause 0
/-- The checks of the follow-on word, then what the pair does. -/
def followGate (s : State) (i : Issue) (e2 : Mask) (b : Option MxBad) (k : State → State) : State :=
  match b with
  | some (.trap c) => trapNext s i c
  | some (.fault c) => faultThen s { i with word := i.word1, e := e2 } false (faultMask e2 c) (fun s _ => s)
  | none => k s
/-- The pair's issue; the S bit of the follow-on word applies too (R43). -/
def thenIssue (c : Cm) (rec crd : SReg) (spo slot : SSrc) (s : State) (i : Issue) : Option State :=
  match decode i.word1 none with
  | .error e => some (trapNext s i (errCause e))
  | .ok x =>
    let e2 := guardSet s i.w (followCm x c) i.sp.mask
    if boundsBad s i.w (refsOf x) then some (trapNext s i 0x003)
    else if hazard s i.w (followCm x c) (refsOf x) then none
    else if (i.e ≠ 0 ∧ copyStall s i false (some (sreg64 s i.w rec).1.toNat)) ∨ (e2 ≠ 0 ∧ followStall s i (followOf s i.w x)) then none
    else
      let f := followOf s i.w x
      let pc2 := i.sp.pc + 8
      let settled := fun s => some (applySettle s i.u (followCm x c))
      if i.e = 0 then
        settled (if e2 = 0 then s else followGate s i e2 (followBad s i f) (fun s => acceptFollow s i f false pc2 i.word1))
      else match tileCheck s i .tile rec crd spo slot none with
        | (t, .ok accs nc total count pc tb n pb byte) =>
          settled (if e2 = 0 then acceptCopy t i accs nc total count pc tb n pb byte false [] none
            else followGate t i e2 (followBad t i f) (fun t =>
              acceptCopy (acceptFollow t i f true pc2 i.word1) i accs nc total count pc tb n pb byte false [] (some t.nextId)))
        | (t, r) => settled (copyGate t i r false [])
def execCpTileThen (c : Cm) (rec crd : SReg) (spo slot : SSrc) (s : State) : Host.Outcome State Fault Refusal :=
  issueOp s (.cpTileThen c rec crd spo slot) c 2 (thenIssue c rec crd spo slot)

/-! ### rec.fence (R318) -/

/-- The lanes of a fence fault once its close is done (R318, R370): the split goes past the word without them. -/
def fenceFault (s : State) (o : Nat) (x : Op) (cause : Nat) : State :=
  let u : SplitRef := ⟨x.w, x.k⟩
  let sp := { s.split u with hold := .none }
  match parkLanes (goPast (endOp s o) u) u sp x.word false (faultMask x.e cause) o with
  | .yes s => tidy s x.w
  | .no s => s
/-- A fence can fault after its close, as it stands at its issue: its split is held at the word (entry 56). -/
def fenceHeld (s : State) (va : Nat) : Bool := va % 64 != 0 || !(fencedDies s).isEmpty
/-- A fence of a wave is over, with the cause it met: the lanes of a split that is held at it fault; one that has gone on leaves a record for each fenced
die (entry 56). -/
def endFence (s : State) (o : Nat) (x : Op) (cause va : Nat) : State :=
  let u : SplitRef := ⟨x.w, x.k⟩
  if (s.split u).hold == .op o then (if cause = 0 then tidy (goPast (endOp s o) u) u.w else fenceFault s o x cause)
  else endOp (if cause = 0x106 then (fencedDies s).foldl (fun s _ => recordOp s x o 2 0x106 va) s else s) o
/-- After the close: the alignment of the address, then the record is dropped from every sluice; those of a fenced die refuse (R370). -/
def runRecFence (va : Nat) (s : State) (o : Nat) : State :=
  match s.op o with
  | none => s
  | some x =>
    let cause := if va % 64 ≠ 0 then 0x105 else if (fencedDies s).isEmpty then 0 else 0x106
    let s := if va % 64 ≠ 0 then s else dropRecs s (fun a rec => a == x.asid && rec == va)
    let s := match (if x.twin = 2 then s.op x.peer else none) with | some y => endFence s x.peer y cause va | none => s
    endFence s o x cause va
def execRecFence (c : Cm) (a : SReg) (s : State) : Host.Outcome State Fault Refusal :=
  issueOp s (.recFence c a) c 1 (fun s i =>
    if i.e = 0 then some s
    else if engStall s i true || !sluiceRoom s i.u.w.die i.u.w.core then none
    else
      let va := sreg64 s i.w a
      some (if va.2 then faultEntry s i false (faultMask i.e 0x104) true [va.1.toNat]
        else
          let s := if !fenceHeld s va.1.toNat then s else s.updSplit i.u (fun x => { i.sp with st := x.st, last := x.last, hold := .op s.nextId })
          command s i (.recFence va.1.toNat) true [va.1.toNat] (cmdAfter s i) none 0 (runRecFence va.1.toNat)))

/-! ### The sluice at work (R311, R325) -/

def updCopy (s : State) (n : Nat) (f : Copy → Copy) : State := { s with copies := tupd s.copies n f }
/-- Copies of a sluice in a state that a predicate picks. -/
def sluiceCopies (s : State) (c : Copy) (p : Copy → Bool) : List (Nat × Copy) :=
  s.copies.filter (fun (x : Nat × Copy) => x.2.die == c.die && x.2.cluster == c.cluster && p x.2)
/-- An ACTIVE place is free. -/
def placeFree (s : State) (c : Copy) : Bool := decide ((sluiceCopies s c (fun x => x.st == .active)).length < 4)
/-- The copy has something to do: neither its block nor one that it reads, writes or tells stands in an image. -/
def copyHere (s : State) (c : Copy) : Bool := !savedOut s c.block c.bcopy && (copyBlocks c).all (fun b => !savedOut s b.1 b.2)
/-- The QUEUED command a sluice takes next: round-robin by core, in acceptance order within a core. -/
def nextQueued (s : State) (c : Copy) : Option Nat :=
  let q := sluiceCopies s c (fun x => x.st == .queued && copyHere s x)
  let last := tget 3 s.sluiceRr (c.die, c.cluster)
  (List.range 4).findSome? (fun i =>
    let core := 4 * c.cluster + (last + 1 + i) % 4
    ((q.filter (fun x => x.2.w.core == core)).map (·.1)).head?)
/-- COPY_START. -/
def execCopyStart (cp : Nat) (s : State) : Host.Outcome State Fault Refusal :=
  .next (match tfind s.copies cp with
    | none => s
    | some c =>
      if c.st == .queued && placeFree s c && nextQueued s c == some cp
          && (sluiceCopies s c (fun x => x.st == .stalled && x.released && copyHere s x)).isEmpty then
        { updCopy s cp (fun (x : Copy) => { x with st := .active }) with sluiceRr := tset s.sluiceRr (c.die, c.cluster) (c.w.core % 4) }
      else s)
/-- COPY_RELEASE. -/
def execCopyRelease (cp : Nat) (s : State) : Host.Outcome State Fault Refusal :=
  .next (match tfind s.copies cp with
    | none => s
    | some c =>
      if c.st == .stalled && c.released && placeFree s c && copyHere s c then
        updCopy s cp (fun (x : Copy) => { x with st := .active, stallVa := [], released := false })
      else s)

/-- Bytes that an access reads: those it does not fill. -/
def CAcc.srcLen (a : CAcc) : Nat := a.len - a.bytes.length - a.post.length
/-- Pieces of global memory read at their homes: the bytes, and the first cause with its VA. -/
def readPieces (s : State) (asid : Nat) : List (Nat × Nat × Nat) → State × List Byte × Nat × Nat
  | [] => (s, [], 0, 0)
  | p :: t => match homeLoad s asid p.2.1 p.2.2 .rd with
    | (s, d, psn, k) =>
      let k := if k ≠ 0 then k else if psn then 0x104 else 0
      if k ≠ 0 then (s, [], k, p.2.1) else match readPieces s asid t with
        | (s, e, k, va) => (s, d ++ e, k, va)
/-- Bytes written to pieces of global memory at their homes, up to the first cause. -/
def writePieces (s : State) (asid : Nat) (d : List Byte) : List (Nat × Nat × Nat) → State × Nat × Nat
  | [] => (s, 0, 0)
  | p :: t => match homeStore s asid p.2.1 ((d.drop p.1).take p.2.2) with
    | (s, k) => if k ≠ 0 then (s, k, p.2.1) else writePieces s asid d t
/-- The bytes an access moves, with the cause of its source. -/
def accRead (s : State) (c : Copy) (a : CAcc) : State × List Byte × Nat × Nat :=
  match a.src with
  | none => (s, a.bytes ++ a.post, 0, 0)
  | some (.glob va) =>
    match readPieces s c.asid (linePieces va a.srcLen) with
    | (s, d, k, at') => (s, a.bytes ++ d ++ a.post, k, at')
  | some (.spad b cp off) =>
    if retired s b cp then (s, [], 0x107, off)
    else
      let r := spadRead s b cp off a.srcLen
      (s, a.bytes ++ r.1 ++ a.post, if r.2 then 0x104 else 0, off)
/-- The write of an access, with its cause. -/
def accWrite (s : State) (c : Copy) (a : CAcc) (d : List Byte) : State × Nat × Nat :=
  match a.dst with
  | .glob va => writePieces s c.asid d (linePieces va a.len)
  | .spad b cp off => if retired s b cp then (s, 0x107, off) else (spadPut s c.asid b cp (cellsOf off d), 0, off)
/-- Bytes of a line that a copy's finished accesses have written: in global memory, or in a block copy's scratchpad. -/
def lineCovered (accs : List CAcc) (at' : End → Option Nat) (ln : Nat) : Bool :=
  (List.range 128).all (fun j => accs.any (fun a => a.fin && (match at' a.dst with
    | some x => decide (x ≤ 128 * ln + j) && decide (128 * ln + j < x + a.len)
    | none => false)))
/-- A line the copy has covered whole loses its poison: in scratchpad (R258), and in ASID 0's physical window (R309), where a cp.tilest or cp.sca counts
as a cp.lin does (entry 73: the model's choice). -/
def clearCovered (s : State) (c : Copy) (accs : List CAcc) (a : CAcc) : State :=
  match a.dst with
  | .glob va => (linePieces va a.len).foldl (fun s p =>
      let ln := lineOf p.2.1
      if inWindow c.asid p.2.1 && lineCovered accs (fun e => match e with | .glob x => some x | _ => none) ln then
        touchRow { s with slines := tupd s.slines (0, ln) (fun (l : SLine) => { l with psn := false }) } (winChan p.2.1) (winOff (128 * ln)) none (some none)
      else s) s
  | .spad b cp off =>
    match spadAt s b cp 0 with
    | none => s
    | some (d, k, base) =>
      let ln := (base + off) / 128
      if (s.core d k).spadPsn.contains ln
          && lineCovered accs (fun e => match e with | .spad b2 c2 x => if b2 = b ∧ c2 = cp then some (base + x) else none | _ => none) ln then
        s.setCore d k { s.core d k with spadPsn := (s.core d k).spadPsn.filter (· != ln) }
      else s
/-- A record of kind 2 that names the copy's wave (R151), after a close of its stores (R284). -/
def copyRecord (s : State) (c : Copy) (cause va : Nat) : State :=
  recordAfter s c.wuid 0 c.asid 2 cause 0 0 va
    ⟨s.lidOf c.w.die, c.w.core, c.w.slot, ((tfind s.blocks c.block).map (·.idx)).getD 0, c.pc.toNat, coreClock s c.w⟩
/-- The block copies an access of n bytes touches stand on their cores, and its pages' engines take the request (R374). -/
def endHere (s : State) (asid n : Nat) : End → Bool
  | .glob va => !holdsBack s asid va && !holdsBack s asid (va + n - 1)
  | e => !spadSaved s e
/-- An end of n bytes on a page that the copy waits for. -/
def stalledEnd (c : Copy) (n : Nat) : End → Bool
  | .glob va => c.stallVa.any (fun a => vpnOf a.1 == vpnOf va || vpnOf a.1 == vpnOf (va + n - 1))
  | .spad _ _ _ => false
/-- An access may be made: a STALLED copy goes on with those that do not touch the pages it waits for, and makes the others again once it
is released (Table 15.5). -/
def accReady (s : State) (c : Copy) (a : CAcc) : Bool :=
  !a.fin && c.fail == 0 && copyHere s c && endHere s c.asid a.len a.dst && (match a.src with | some e => endHere s c.asid a.srcLen e | none => true)
    && (c.st == .active || (c.st == .stalled && !stalledEnd c a.len a.dst && (match a.src with | some e => !stalledEnd c a.srcLen e | none => true)))
/-- An access ends with a cause (R322): 0x101 stalls the copy, any other fails it. -/
def accCause (s : State) (cp : Nat) (c : Copy) (cause va : Nat) : State :=
  if cause = 0x101 then
    updCopy (copyRecord s c 0x101 va) cp (fun (x : Copy) => { x with st := .stalled, stallVa := (va, false) :: x.stallVa, released := false })
  else updCopy (copyRecord s c cause va) cp (fun (x : Copy) => { x with fail := cause })
/-- COPY_ACCESS_REPLY: one access is made. -/
def execCopyAccessReply (cp n : Nat) (s : State) : Host.Outcome State Fault Refusal :=
  .next (match tfind s.copies cp with
    | none => s
    | some c => match c.accs[n]? with
      | none => s
      | some a =>
        if !accReady s c a then s
        else match accRead s c a with
          | (s, d, k, va) =>
            if k ≠ 0 then accCause s cp c k va
            else match accWrite s c a d with
              | (s, k, va) =>
                if k ≠ 0 then accCause s cp c k va
                else
                  let accs := lset c.accs n { a with fin := true }
                  updCopy (clearCovered s c accs a) cp (fun (x : Copy) => { x with accs := accs }))

/-! ### Completion (R320, R322, R323) -/

/-- Bytes of chunk j. -/
def chunkBytes (c : Copy) (j : Nat) : Nat := min 512 (c.total - 512 * j)
/-- Chunk j's event. -/
def landEvent (s : State) (c : Copy) (j : Nat) : State :=
  if c.byte then creditBytes s c.tblock c.tcopy c.slot c.pb (chunkBytes c j) else setChunk s c.tblock c.tcopy c.slot (c.pb + j)
/-- The event of a copy into global memory. -/
def globalEvent (s : State) (c : Copy) : State :=
  if c.byte then creditBytes s c.tblock c.tcopy c.slot c.pb c.total else setChunk s c.tblock c.tcopy c.slot c.pb
/-- The COUNT word: only in a BYTE or CHUNK slot. -/
def writeCount (s : State) (c : Copy) : State :=
  let x := s.bar c.tblock c.tcopy c.slot
  let v := if c.fail = 0 then c.okCount else 0x80000000 + c.fail
  if retired s c.tblock c.tcopy then s
  else if x.kind = 2 ∨ x.kind = 3 then s.setBar c.tblock c.tcopy c.slot { x with count := v }
  else if x.kind = 0 then s
  else s.setBar c.tblock c.tcopy c.slot { x with ovf := true }
/-- Every event that remains, after COUNT. -/
def endEvents (s : State) (c : Copy) : State :=
  let s := writeCount s c
  if c.perChunk then ((List.range c.nchunk).filter (fun j => !c.told.contains j)).foldl (fun s j => landEvent s c j) s
  else globalEvent s c
/-- CHUNK_LAND: a chunk other than the last has landed. -/
def execChunkLand (cp n : Nat) (s : State) : Host.Outcome State Fault Refusal :=
  .next (match tfind s.copies cp with
    | none => s
    | some c =>
      if (c.st == .active || c.st == .stalled) && c.fail == 0 && c.perChunk && decide (n < c.nchunk) && !c.told.contains n
          && decide (c.told.length + 1 < c.nchunk) && copyHere s c
          && c.accs.all (fun (a : CAcc) => a.chunk != n || a.fin) then
        updCopy (landEvent s c n) cp (fun (x : Copy) => { x with told := n :: x.told })
      else s)
/-- The follow-on word is handed to the matrix array. -/
def ungate (s : State) (c : Copy) : State :=
  match c.follow with
  | some o => { s with mxs := tupd s.mxs o (fun (x : MxCmd) => { x with gated := false }) }
  | none => s
/-- COPY_COMPLETE: the last access is performed, or the copy has failed; COUNT, then the events that remain, here and in a trailing copy. -/
def execCopyComplete (cp : Nat) (s : State) : Host.Outcome State Fault Refusal :=
  .next (match tfind s.copies cp with
    | none => s
    | some c =>
      if (c.st == .active || (c.st == .stalled && c.fail != 0)) && copyHere s c
          && (c.fail != 0 || (c.accs.all (fun (a : CAcc) => a.fin) && (!c.perChunk || decide (c.nchunk ≤ c.told.length + 1)))) then
        let s := ungate (endEvents s c) c
        let s := updCopy s cp (fun (x : Copy) => { x with st := .done })
        (s.copies.filter (fun (x : Nat × Copy) => x.2.peer == some cp && x.2.st == .held)).foldl (fun s x =>
          updCopy (endEvents s { x.2 with fail := c.fail, okCount := c.okCount }) x.1 (fun (y : Copy) => { y with st := .done })) s
      else s)

end Sys2Proof.Machine
end

