-- ==== Sys2Proof/Machine/Control.lean ====
section
/-! DEFINITION. The meanings of the control instructions 0x00 to 0x0F, spl.info, sread, swrite and vread (chapters 02, 06, 09, 10). -/

namespace Sys2Proof.Machine

/-- A signed offset in 8-byte units from an address (R56). -/
def relAddr {n : Nat} (pc : Addr) (off : BitVec n) : Addr := pc + off.signExtend 56 * 8
/-- The reconvergence PC of an RPC24 field; 0 names none (R215). -/
def rpcOf (pc : Addr) (r : BitVec 24) : W64 := if r = 0 then noneRpc else (relAddr pc r).setWidth 64
/-- CODE_VA of the wave's kernel. -/
def codeVa (s : State) (w : Wave) : Nat := ((s.launchOf w).map (·.codeVa)).getD 0
/-- The VA of a code offset (R215). -/
def codeAddr (s : State) (w : Wave) (off : W32) : Addr := BitVec.ofNat 56 (codeVa s w + off.toNat)
/-- Lanes of MASK with a poisoned guard fault with 0x104 (R216). -/
def guardFaults (i : Issue) : List LaneA := faultMask i.gp 0x104
/-- Faults of a per-lane code offset: poison, then misalignment (R216). -/
def offFaults (s : State) (i : Issue) (a : VSrc) : List LaneA :=
  (lanes i.sp.mask).filterMap (fun l =>
    if i.gp.getLsbD l then some (bareLane 0x104 l)
    else if !i.e.getLsbD l then none
    else
      let x := vsrc s i.w .int a 0 l
      if x.psn then some (bareLane 0x104 l) else if x.v.toNat % 8 ≠ 0 then some (bareLane 0x105 l) else none)

def execNop (c : Cm) (s : State) : Host.Outcome State Fault Refusal := issue1 s (.nop c) c (fun s _ => s)

/-- bra (R216). -/
def execBra (c : Cm) (tgt rpc : BitVec 24) (s : State) : Host.Outcome State Fault Refusal :=
  issue1 s (.bra c tgt rpc) c (fun s i =>
    transfer s i (guardFaults i) (fun l => if i.e.getLsbD l then relAddr i.sp.pc tgt else nextHeader i.sp) (rpcOf i.sp.pc rpc) (fun s _ => s))

/-- The target of a brm lane: the first true pair (R216); and whether a predicate it tests is poisoned. -/
def brmLane (s : State) (w : Wave) (pc next : Addr) (l : Nat) : List (PReg × BitVec 16) → Addr × Bool
  | [] => (next, false)
  | (q, t) :: r =>
    let p := readP s w q l
    if p.2 then (next, true) else if p.1 then (relAddr pc t, false) else brmLane s w pc next l r
def execBrm (c : Cm) (pairs : List (PReg × BitVec 16)) (rpc : BitVec 24) (s : State) : Host.Outcome State Fault Refusal :=
  issueOp s (.brm c pairs rpc) c 2 (fun s i =>
    let g := fun l => if i.e.getLsbD l then brmLane s i.w i.sp.pc (nextHeader i.sp) l pairs else (nextHeader i.sp, false)
    let bad := maskOf (fun l => i.gp.getLsbD l || (i.sp.mask.getLsbD l && (g l).2))
    some (transfer s i (faultMask bad 0x104) (fun l => (g l).1) (rpcOf i.sp.pc rpc) (fun s _ => s)))

/-- brx (R216). -/
def execBrx (c : Cm) (a : VSrc) (rpc : BitVec 24) (s : State) : Host.Outcome State Fault Refusal :=
  issue1 s (.brx c a rpc) c (fun s i =>
    transfer s i (offFaults s i a)
      (fun l => if i.e.getLsbD l then codeAddr s i.w (vsrc s i.w .int a 0 l).v else nextHeader i.sp) (rpcOf i.sp.pc rpc) (fun s _ => s))

/-- The link write of a call (R217). -/
def writeLink (d : VDst) (s : State) (i : Issue) : State :=
  let v : Val := ⟨BitVec.ofNat 32 ((nextHeader i.sp).toNat + 2 ^ 56 - codeVa s i.w % 2 ^ 56), false⟩
  writeV s i.u.w (effV s i.w d) i.e (fun _ => v) Config.linkCycles
def execCall (c : Cm) (d : VDst) (tgt : BitVec 24) (s : State) : Host.Outcome State Fault Refusal :=
  issue1 s (.call c d tgt) c (fun s i =>
    transfer s i (guardFaults i) (fun l => if i.e.getLsbD l then relAddr i.sp.pc tgt else nextHeader i.sp)
      ((nextHeader i.sp).setWidth 64) (writeLink d))
def execCallx (c : Cm) (d : VDst) (a : VSrc) (s : State) : Host.Outcome State Fault Refusal :=
  issue1 s (.callx c d a) c (fun s i =>
    transfer s i (offFaults s i a)
      (fun l => if i.e.getLsbD l then codeAddr s i.w (vsrc s i.w .int a 0 l).v else nextHeader i.sp)
      ((nextHeader i.sp).setWidth 64) (writeLink d))
/-- ret is brx with RPC24 = 0 (R217). -/
def execRet (c : Cm) (a : VSrc) (s : State) : Host.Outcome State Fault Refusal :=
  issue1 s (.ret c a) c (fun s i =>
    transfer s i (offFaults s i a)
      (fun l => if i.e.getLsbD l then codeAddr s i.w (vsrc s i.w .int a 0 l).v else nextHeader i.sp) noneRpc (fun s _ => s))

/-- Lanes retire from their wave (R218, R221): withdrawn from the block's slots (R231, also at the end of program 1, where R382 shows the slot as it was
before the exits: entry 82), then among the exited lanes. -/
def retireLanes (s : State) (r : WaveRef) (m : Mask) : State :=
  (withdraw s r m).updWave r (fun w => { w with exited := w.exited ||| m, lastExit := 0 })
/-- The lanes of E exit: they retire at once; in a twin wave the exit's close waits for its entries (R354). -/
def exitLanes (s : State) (i : Issue) : State :=
  (retireLanes s i.u.w i.e).updWave i.u.w (fun w =>
    let x := w.split i.u.k
    let m := x.mask &&& ~~~i.e
    let w := { w with lastExit := i.e }
    if m = 0 then w.freeSplit i.u.k .exited else w.setSplit i.u.k { x with mask := m })
/-- exit (R218), behind the wave's own arrivals at any slot, since it withdraws its lanes there (R231, R244). -/
def execExit (c : Cm) (s : State) : Host.Outcome State Fault Refusal :=
  issueOp s (.exit c) c 1 (fun s i =>
    if i.e = 0 then some s else if syncsOut s i.w (fun _ => true) then none else some (exitLanes s i))

/-- wsync (R214); a guard other than p7 raises trap 0x002. -/
def execWsync (c : Cm) (s : State) : Host.Outcome State Fault Refusal :=
  issue1 s (.wsync c) c (fun s i =>
    if c.pg ≠ 7 ∨ c.pn then trapIs s i 0x002 0
    else s.updWave i.u.w (fun w =>
      if w.wsm ≠ 0 ∧ w.wspc ≠ i.sp.pc then w.setSplit i.u.k { i.sp with st := .waitMerge, last := s.cyc i.u.w.die + 1 }
      else
        let n := wordAfter i.sp 1
        { w.freeSplit i.u.k .unused with
          wsm := w.wsm ||| i.sp.mask, wspc := i.sp.pc, wsNext := n.1, wsHdr := if n.2 then n.1 else i.sp.hdr
          wsTill := if c.s && !w.ilk then max w.wsTill (fixedTill w) else w.wsTill }))

/-- yield (R161). -/
def execYield (c : Cm) (lve : Bool) (live : BitVec 6) (s : State) : Host.Outcome State Fault Refusal :=
  issueS s (.yield c lve live) c (fun s i =>
    let n := (live.toNat + 1) * 8
    if lve && decide (i.w.allot < n) then trapIs s i 0x003 0
    else if !i.w.preq then s
    else s.updWave i.u.w (fun w =>
      let w := if lve then { w with live := some (max n (w.live.getD 0)) } else w
      w.setSplit i.u.k { w.split i.u.k with hold := .yielded }))

/-- sleep (R199). -/
def execSleep (c : Cm) (a : SSrc) (s : State) : Host.Outcome State Fault Refusal :=
  issueS s (.sleep c a) c (fun s i =>
    let x := ssrc s i.w a
    poisonGate s i x.psn (fun s _ =>
      let n := min x.v.toNat (2 ^ 20)
      if n = 0 then s else s.updSplit i.u (fun x => { x with st := .sleep (s.cyc i.u.w.die + n) })))

/-- elect (R196). -/
def execElect (c : Cm) (d : PReg) (s : State) : Host.Outcome State Fault Refusal :=
  issue1 s (.elect c d) c (fun s i => writeP s i.u.w d i.e (fun l => (decide ((lanes i.e).head? = some l), false)) 2)

/-- vote (R197). -/
def execVote (c : Cm) (k : VoteK) (a : PReg) (s : State) : Host.Outcome State Fault Refusal :=
  issueS s (.vote c k a) c (fun s i =>
    let t := maskOf (fun l => i.e.getLsbD l && (readP s i.w a l).1)
    let psn := (lanes i.e).any (fun l => (readP s i.w a l).2)
    match k with
    | .or d => writeP s i.u.w d i.e (fun _ => (t != 0, psn)) 4
    | .and d => writeP s i.u.w d i.e (fun _ => (t == i.e, psn)) 4
    | .eq d => writeP s i.u.w d i.e (fun _ => (t == 0 || t == i.e, psn)) 4
    | .bits d => writeS s i.u.w d.toNat ⟨t, psn⟩ 4
    | .cnt d => writeS s i.u.w d.toNat ⟨BitVec.ofNat 32 (popcount t), psn⟩ 4)

/-- trap #n (R159): the frame PC names the next word or header (R146). -/
def execTrap (c : Cm) (n : BitVec 6) (s : State) : Host.Outcome State Fault Refusal :=
  issueS s (.trap c n) c (fun s i =>
    let p := wordAfter i.sp 1
    takeTrap (s.updSplit i.u (fun _ => i.sp)) i.u p.1 (if p.2 then p.1 else i.sp.hdr) (0x040 + n.toNat) n.toNat)
/-- brk #tag (R159). -/
def execBrk (c : Cm) (tag : BitVec 16) (s : State) : Host.Outcome State Fault Refusal :=
  issueS s (.brk c tag) c (fun s i => trapIs s i 0x011 tag.toNat)

/-- Stores of the wave that are not yet performed into L1 (R160). -/
def storesOutL1 (s : State) (uid : Nat) : Bool :=
  s.ops.any (fun (o : Nat × Op) => o.2.wuid == uid && !o.2.performed && !o.2.inRq && isStoreKind o.2.kind && o.2.space == .glob && !inL1 s o.2)
/-- Stores of the wave to its trap frame that are not yet performed: the frame is read with them (R160). -/
def frameStores (s : State) (w : Wave) : Bool :=
  s.ops.any (fun (o : Nat × Op) => o.2.wuid == w.uid && !o.2.performed && !o.2.inRq && isStoreKind o.2.kind && o.2.space == .glob
    && o.2.lanes.any (fun l => !l.fin && l.cause == 0 && decide (l.addr < w.frame + 256) && decide (w.frame < l.addr + 16)))
/-- tret (R160). -/
def execTret (c : Cm) (s : State) : Host.Outcome State Fault Refusal :=
  issueOp s (.tret c) c 1 (fun s i =>
    if c.pg ≠ 7 ∨ c.pn then some (trapIs s i 0x002 0)
    else if !i.w.hmode then some (trapIs s i 0x001 0)
    else if storesOutL1 s i.w.uid || frameStores s i.w then none
    else some (trapReturn s i.u))

/-- The value spl.info writes (R223). -/
def splInfoVal (s : State) (r : WaveRef) (w : Wave) (sel : Nat) : Nat :=
  if sel < 4 then (w.split sel).mask.toNat
  else if sel < 8 then stCode (w.split (sel - 4)).st + (w.split (sel - 4)).age * 256
  else if sel = 8 then w.stack.length
  else if sel = 9 then w.wsm.toNat
  else if sel = 10 then (fragLanes (s.coreOf r) w.uid).toNat
  else if sel = 11 then w.exited.toNat
  else ((s.coreOf r).frags.filter (fun f => f.2.fstate != 0 && f.2.wuid == w.uid)).foldl (fun n f => n + 2 ^ f.1) 0
def execSplInfo (c : Cm) (d : SReg) (sel : BitVec 8) (s : State) : Host.Outcome State Fault Refusal :=
  issueS s (.splInfo c d sel) c (fun s i =>
    writeS s i.u.w d.toNat ⟨BitVec.ofNat 32 (splInfoVal s i.u.w i.w sel.toNat), false⟩ 2)

/-- Block coordinates and extents (R191). -/
def blockIdx (s : State) (w : Wave) : Nat := ((tfind s.blocks w.block).map (·.idx)).getD 0
/-- The value of a system register (Table 6.8a). -/
def sysVal (s : State) (i : Issue) (sys : SysReg) : Nat :=
  let w := i.w
  let l := (s.launchOf w).getD Launch.zero
  let b := blockIdx s w
  let g := l.gsize + 1
  match sys with
  | .waveId => w.waveId
  | .blockX => b % l.gx
  | .blockY => b / l.gx % l.gy
  | .blockZ => b / l.gx / l.gy
  | .nBlockX => l.gx
  | .nBlockY => l.gy
  | .nBlockZ => l.gz
  | .groupId => b / g
  | .gRank => b - g * (b / g)
  | .cluster => i.u.w.core / 4
  | .core => i.u.w.core
  | .die => s.lidOf i.u.w.die
  | .splitId => i.u.k
  | .splitMask => i.sp.mask.toNat
  | .allot => w.allot
  | .preq => w.preq.toNat
  | .clkLo => coreClock s i.u.w % 2 ^ 32
  | .clkHi => w.clkHi.toNat
  | .ctxId => w.asid
  | .splOvf => w.splovf.toNat
  | .nanDrop => w.nandrop.toNat
  | .xidx0 => readX s w 0
  | .xidx1 => readX s w 1
  | .xidx2 => readX s w 2
  | .xidx3 => readX s w 3
/-- sread (R162): a read of CLKLO captures the counter's high half. -/
def execSread (c : Cm) (d : SReg) (sys : SysReg) (s : State) : Host.Outcome State Fault Refusal :=
  issueS s (.sread c d sys) c (fun s i =>
    let t := writeS s i.u.w d.toNat ⟨BitVec.ofNat 32 (sysVal s i sys), false⟩ 2
    if sys = .clkLo then t.updWave i.u.w (fun w => { w with clkHi := BitVec.ofNat 32 (coreClock s i.u.w / 2 ^ 32) }) else t)
/-- swrite (R162, R163). -/
def execSwrite (c : Cm) (a : SSrc) (sys : SysReg) (s : State) : Host.Outcome State Fault Refusal :=
  issueS s (.swrite c a sys) c (fun s i =>
    let x := ssrc s i.w a
    poisonGate s i x.psn (fun s _ =>
      match sys with
      | .splOvf => s.updWave i.u.w (fun w => { w with splovf := x.v })
      | .nanDrop => s.updWave i.u.w (fun w => { w with nandrop := w.nandrop && !x.v.getLsbD 0 })
      | .xidx0 => writeX s i.u.w 0 x.v 2
      | .xidx1 => writeX s i.u.w 1 x.v 2
      | .xidx2 => writeX s i.u.w 2 x.v 2
      | .xidx3 => writeX s i.u.w 3 x.v 2
      | _ => trapIs s i 0x001 0))

/-- The identity values of Table 9.2. -/
def laneId (s : State) (w : Wave) (sel : VReadSel) (l : Nat) : W32 :=
  let la := (s.launchOf w).getD Launch.zero
  let n := 32 * (la.nwave + 1)
  let b := blockIdx s w
  let g := la.gsize + 1
  let x := 32 * w.waveId + l
  match sel with
  | .laneId => BitVec.ofNat 32 l
  | .tidX => BitVec.ofNat 32 x
  | .tidY => BitVec.ofNat 32 (n * (b - g * (b / g)) + x)
  | .tidZ => BitVec.ofNat 32 (n * b + x)
def execVread (c : Cm) (d : VDst) (sel : VReadSel) (s : State) : Host.Outcome State Fault Refusal :=
  issue1 s (.vread c d sel) c (fun s i => writeV s i.u.w (effV s i.w d) i.e (fun l => ⟨laneId s i.w sel l, false⟩) 2)

end Sys2Proof.Machine
end

