-- ==== Sys2Proof/Machine/Frag.lean ====
section
/-! DEFINITION. The fragment instructions 0x11 to 0x15 (R222 to R225) and what their commands do at the fragment table. -/

namespace Sys2Proof.Machine

/-- Fields of a fragment handle (Table 10.6). -/
def hAsid (h : W64) : Nat := bits h.toNat 32 12
def hDie (h : W64) : Nat := bits h.toNat 24 8
def hCore (h : W64) : Nat := bits h.toNat 16 8
def hIdx (h : W64) : Nat := bits h.toNat 0 5
def hGen (h : W64) : Nat := bits h.toNat 5 11

/-- The checks of R224 up to the entry: a status, or the physical die. -/
def handleDie (s : State) (own : Nat) (h : W64) : Nat × Nat :=
  if bits h.toNat 44 20 ≠ 0 ∨ 15 < hDie h ∨ 39 < hCore h then (1, 0)
  else if own ≠ 0 ∧ hAsid h ≠ own then (2, 0)
  else if !((s.ctx (hAsid h)).st == .ready || (s.ctx (hAsid h)).st == .running) then (5, 0)
  else match s.dieOfLid (hDie h) with
    | none => (5, 0)
    | some d => (0, d)
/-- The entry of a handle after its checks: a status, or the die and the entry. -/
def handleEntry (s : State) (own : Nat) (h : W64) (rd : Bool) : Nat × Nat × Frag :=
  match handleDie s own h with
  | (0, d) =>
    let e := tget Frag.fresh (s.core d (hCore h)).frags (hIdx h)
    if e.fstate = 0 ∨ e.asid ≠ hAsid h ∨ (hGen h ≠ e.gen ∧ !(rd && hGen h == 0)) then (1, 0, e) else (0, d, e)
  | (st, _) => (st, 0, Frag.fresh)

/-- A lane of a fragment. -/
def Frag.laneAt (e : Frag) (l : Nat) : Option LaneA := e.lanes.find? (fun x => x.lane == l)
/-- A word of the view of Table 10.4; none where the index is undefined. -/
def fragWord (h : W64) (e : Frag) (i : Nat) : Option Nat :=
  let per := fun (l : Nat) (f : LaneA → Nat) => some ((e.laneAt l).elim 0 f)
  if i = 0 then some (e.slot * 2 ^ 20 + e.cap.toNat * 2 ^ 19 + e.fstate * 2 ^ 16 + e.gen * 32 + hIdx h)
  else if i = 1 then some e.mask.toNat
  else if i = 2 then some (e.opc * 2 ^ 24 + ((e.lanes.head?).map (·.cause)).getD 0)
  else if i = 3 then some e.block
  else if i = 4 then some (e.pc.toNat % 2 ^ 32)
  else if i = 5 then some (e.pc.toNat / 2 ^ 32)
  else if i = 6 then some (e.hdr.toNat % 2 ^ 32)
  else if i = 7 then some (e.hdr.toNat / 2 ^ 32)
  else if i = 8 then some (e.rpc.toNat % 2 ^ 32)
  else if i = 9 then some (e.rpc.toNat / 2 ^ 32)
  else if 0x20 ≤ i ∧ i < 0x40 then
    per (i - 0x20) (fun x => x.cpsn.toNat * 2 ^ 18 + x.dpsn.toNat * 2 ^ 17 + x.apsn.toNat * 2 ^ 16 + x.cause)
  else if 0x40 ≤ i ∧ i < 0x80 then per ((i - 0x40) / 2) (fun x => x.addr / 2 ^ (32 * ((i - 0x40) % 2)) % 2 ^ 32)
  else if 0x80 ≤ i ∧ i < 0x100 then per ((i - 0x80) / 4) (fun x => x.data / 2 ^ (32 * ((i - 0x80) % 4)) % 2 ^ 32)
  else if 0x100 ≤ i ∧ i < 0x180 then per ((i - 0x100) / 4) (fun x => x.cmp / 2 ^ (32 * ((i - 0x100) % 4)) % 2 ^ 32)
  else none
/-- Replace 32-bit word j of a number. -/
def setWord (x j v : Nat) : Nat := x - x / 2 ^ (32 * j) % 2 ^ 32 * 2 ^ (32 * j) + v * 2 ^ (32 * j)
/-- Write a captured word; its lane's poison bit is cleared (R220). None where no word of a lane in LMASK is named. -/
def patchFrag (e : Frag) (i v : Nat) : Option Frag :=
  let upd := fun (l : Nat) (f : LaneA → LaneA) =>
    if (e.laneAt l).isSome then some { e with lanes := e.lanes.map (fun (x : LaneA) => if x.lane = l then f x else x) } else none
  if 0x40 ≤ i ∧ i < 0x80 then upd ((i - 0x40) / 2) (fun (x : LaneA) => { x with addr := setWord x.addr ((i - 0x40) % 2) v, apsn := false })
  else if 0x80 ≤ i ∧ i < 0x100 then upd ((i - 0x80) / 4) (fun (x : LaneA) => { x with data := setWord x.data ((i - 0x80) % 4) v, dpsn := false })
  else if 0x100 ≤ i ∧ i < 0x180 then upd ((i - 0x100) / 4) (fun (x : LaneA) => { x with cmp := setWord x.cmp ((i - 0x100) % 4) v, cpsn := false })
  else none

/-- Put an entry back. -/
def setFrag (s : State) (d : Nat) (h : W64) (e : Frag) : State :=
  let c := s.core d (hCore h)
  s.setCore d (hCore h) { c with frags := tset c.frags (hIdx h) e }
def fragWave (d : Nat) (h : W64) (e : Frag) : WaveRef := ⟨d, hCore h, e.slot⟩

/-- What a command does (R225): the state, the status and the value. -/
def fragEffect (s : State) (own : Nat) (c : Cmd) : State × Nat × W32 :=
  match c with
  | .fragList _ h var =>
    match handleDie s own h with
    | (0, d) =>
      let k := s.core d (hCore h)
      let pick := fun i => let e := tget Frag.fresh k.frags i
                           e.asid == hAsid h && (if var = 0 then e.fstate == 1 else if var = 1 then e.fstate == 2 else e.fstate != 0)
      (s, 0, maskOf pick)
    | (st, _) => (s, st, 0)
  | .fragRead _ h i =>
    match handleEntry s own h true with
    | (0, _, e) => match fragWord h e i.toNat with
      | some v => (s, 0, BitVec.ofNat 32 v)
      | none => (s, 4, 0)
    | (st, _, _) => (s, st, 0)
  | .fragPatch _ h i v =>
    match handleEntry s own h false with
    | (0, d, e) =>
      if e.fstate ≠ 1 ∨ !e.cap then (s, 3, 0)
      else match patchFrag e i.toNat v.toNat with
        | some e => (setFrag s d h e, 0, 0)
        | none => (s, 4, 0)
    | (st, _, _) => (s, st, 0)
  | .fragResume _ h =>
    match handleEntry s own h false with
    | (0, d, e) =>
      if e.fstate ≠ 1 then (s, 3, 0)
      else
        let s := setFrag s d h { e with fstate := 2, permit := false, order := s.nextId }
        (tidy { s with nextId := s.nextId + 1 } (fragWave d h e), 0, 0)
    | (st, _, _) => (s, st, 0)
  | .fragKill _ h =>
    match handleEntry s own h false with
    | (0, d, e) =>
      let s := setFrag s d h { e with fstate := 0, permit := false, lanes := [] }
      (tidy (retireLanes s (fragWave d h e) e.mask) (fragWave d h e), 0, 0)
    | (st, _, _) => (s, st, 0)
  | _ => (s, 0, 0)
/-- The scalar a frag command answers in, and whether it answers a value too. -/
def fragDst : Cmd → Option (SReg × Bool)
  | .fragList d _ _ => some (d, true)
  | .fragRead d _ _ => some (d, true)
  | .fragResume d _ => some (d, false)
  | .fragKill d _ => some (d, false)
  | .fragPatch d _ _ _ => some (d, false)
  | _ => none
/-- A frag command takes effect. -/
def runFrag (c : Cmd) (s : State) (o : Nat) : State :=
  match s.op o, fragDst c with
  | some x, some (d, two) =>
    match fragEffect s x.asid c with
    | (s, st, v) => giveStatus s o d (BitVec.ofNat 32 st :: (if two then [v] else []))
  | _, _ => s
/-- Issue a frag command: frag.resume closes first; all take effect in issue order (R222). -/
def fragIssue (s : State) (i : Issue) (c : Cmd) (d : SReg) (two close compared : Bool) (blocks : List Nat) : Option State :=
  if i.e = 0 then some s
  else if compared && slackStall s i then none
  else
    let after := if close then cmdAfter s i else opsOf s i.w.uid (fun k => match k with | .cmd c => c != .exit | _ => false)
    some (command s i c compared blocks after (some d) (if two then 2 else 1) (runFrag c))

def execFragList (c : Cm) (d : SReg) (a : SPair) (st : FragSel) (s : State) : Host.Outcome State Fault Refusal :=
  issueOp s (.fragList c d a st) c 1 (fun s i =>
    let h := (spair s i.w a).1
    fragIssue s i (.fragList d h (match st with | .parked => 0 | .resumable => 1 | .any => 2)) d true false false [])
def execFragRead (c : Cm) (d : SReg) (a : SPair) (b : SSrc) (s : State) : Host.Outcome State Fault Refusal :=
  issueOp s (.fragRead c d a b) c 1 (fun s i =>
    fragIssue s i (.fragRead d (spair s i.w a).1 (ssrc s i.w b).v) d true false false [])
def execFragResume (c : Cm) (d : SReg) (a : SPair) (s : State) : Host.Outcome State Fault Refusal :=
  issueOp s (.fragResume c d a) c 1 (fun s i =>
    let h := (spair s i.w a).1
    fragIssue s i (.fragResume d h) d false true true [h.toNat])
def execFragKill (c : Cm) (d : SReg) (a : SPair) (s : State) : Host.Outcome State Fault Refusal :=
  issueOp s (.fragKill c d a) c 1 (fun s i =>
    let h := (spair s i.w a).1
    fragIssue s i (.fragKill d h) d false false true [h.toNat])
def execFragPatch (c : Cm) (d : SReg) (a : SPair) (b e : SSrc) (s : State) : Host.Outcome State Fault Refusal :=
  issueOp s (.fragPatch c d a b e) c 1 (fun s i =>
    let h := (spair s i.w a).1
    let x := (ssrc s i.w b).v
    let y := (ssrc s i.w e).v
    fragIssue s i (.fragPatch d h x y) d false false true [h.toNat, x.toNat, y.toNat])

end Sys2Proof.Machine
end

