-- ==== Sys2Proof/Machine/Close.lean ====
section
/-! DEFINITION. The end of a close, and the command that waited for it (R279, R284). -/

namespace Sys2Proof.Machine

/-- A command takes effect: what waited for its close is performed. -/
def runCmd (s : State) (o : Nat) (x : Op) (c : Cmd) : State :=
  match c with
  | .klaunch d va => if x.lanes.any (fun l => l.fin || l.cause != 0) then s else runKlaunch d va s o
  | .psysw cmd d asid arg => runPsysw cmd d asid arg s o
  | .qctl cmd d q arg => runQctl cmd d q arg s o
  | .fragList _ _ _ => runFrag c s o
  | .fragRead _ _ _ => runFrag c s o
  | .fragResume _ _ => runFrag c s o
  | .fragKill _ _ => runFrag c s o
  | .fragPatch _ _ _ _ => runFrag c s o
  | .pgInval var d asid va => if x.left then s else runPgInval var d asid va s o
  | .recFence va => runRecFence va s o
  | .barSync slot _ opn => runSync slot opn false s o
  | .cbar slot opn _ => runSync slot opn true s o
  | .byteCredit slot rank prod n => runByteCredit rank slot prod n s o
  | .exit => s
/-- CLOSE_COMPLETE: everything the close covers is acknowledged. -/
def execCloseComplete (o : Nat) (s : State) : Host.Outcome State Fault Refusal :=
  .next (match s.op o with
    | none => s
    | some x =>
      if !waitOver s x || x.inRq || x.twin == 1 || x.twin == 3 || x.fin then s
      else match x.kind with
        | .close => endOp s o
        | .cmd c => runCmd s o x c
        | _ => s)

end Sys2Proof.Machine
end

