-- ==== Sys2Proof/Machine/Events.lean ====
section
/-! DEFINITION. Events of the issue side: clause entry and its waits, settles, handler entry, replays, watches, and the twin match
(chapters 02, 06, 10, 11, 17). -/

namespace Sys2Proof.Machine

/-- CLAUSE_ENTRY (R36): for a split that its slice chooses, which stands at a header or resumes inside a clause; a slice that runs another
clause enters none. -/
def execClauseEntry (u : SplitRef) (s : State) : Host.Outcome State Fault Refusal :=
  .next (if sliceAct s u.w.die u.w.core (sliceOfSlot u.w.slot) = .enter u then enterClause s u else s)
/-- CLAUSE_WAIT_RELEASE (R38): the waits of a clause, or of an mx.wait (R339), are satisfied; they are a settle point (R45). -/
def execClauseWaitRelease (u : SplitRef) (s : State) : Host.Outcome State Fault Refusal :=
  .next (match s.wave u.w with
    | some w =>
      if holdOver s u.w w (w.split u.k) then releaseHold s u else s
    | none => s)
/-- CODE_FETCH_FAULT (R39): for the split that its slice issues from now, at the header it enters or at its next word. -/
def execCodeFetchFault (u : SplitRef) (s : State) : Host.Outcome State Fault Refusal :=
  .next (match s.wave u.w with
    | some w =>
      let x := w.split u.k
      let act := sliceAct s u.w.die u.w.core (sliceOfSlot u.w.slot)
      let fault := fun (at' : Addr) => match fetchWord s w at' with
        | (t, _, c) => if c ≠ 0 then fetchFault t u at' c else s
      if act = .word u then fault x.pc else if act = .enter u then fault x.hdr else s
    | none => s)
/-- SETTLE_RELEASE (R43): a settle point of the wave (R45). -/
def execSettleRelease (u : SplitRef) (s : State) : Host.Outcome State Fault Refusal :=
  .next (if settleOver s u.w (s.split u) then releaseSettle s u else s)
/-- HANDLER_ENTRY (R146). -/
def execHandlerEntry (w : WaveRef) (s : State) : Host.Outcome State Fault Refusal := .next (enterHandler s w)
/-- FRAGMENT_REPLAY (R220): the core opens for the context; the split's first issue then replays. -/
def execFragmentReplay (u : SplitRef) (s : State) : Host.Outcome State Fault Refusal :=
  .next (match s.wave u.w with
    | some w =>
      if (w.split u.k).hold == .replay then
        (dropOpen s u.w.die u.w.core w.asid).updSplit u (fun x => { x with hold := .none })
      else s
    | none => s)

/-! ### Watches (R247 to R250) -/

/-- The watch entries of a split are released (R250). -/
def dropWatch (s : State) (u : SplitRef) : State :=
  { s with watches := s.watches.filter (fun x => match x.2.target with | .split v => !decide (v = u) | .dep _ _ => true) }
/-- A wait ends with an observed value (R247). -/
def endWait (s : State) (u : SplitRef) (o : Nat) (pq : PReg) (d : SReg) (v : Val) (ok opn : Bool) : State :=
  let s := (waitRegs (dropWatch s u) u.w o pq d v ok).updOp o (fun x => { x with fin := true })
  resumeSplit s u opn
/-- The word is read again at its home slice; a cause parks the lanes of E at the wait. -/
def rereadWait (s : State) (u : SplitRef) (va o : Nat) (e : Mask) (k : State → Val → State) : State :=
  match s.wave u.w, s.op o with
  | some w, some x =>
    if bytesBusy s u.w w.asid va 4 s.nextId then s
    else match homeWord s w.asid va with
      | (s, v, psn, 0) => k s ⟨v, psn⟩
      | (s, _, _, c) =>
        let y := w.split u.k
        let s := endOp (dropWatch s u) o
        let s := s.updWave u.w (fun w => { w with pend := w.pend.filter (fun p => !(p.due.isNone && p.op == o)) })
        let back := { y with pc := x.pc, hdr := x.hdr, st := .runnable }
        match parkLanes (s.updSplit u (fun _ => back)) u back x.word false (faultMask e c) 0 with
        | .no s => s
        | .yes s => if y.mask &&& ~~~e = 0 then tidy s u.w
                    else resumeSplit (s.updSplit u (fun z => { y with mask := z.mask })) u false
  | _, _ => s
/-- WATCH_WAKE (R248). -/
def execWatchWake (u : SplitRef) (s : State) : Host.Outcome State Fault Refusal :=
  .next (match (s.split u).st with
    | .waitWatch _ _ _ _ _ _ pq d _ opn o (some v) => endWait s u o pq d ⟨v, false⟩ true opn
    | _ => s)
/-- WAIT_TIMEOUT (R247): not before the timeout; a wake that has arrived goes first. -/
def execWaitTimeout (u : SplitRef) (s : State) : Host.Outcome State Fault Refusal :=
  .next (match (s.split u).st with
    | .waitWatch va cond val (some t) _ _ pq d e opn o none =>
      if s.cyc u.w.die < t then s
      else rereadWait s u va o e (fun s v => endWait s u o pq d v (wcond cond v.v val) opn)
    | _ => s)
/-- WATCH_POLL (R249). -/
def execWatchPoll (u : SplitRef) (s : State) : Host.Outcome State Fault Refusal :=
  .next (match (s.split u).st with
    | .waitWatch va cond val til true nx pq d e opn o none =>
      if s.cyc u.w.die < nx then s
      else rereadWait s u va o e (fun s v =>
        if wcond cond v.v val then endWait s u o pq d v true opn
        else s.updSplit u (fun x => { x with st := .waitWatch va cond val til true (s.cyc u.w.die + 1024) pq d e opn o none }))
    | _ => s)

/-! ### The compare buffer (R353, R356) -/

/-- A command of the trailing copy whose match has no command on the leading side, since it faulted at its issue there: it is not performed, returns
nothing, and its split goes on (entry 68: the model's choice). -/
def dropTrail (s : State) (o : Nat) (x : Op) : State := releaseDropped (discardOps s (fun n _ => n == o)) x.w [o]
/-- A matched entry of the leading copy: its operation or copy may go on; of the trailing copy: it is never performed. Either may have faulted at its
issue, and then has nothing to perform (R353). -/
def releaseEntry (s : State) (lead trail : TwinE) : State :=
  if lead.isRgn then
    let take := fun (s : State) (t : TwinE) =>
      match s.waves.find? (fun (x : WaveRef × Wave) => x.2.block == t.block && x.2.copy == t.copy && x.2.waveId == t.waveId) with
      | some (r, w) =>
        (match tfind w.pendRgn t.op with
          | some g => s.setWave r { w with region := g, pendRgn := tdel w.pendRgn t.op }
          | none => s)
      | none => s
    take (take s lead) trail
  else match s.op lead.op, s.op trail.op with
    | some _, some _ =>
      (s.updOp lead.op (fun x => { x with twin := 2, peer := trail.op })).updOp trail.op (fun x => { x with twin := 3, peer := lead.op })
    | some _, none => s.updOp lead.op (fun x => { x with twin := 2, peer := trail.op })
    | none, some x => dropTrail s trail.op x
    | none, none =>
      let cs := tupd s.copies lead.op (fun (c : Copy) => { c with st := .queued })
      { s with copies := tupd cs trail.op (fun (c : Copy) =>
          if (tfind s.copies lead.op).isSome then { c with st := .held, peer := some lead.op } else { c with st := .dropped }) }
/-- TWIN_COMPARE (R353): the second entry of a key has arrived. -/
def execTwinCompare (o : Nat) (s : State) : Host.Outcome State Fault Refusal :=
  .next (match tfind s.twins o with
    | none => s
    | some t =>
      match s.twins.find? (fun e => sameKey e.2 t && e.2.copy != t.copy) with
      | none => s
      | some (o2, t2) =>
        let lead := if t.copy = 0 then t else t2
        let trail := if t.copy = 0 then t2 else t
        if t.sig.isNone || t2.sig.isNone then s
        else if t.sig = t2.sig then releaseEntry { s with twins := tdel (tdel s.twins o) o2 } lead trail
        else match s.waves.find? (fun (x : WaveRef × Wave) => x.2.block == t.block && x.2.waveId == t.waveId) with
          | some (_, w) => twinRestart s w t.va
          | none => { s with twins := tdel (tdel s.twins o) o2 })

end Sys2Proof.Machine
end

