-- ==== Sys2Proof/Machine/Vector.lean ====
section
/-! DEFINITION. The meanings of the vector integer instructions 0x40 to 0x5F (chapter 04). -/

namespace Sys2Proof.Machine

/-- A per-lane result with its poison, written `lat` cycles after issue (R102, R113, R114). -/
def vecOp (s : State) (i : Instr) (c : Cm) (d : VDst) (lat : Nat) (f : State → Wave → Nat → Val) : Host.Outcome State Fault Refusal :=
  issue1 s i c (fun s is => writeV s is.u.w (effV s is.w d) is.e (f s is.w) lat)
def lane1 (ty : OTy) (a : VSrc) (g : W32 → W32) (s : State) (w : Wave) (l : Nat) : Val :=
  let x := vsrc s w ty a 0 l
  ⟨g x.v, x.psn⟩
def lane2 (ty : OTy) (a b : VSrc) (g : W32 → W32 → W32) (s : State) (w : Wave) (l : Nat) : Val :=
  let x := vsrc s w ty a 0 l
  let y := vsrc s w ty b 0 l
  ⟨g x.v y.v, x.psn || y.psn⟩
def lane3 (ty : OTy) (a b e : VSrc) (g : W32 → W32 → W32 → W32) (s : State) (w : Wave) (l : Nat) : Val :=
  let x := vsrc s w ty a 0 l
  let y := vsrc s w ty b 0 l
  let z := vsrc s w ty e 0 l
  ⟨g x.v y.v z.v, x.psn || y.psn || z.psn⟩
/-- A per-lane condition written to a predicate. -/
def predOp (s : State) (i : Instr) (c : Cm) (q : PReg) (lat : Nat) (f : State → Wave → Nat → Bool × Bool) : Host.Outcome State Fault Refusal :=
  issue1 s i c (fun s is => writeP s is.u.w q is.e (f s is.w) lat)

def execVadd (c : Cm) (d : VDst) (a b : VSrc) (f : IntF) (s : State) : Host.Outcome State Fault Refusal :=
  vecOp s (.vadd c d a b f) c d 4 (lane2 .int a b (aluAdd f))
def execVsub (c : Cm) (d : VDst) (a b : VSrc) (f : IntF) (s : State) : Host.Outcome State Fault Refusal :=
  vecOp s (.vsub c d a b f) c d 4 (lane2 .int a b (aluSub f))
def execVmul (c : Cm) (d : VDst) (a b : VSrc) (f : IntF) (s : State) : Host.Outcome State Fault Refusal :=
  vecOp s (.vmul c d a b f) c d 6 (lane2 .int a b (aluMul f))
def execVand (c : Cm) (d : VDst) (a b : VSrc) (f : IntF) (s : State) : Host.Outcome State Fault Refusal :=
  vecOp s (.vand c d a b f) c d 4 (lane2 .int a b (aluAnd f))
def execVor (c : Cm) (d : VDst) (a b : VSrc) (f : IntF) (s : State) : Host.Outcome State Fault Refusal :=
  vecOp s (.vor c d a b f) c d 4 (lane2 .int a b (aluOr f))
def execVxor (c : Cm) (d : VDst) (a b : VSrc) (f : IntF) (s : State) : Host.Outcome State Fault Refusal :=
  vecOp s (.vxor c d a b f) c d 4 (lane2 .int a b (aluXor f))
def execVshl (c : Cm) (d : VDst) (a b : VSrc) (f : IntF) (s : State) : Host.Outcome State Fault Refusal :=
  vecOp s (.vshl c d a b f) c d 4 (lane2 .int a b aluShl)
def execVshr (c : Cm) (d : VDst) (a b : VSrc) (f : IntF) (s : State) : Host.Outcome State Fault Refusal :=
  vecOp s (.vshr c d a b f) c d 4 (lane2 .int a b (aluShr f.ty))
def execVmin (c : Cm) (d : VDst) (a b : VSrc) (f : IntF) (s : State) : Host.Outcome State Fault Refusal :=
  vecOp s (.vmin c d a b f) c d 4 (lane2 .int a b (aluMin f))
def execVmax (c : Cm) (d : VDst) (a b : VSrc) (f : IntF) (s : State) : Host.Outcome State Fault Refusal :=
  vecOp s (.vmax c d a b f) c d 4 (lane2 .int a b (aluMax f))
def execVbfe (c : Cm) (d : VDst) (a b : VSrc) (f : IntF) (s : State) : Host.Outcome State Fault Refusal :=
  vecOp s (.vbfe c d a b f) c d 4 (lane2 .int a b (aluBfe f))
def execVabs (c : Cm) (d : VDst) (a : VSrc) (f : IntF) (s : State) : Host.Outcome State Fault Refusal :=
  vecOp s (.vabs c d a f) c d 4 (lane1 .int a (aluAbs f))
def execVmov (c : Cm) (d : VDst) (a : VSrc) (f : IntF) (s : State) : Host.Outcome State Fault Refusal :=
  vecOp s (.vmov c d a f) c d 4 (lane1 .int a (fun x => x))
def execVbit (c : Cm) (d : VDst) (a : VSrc) (f : IntF) (s : State) : Host.Outcome State Fault Refusal :=
  vecOp s (.vbit c d a f) c d 4 (lane1 .int a (aluBit f))
def execVmad (c : Cm) (d : VDst) (a b e : VSrc) (f : IntF) (s : State) : Host.Outcome State Fault Refusal :=
  vecOp s (.vmad c d a b e f) c d 6 (lane3 .int a b e (aluMad f))
def execVbfi (c : Cm) (d : VDst) (a b e : VSrc) (f : IntF) (s : State) : Host.Outcome State Fault Refusal :=
  vecOp s (.vbfi c d a b e f) c d 4 (lane3 .int a b e aluBfi)
def execVdp4 (c : Cm) (d : VDst) (a b e : VSrc) (f : IntF) (s : State) : Host.Outcome State Fault Refusal :=
  vecOp s (.vdp4 c d a b e f) c d 6 (lane3 .int a b e (aluDp 8 4 f))
def execVdp2 (c : Cm) (d : VDst) (a b e : VSrc) (f : IntF) (s : State) : Host.Outcome State Fault Refusal :=
  vecOp s (.vdp2 c d a b e f) c d 6 (lane3 .int a b e (aluDp 16 2 f))
def execVsad (c : Cm) (d : VDst) (a b e : VSrc) (f : IntF) (s : State) : Host.Outcome State Fault Refusal :=
  vecOp s (.vsad c d a b e f) c d 6 (lane3 .int a b e (aluSad f))
def execVcmp (c : Cm) (a b : VSrc) (f : IntF) (s : State) : Host.Outcome State Fault Refusal :=
  predOp s (.vcmp c a b f) c f.pq 4 (fun s w l =>
    let x := vsrc s w .int a 0 l
    let y := vsrc s w .int b 0 l
    (cond f.var (rdTy f.ty x.v) (rdTy f.ty y.v), x.psn || y.psn))
/-- vsel: the sources read are the selector and the selected operand (R113). -/
def execVsel (c : Cm) (d : VDst) (a b : VSrc) (f : IntF) (s : State) : Host.Outcome State Fault Refusal :=
  vecOp s (.vsel c d a b f) c d 4 (fun s w l =>
    let q := readP s w f.pq l
    let x := vsrc s w .int (if q.1 then a else b) 0 l
    ⟨x.v, x.psn || q.2⟩)
/-- The carry in of a lane (R108): `.start` ignores the old carry. -/
def carryIn (s : State) (w : Wave) (f : IntF) (l : Nat) : Bool × Bool := if f.var = 1 then (false, false) else readP s w f.pq l
/-- vaddc and vsubb write the result and the carry together (R108). -/
def carryOp (s : State) (i : Instr) (c : Cm) (d : VDst) (a b : VSrc) (f : IntF) (g : W32 → W32 → Bool → W32 × Bool) :
    Host.Outcome State Fault Refusal :=
  issue1 s i c (fun s is =>
    let r := fun l =>
      let x := vsrc s is.w .int a 0 l
      let y := vsrc s is.w .int b 0 l
      let k := carryIn s is.w f l
      (g x.v y.v k.1, x.psn || y.psn || k.2)
    let t := writeV s is.u.w (effV s is.w d) is.e (fun l => ⟨(r l).1.1, (r l).2⟩) 4
    writeP t is.u.w f.pq is.e (fun l => ((r l).1.2, (r l).2)) 4)
def execVaddc (c : Cm) (d : VDst) (a b : VSrc) (f : IntF) (s : State) : Host.Outcome State Fault Refusal :=
  carryOp s (.vaddc c d a b f) c d a b f (fun x y k => (x + y + (if k then 1 else 0), carryOut x y k))
def execVsubb (c : Cm) (d : VDst) (a b : VSrc) (f : IntF) (s : State) : Host.Outcome State Fault Refusal :=
  carryOp s (.vsubb c d a b f) c d a b f (fun x y k => (x - y - (if k then 1 else 0), borrowOut x y k))

/-! ### Immediate forms (R111, R112) -/

def execVaddi (c : Cm) (d a : VReg) (imm : W32) (f : ArithI) (s : State) : Host.Outcome State Fault Refusal :=
  vecOp s (.vaddi c d a imm f) c (.reg d) 4 (lane1 .int (.reg a) (fun x => aluAdd (immF f) x imm))
def execVandi (c : Cm) (d a : VReg) (imm : W32) (s : State) : Host.Outcome State Fault Refusal :=
  vecOp s (.vandi c d a imm) c (.reg d) 4 (lane1 .int (.reg a) (fun x => x &&& imm))
def execVori (c : Cm) (d a : VReg) (imm : W32) (s : State) : Host.Outcome State Fault Refusal :=
  vecOp s (.vori c d a imm) c (.reg d) 4 (lane1 .int (.reg a) (fun x => x ||| imm))
def execVxori (c : Cm) (d a : VReg) (imm : W32) (s : State) : Host.Outcome State Fault Refusal :=
  vecOp s (.vxori c d a imm) c (.reg d) 4 (lane1 .int (.reg a) (fun x => x ^^^ imm))
def execVshli (c : Cm) (d a : VReg) (imm : W32) (s : State) : Host.Outcome State Fault Refusal :=
  vecOp s (.vshli c d a imm) c (.reg d) 4 (lane1 .int (.reg a) (fun x => aluShl x imm))
def execVshri (c : Cm) (d a : VReg) (imm : W32) (f : Bool) (s : State) : Host.Outcome State Fault Refusal :=
  vecOp s (.vshri c d a imm f) c (.reg d) 4 (lane1 .int (.reg a) (fun x => aluShr (if f then .s else .b) x imm))
def execVmuli (c : Cm) (d a : VReg) (imm : W32) (f : ArithI) (s : State) : Host.Outcome State Fault Refusal :=
  vecOp s (.vmuli c d a imm f) c (.reg d) 6 (lane1 .int (.reg a) (fun x => aluMul (immF f) x imm))
def execVcmpi (c : Cm) (d : PReg) (a : VReg) (imm : W32) (f : CmpI) (s : State) : Host.Outcome State Fault Refusal :=
  predOp s (.vcmpi c d a imm f) c d 4 (fun s w l =>
    let x := readV s w a.toNat l
    (condI f x.v imm, x.psn))
def execVli (c : Cm) (d : VReg) (imm : W32) (s : State) : Host.Outcome State Fault Refusal :=
  vecOp s (.vli c d imm) c (.reg d) 4 (fun _ _ _ => ⟨imm, false⟩)

end Sys2Proof.Machine
end

