-- ==== Sys2Proof/Machine/Float.lean ====
section
/-! DEFINITION. The meanings of the floating-point, packed and conversion instructions 0x60 to 0x79 (chapter 05). -/

namespace Sys2Proof.Machine

def execFadd (c : Cm) (d : VDst) (a b : VSrc) (f : FpF) (s : State) : Host.Outcome State Fault Refusal :=
  vecOp s (.fadd c d a b f) c d 4 (lane2 .f32 a b (fpAdd f))
def execFsub (c : Cm) (d : VDst) (a b : VSrc) (f : FpF) (s : State) : Host.Outcome State Fault Refusal :=
  vecOp s (.fsub c d a b f) c d 4 (lane2 .f32 a b (fpSub f))
def execFmul (c : Cm) (d : VDst) (a b : VSrc) (f : FpF) (s : State) : Host.Outcome State Fault Refusal :=
  vecOp s (.fmul c d a b f) c d 4 (lane2 .f32 a b (fpMul f))
def execFmin (c : Cm) (d : VDst) (a b : VSrc) (f : FpF) (s : State) : Host.Outcome State Fault Refusal :=
  vecOp s (.fmin c d a b f) c d 4 (lane2 .f32 a b fpMin)
def execFmax (c : Cm) (d : VDst) (a b : VSrc) (f : FpF) (s : State) : Host.Outcome State Fault Refusal :=
  vecOp s (.fmax c d a b f) c d 4 (lane2 .f32 a b fpMax)
def execFfma (c : Cm) (d : VDst) (a b e : VSrc) (f : FpF) (s : State) : Host.Outcome State Fault Refusal :=
  vecOp s (.ffma c d a b e f) c d 4 (lane3 .f32 a b e (fpFma f))
def execFrnd (c : Cm) (d : VDst) (a : VSrc) (f : FpF) (s : State) : Host.Outcome State Fault Refusal :=
  vecOp s (.frnd c d a f) c d 4 (lane1 .f32 a (fpRnd f))
def execFrcp (c : Cm) (d : VDst) (a : VSrc) (f : FpF) (s : State) : Host.Outcome State Fault Refusal :=
  vecOp s (.frcp c d a f) c d 8 (lane1 .f32 a fpRcp)
def execFrsq (c : Cm) (d : VDst) (a : VSrc) (f : FpF) (s : State) : Host.Outcome State Fault Refusal :=
  vecOp s (.frsq c d a f) c d 8 (lane1 .f32 a fpRsq)
def execFex2 (c : Cm) (d : VDst) (a : VSrc) (f : FpF) (s : State) : Host.Outcome State Fault Refusal :=
  vecOp s (.fex2 c d a f) c d 8 (lane1 .f32 a fpEx2)
def execFlg2 (c : Cm) (d : VDst) (a : VSrc) (f : FpF) (s : State) : Host.Outcome State Fault Refusal :=
  vecOp s (.flg2 c d a f) c d 8 (lane1 .f32 a fpLg2)
def execFcmp (c : Cm) (a b : VSrc) (f : FpF) (s : State) : Host.Outcome State Fault Refusal :=
  predOp s (.fcmp c a b f) c f.pq 4 (fun s w l =>
    let x := vsrc s w .f32 a 0 l
    let y := vsrc s w .f32 b 0 l
    (fpCmp f x.v y.v, x.psn || y.psn))
/-- fcls (R119): B is read as bits. -/
def execFcls (c : Cm) (a b : VSrc) (f : FpF) (s : State) : Host.Outcome State Fault Refusal :=
  predOp s (.fcls c a b f) c f.pq 4 (fun s w l =>
    let x := vsrc s w .f32 a 0 l
    let y := vsrc s w .int b 0 l
    (fpCls x.v y.v, x.psn || y.psn))
/-- fscl: B is a signed integer. -/
def execFscl (c : Cm) (d : VDst) (a b : VSrc) (f : FpF) (s : State) : Host.Outcome State Fault Refusal :=
  vecOp s (.fscl c d a b f) c d 4 (fun s w l =>
    let x := vsrc s w .f32 a 0 l
    let y := vsrc s w .int b 0 l
    ⟨fpScl f x.v y.v, x.psn || y.psn⟩)

/-- fdiv and fsqrt share the slice's divide unit (R136): one stalls until 8 cycles after the previous one. -/
def divUnit (s : State) (i : Instr) (c : Cm) (d : VDst) (lat : Nat) (f : State → Wave → Nat → Val) : Host.Outcome State Fault Refusal :=
  issueOp s i c 1 (fun s is =>
    if is.e = 0 then some s
    else
      let k := s.coreOf is.u.w
      let n := sliceOfSlot is.u.w.slot
      if s.cyc is.u.w.die < (tget SliceSt.fresh k.slices n).divTill then none
      else
        let x := tget SliceSt.fresh k.slices n
        let t := s.setCoreOf is.u.w { k with slices := tset k.slices n { x with divTill := s.cyc is.u.w.die + 8 } }
        some (writeV t is.u.w (effV s is.w d) is.e (f s is.w) lat))
def execFsqrt (c : Cm) (d : VDst) (a : VSrc) (f : FpF) (s : State) : Host.Outcome State Fault Refusal :=
  divUnit s (.fsqrt c d a f) c d 16 (lane1 .f32 a (fpSqrt f))
def execFdiv (c : Cm) (d : VDst) (a b : VSrc) (f : FpF) (s : State) : Host.Outcome State Fault Refusal :=
  divUnit s (.fdiv c d a b f) c d 20 (lane2 .f32 a b (fpDiv f))

/-! ### Packed halves (R121, R122) -/

def pkTy (f : PkF) : OTy := if f.bf then .bf16 else .f16
def execHadd2 (c : Cm) (d : VDst) (a b : VSrc) (f : PkF) (s : State) : Host.Outcome State Fault Refusal :=
  vecOp s (.hadd2 c d a b f) c d 4 (lane2 (pkTy f) a b (hpAdd f))
def execHmul2 (c : Cm) (d : VDst) (a b : VSrc) (f : PkF) (s : State) : Host.Outcome State Fault Refusal :=
  vecOp s (.hmul2 c d a b f) c d 4 (lane2 (pkTy f) a b (hpMul f))
def execHmin2 (c : Cm) (d : VDst) (a b : VSrc) (f : PkF) (s : State) : Host.Outcome State Fault Refusal :=
  vecOp s (.hmin2 c d a b f) c d 4 (lane2 (pkTy f) a b (hpMin f))
def execHmax2 (c : Cm) (d : VDst) (a b : VSrc) (f : PkF) (s : State) : Host.Outcome State Fault Refusal :=
  vecOp s (.hmax2 c d a b f) c d 4 (lane2 (pkTy f) a b (hpMax f))
def execHcmp2 (c : Cm) (d : VDst) (a b : VSrc) (f : PkF) (s : State) : Host.Outcome State Fault Refusal :=
  vecOp s (.hcmp2 c d a b f) c d 4 (lane2 (pkTy f) a b (hpCmp f))
def execHfma2 (c : Cm) (d : VDst) (a b e : VSrc) (f : PkF) (s : State) : Host.Outcome State Fault Refusal :=
  vecOp s (.hfma2 c d a b e f) c d 4 (lane3 (pkTy f) a b e (hpFma f))
/-- hdot2: A and B are packed halves, C is FP32. -/
def execHdot2 (c : Cm) (d : VDst) (a b e : VSrc) (f : PkF) (s : State) : Host.Outcome State Fault Refusal :=
  vecOp s (.hdot2 c d a b e f) c d 6 (fun s w l =>
    let x := vsrc s w (pkTy f) a 0 l
    let y := vsrc s w (pkTy f) b 0 l
    let z := vsrc s w .f32 e 0 l
    ⟨hpDot f x.v y.v z.v, x.psn || y.psn || z.psn⟩)

/-! ### Conversions (R123 to R128) -/

/-- The type a constant source of cvt is read as. The spec gives no pattern for the 16-bit source types: the packed one for .f16 and .bf16, the
32-bit integer's for .s16 and .n16 (entry 16: the model's choice). -/
def cvtSrcTy : CvtTy → OTy
  | .f32 => .f32
  | .f16 => .f16
  | .bf16 => .bf16
  | _ => .int
def execCvt (c : Cm) (d : VDst) (a : VSrc) (f : CvtF) (s : State) : Host.Outcome State Fault Refusal :=
  vecOp s (.cvt c d a f) c d 4 (lane1 (cvtSrcTy f.st) a (cvtLane f))
/-- The block scale of cvtn with SC over the lanes of E (R90, R127). -/
def cvtnScale (s : State) (w : Wave) (f : CvtnF) (a b : VSrc) (e : Mask) : Nat × Int :=
  blockScale f.fmt ((lanes e).flatMap (fun l => [fp32.dec (vsrc s w .f32 a 0 l).v.toNat, fp32.dec (vsrc s w .f32 b 0 l).v.toNat]))
/-- cvtn (R125 to R127): without SC each lane on its own, a dropped NaN setting NANDROP; with SC one block across E, and the scale
written to C; where C names D the scale is the value written. That NANDROP is set in the step of issue is the model's choice (R82; entry 76). -/
def execCvtn (c : Cm) (d : VDst) (a b : VSrc) (sc : Option VDst) (f : CvtnF) (s : State) : Host.Outcome State Fault Refusal :=
  issue1 s (.cvtn c d a b sc f) c (fun s is =>
    let n := effV s is.w d
    let x := fun l => vsrc s is.w .f32 a 0 l
    let y := fun l => vsrc s is.w .f32 b 0 l
    let o := fun l => readV s is.w n l
    match sc with
    | none =>
      let drop := (lanes is.e).any (fun l => (cvtnLane f (o l).v (x l).v (y l).v).2)
      let t := writeV s is.u.w n is.e (fun l => ⟨(cvtnLane f (o l).v (x l).v (y l).v).1, (x l).psn || (y l).psn || (o l).psn⟩) 6
      if drop then t.updWave is.u.w (fun w => { w with nandrop := true }) else t
    | some q =>
      let k := cvtnScale s is.w f a b is.e
      let psn := (lanes is.e).any (fun l => (x l).psn || (y l).psn)
      let m := effV s is.w q
      let t := if m = n then s else writeV s is.u.w n is.e (fun l => ⟨cvtnScLane f k (o l).v (x l).v (y l).v, psn || (o l).psn⟩) 10
      writeV t is.u.w m is.e (fun _ => ⟨BitVec.ofNat 32 k.1, psn⟩) 10)
/-- pack (R128); VAR 2 reads bits. -/
def execPack (c : Cm) (d : VDst) (a b : VSrc) (f : PackF) (s : State) : Host.Outcome State Fault Refusal :=
  vecOp s (.pack c d a b f) c d 4 (lane2 (if f.var = 2 then .int else .f32) a b (packLane f))

end Sys2Proof.Machine
end

