-- ==== Sys2Proof/Machine/Lane.lean ====
section
/-! DEFINITION. The meanings of the lane-exchange and predicate instructions 0x80 to 0x89 (chapter 05). -/

namespace Sys2Proof.Machine

/-- The source lane of shfl (R130): none outside 0 to 31. -/
def shflSrc (m : Nat) (l : Nat) (n : W32) : Option Nat :=
  let k := n.toNat
  let x := match m with
    | 0 => some k
    | 1 => if k ≤ l then some (l - k) else none
    | 2 => some (l + k)
    | 3 => some (Nat.xor l k)
    | _ => some ((l + k) % 32)
  match x with
  | some v => if v < 32 then some v else none
  | none => none
def execShfl (c : Cm) (d : VDst) (a b e : VSrc) (f : ShflF) (s : State) : Host.Outcome State Fault Refusal :=
  issue1 s (.shfl c d a b e f) c (fun s is =>
    let n := fun l => vsrc s is.w .int b 0 l
    let src := fun l => match shflSrc f.m.toNat l (n l).v with
      | some k => if is.e.getLsbD k then some k else none
      | none => none
    let r := fun l => match src l with
      | some k => vsrc s is.w .int a 0 k
      | none => vsrc s is.w .int e 0 l
    let t := writeV s is.u.w (effV s is.w d) is.e (fun l => ⟨(r l).v, (r l).psn || (n l).psn⟩) 6
    writeP t is.u.w f.pq is.e (fun l => ((src l).isSome, (n l).psn)) 6)

/-- The operand type of vred and vscan. -/
def redTy (f : RedF) : OTy := if f.ty = .f then .f32 else .int
/-- Values of the tree with poison: lanes outside E contribute the identity (R96). -/
def redVals (s : State) (is : Issue) (f : RedF) (a : VSrc) : List Val :=
  perLane (fun l => if is.e.getLsbD l then vsrc s is.w (redTy f) a 0 l else ⟨redId f, false⟩)
def redStep (f : RedF) (x y : Val) : Val := ⟨redOp f x.v y.v, x.psn || y.psn⟩
/-- A result of a scan: a lane whose value went through no step is canonical too where it is NaN (R71, R98). -/
def redOut (f : RedF) (x : Val) : Val := if f.ty = .f ∧ (fp32.dec x.v.toNat).isNan then { x with v := BitVec.ofNat 32 fp32.nan } else x
/-- vred (R132, R135): one result in every lane of E, poisoned if any lane of E supplied a poisoned value. -/
def execVred (c : Cm) (d : VDst) (a : VSrc) (f : RedF) (s : State) : Host.Outcome State Fault Refusal :=
  issue1 s (.vred c d a f) c (fun s is =>
    let r := (treeRed (redStep f) 5 (redVals s is f a)).headD ⟨redId f, false⟩
    writeV s is.u.w (effV s is.w d) is.e (fun _ => r) 14)
/-- vscan (R97, R132): the exclusive form takes the lane below, lane 0 the identity. -/
def execVscan (c : Cm) (d : VDst) (a : VSrc) (f : RedF) (s : State) : Host.Outcome State Fault Refusal :=
  issue1 s (.vscan c d a f) c (fun s is =>
    let r := scanRed (redStep f) ⟨redId f, false⟩ (redVals s is f a)
    let g := fun l => redOut f (if f.excl then (if l = 0 then ⟨redId f, false⟩ else lget Val.zero r (l - 1)) else lget Val.zero r l)
    writeV s is.u.w (effV s is.w d) is.e g 14)

/-! ### Predicates (R129) -/

def pred2 (a b : PReg) (inv : Bool) (g : Bool → Bool → Bool) (s : State) (w : Wave) (l : Nat) : Bool × Bool :=
  let x := readP s w a l
  let y := readP s w b l
  (g x.1 (xor y.1 inv), x.2 || y.2)
def execPand (c : Cm) (d a b : PReg) (f : NotF) (s : State) : Host.Outcome State Fault Refusal :=
  predOp s (.pand c d a b f) c d 2 (pred2 a b f.inv (fun x y => x && y))
def execPor (c : Cm) (d a b : PReg) (f : NotF) (s : State) : Host.Outcome State Fault Refusal :=
  predOp s (.por c d a b f) c d 2 (pred2 a b f.inv (fun x y => x || y))
def execPxor (c : Cm) (d a b : PReg) (f : NotF) (s : State) : Host.Outcome State Fault Refusal :=
  predOp s (.pxor c d a b f) c d 2 (pred2 a b f.inv xor)
def execPnot (c : Cm) (d a : PReg) (s : State) : Host.Outcome State Fault Refusal :=
  predOp s (.pnot c d a) c d 2 (fun s w l => let x := readP s w a l
                                             (!x.1, x.2))
/-- pmov in its four forms (Table 5.9). -/
def execPmov (c : Cm) (k : PmovK) (s : State) : Host.Outcome State Fault Refusal :=
  issue1 s (.pmov c k) c (fun s is =>
    match k with
    | .p d a => writeP s is.u.w d is.e (readP s is.w a) 2
    | .set d a => writeP s is.u.w d is.e (fun l => let x := vsrc s is.w .int a 0 l
                                                   (x.v.getLsbD l, x.psn)) 2
    | .nz d a => writeP s is.u.w d is.e (fun l => let x := vsrc s is.w .int a 0 l
                                                  (x.v != 0, x.psn)) 2
    | .v d a => writeV s is.u.w (effV s is.w d) is.e (fun l => let x := readP s is.w a l
                                                               ⟨if x.1 then 1 else 0, x.2⟩) 2)

/-! ### Moves between lanes and scalars (R133, R134) -/

/-- v2s: `.first` where B is absent; a lane outside E gives 0. -/
def execV2s (c : Cm) (d : SReg) (a : VSrc) (b : Option SSrc) (s : State) : Host.Outcome State Fault Refusal :=
  issueS s (.v2s c d a b) c (fun s is =>
    let n := match b with
      | some x => ssrc s is.w x
      | none => ⟨BitVec.ofNat 32 ((lanes is.e).headD 0), false⟩
    let inE := decide (n.v.toNat < 32) && is.e.getLsbD n.v.toNat
    let r := if inE then vsrc s is.w .int a 0 n.v.toNat else Val.zero
    writeS s is.u.w d.toNat ⟨r.v, r.psn || n.psn⟩ 6)
/-- vins: one lane of D, if the lane is in E; a poisoned selector poisons it (R135). -/
def execVins (c : Cm) (d : VDst) (a : VSrc) (b : SSrc) (s : State) : Host.Outcome State Fault Refusal :=
  issue1 s (.vins c d a b) c (fun s is =>
    let n := ssrc s is.w b
    let k := n.v.toNat
    if decide (k < 32) && is.e.getLsbD k then
      let x := vsrc s is.w .int a 0 k
      writeV s is.u.w (effV s is.w d) (maskOf (fun l => l == k)) (fun _ => ⟨x.v, x.psn || n.psn⟩) 4
    else s)

end Sys2Proof.Machine
end

