-- ==== Sys2Proof/Machine/Links.lean ====
section
/-! DEFINITION. UCIe links (R357 to R362), Ethernet ports (R363) and RoCEv2 memory operations (R364, R365). -/

namespace Sys2Proof.Machine

/-! ### Links -/

/-- The link exists (R357). -/
def linkOk (l : LinkRef) : Bool := isChiplet l.chiplet && (modulesOf l.chiplet).contains l
def linkUp (x : Link) : Bool := x.st == .active || x.st == .stepped
/-- The record of R361. -/
def linkReport (s : State) (l : LinkRef) : State := record s 0 2 0x106 0 0 (l.chiplet * 256 + l.router * 16 + l.mdl) (whoNone s)
/-- Every module of a router is DOWN: the chiplet is fenced, or the package reset (R362). -/
def routerLost (s : State) (n : Nat) : State :=
  if n = 0x30 then packageReset s
  else if isCache n then (if (s.die n).st == .active then fenceForError (retireAtOnce s n) n else s)
  else fenceForError s n
/-- A link reaches DOWN. -/
def linkDown (s : State) (l : LinkRef) : State :=
  let s := linkReport (setLink s l { s.link l with st := .down, busy := false }) l
  if (modulesOf l.chiplet).all (fun m => m.router != l.router || (s.link m).st == .down) then routerLost s l.chiplet else s
/-- One rate down (R358). -/
def stepDown : LinkRate → Option LinkRate
  | .g32 => some .g24
  | .g24 => some .g16
  | .g16 => some .g12
  | .g12 => some .g8
  | .g8 => none
/-- Time between two measurements of an eye: 1 ms (R358). -/
def eyeSpacing : Nat := 1100000
/-- EYE_MEASURE, once every 1 ms: `low` when a lane's predicted width is below 0.08 UI. -/
def execEyeMeasure (l : LinkRef) (low : Bool) (s : State) : Host.Outcome State Fault Refusal :=
  if !linkOk l then .fault (.noSuchUnit l.chiplet)
  else .next (
    if (s.link l).eyeAt.any (fun t => decide (s.now < t + eyeSpacing)) then s
    else
    let s := setLink s l { s.link l with eyeAt := some s.now }
    let x := s.link l
    if !linkUp x || !low then s
    else match stepDown x.rate with
      | some r => setLink s l { x with st := .stepped, rate := r, busy := true }
      | none => linkReport s l)
/-- LINK_RETURN. -/
def execLinkReturn (l : LinkRef) (s : State) : Host.Outcome State Fault Refusal :=
  if !linkOk l then .fault (.noSuchUnit l.chiplet) else .next (setLink s l { s.link l with busy := false })
/-- LANE_FAIL: a free spare of the direction takes over, or the link is DOWN; in TRAINING the fifth lane of a direction is one too many. -/
def execLaneFail (l : LinkRef) (tx : Bool) (s : State) : Host.Outcome State Fault Refusal :=
  if !linkOk l then .fault (.noSuchUnit l.chiplet)
  else .next (
    let x := s.link l
    if !(linkUp x || x.st == .training) then s
    else if (if tx then x.spareTx else x.spareRx) = 0 then linkDown s l
    else
      let y := if tx then { x with spareTx := x.spareTx - 1 } else { x with spareRx := x.spareRx - 1 }
      setLink s l { y with busy := linkUp x })
/-- FLIT_RETRY_EXHAUSTED. -/
def execFlitRetryExhausted (l : LinkRef) (s : State) : Host.Outcome State Fault Refusal :=
  if !linkOk l then .fault (.noSuchUnit l.chiplet) else .next (if linkUp (s.link l) then linkDown s l else s)
/-- A link in TRAINING steps down until it is at a rate, or at 8 GT/s: each step is a change of the record (R358, R360). -/
def stepTo (s : State) (l : LinkRef) (to? : Option LinkRate) : Nat → State
  | 0 => s
  | n + 1 =>
    let x := s.link l
    if to? = some x.rate then s
    else match stepDown x.rate with
      | some r => stepTo (setLink s l { x with rate := r }) l to? n
      | none => s
/-- LINK_TRAIN_DONE: the rate it trained at, or none. -/
def execLinkTrainDone (l : LinkRef) (rate : Option LinkRate) (s : State) : Host.Outcome State Fault Refusal :=
  if !linkOk l then .fault (.noSuchUnit l.chiplet)
  else .next (
    if (s.link l).st != .training then s
    else
      let s := stepTo s l rate 4
      match rate with
      | none => linkDown s l
      | some r => setLink s l { s.link l with st := if r == .g32 then .active else .stepped })

/-! ### Ports -/

/-- ETH_FRAME_RECEIVE (R363): an ACTIVE port passes on a frame with a valid SecTAG of an established secure channel, whose message is an
event of its own, and an EAPOL frame, with which the firmware's MKA may establish a channel (entry 47); it drops every other frame. -/
def execEthFrameReceive (port : Nat) (secure eapol : Bool) (s : State) : Host.Outcome State Fault Refusal :=
  if 2 ≤ port then .fault (.noSuchUnit port)
  else .next (
    let up := tget false s.secured port
    if s.port port != .active then s
    else if eapol then { s with secured := tset s.secured port (pick s port up [true, up]) }
    else if secure && up then { s with frames := tset s.frames port (tget 0 s.frames port + 1) }
    else s)
/-- ETH_PORT_DOWN. -/
def execEthPortDown (port : Nat) (s : State) : Host.Outcome State Fault Refusal :=
  if 2 ≤ port then .fault (.noSuchUnit port) else .next (portDown s port)
/-- ETH_PORT_ACTIVE: training is complete; a port of I/O die 1 needs its die. -/
def execEthPortActive (port : Nat) (s : State) : Host.Outcome State Fault Refusal :=
  if 2 ≤ port then .fault (.noSuchUnit port)
  else .next (
    if port = 1 ∧ (s.die 0x31).st ≠ .active then s
    else
      let s := setPort s port .active
      { s with kerns := s.kerns.map (fun (k : Nat × Kern) => if sendVia s port k.2 then (k.1, { k.2 with sendAt := none }) else k) })

/-! ### RoCEv2 (R364, R365) -/

/-- ROCE_CONNECT_REQUEST: an endpoint without a connection accepts one, with the window of the private data. -/
def execRoceConnectRequest (port qpn psn : Nat) (priv : List Byte) (s : State) : Host.Outcome State Fault Refusal :=
  if 2 ≤ port then .fault (.noSuchUnit port)
  else .next (
    if !framesIn s port 1 then s
    else if (endpointOf s qpn).isNone || (tfind s.conns qpn).isSome then takeFrames s port 1
    else
      let s := takeFrames s port 1
      let f := fun (a n : Nat) => if priv.length < 16 then 0 else leVal ((priv.drop a).take n)
      { s with conns := s.conns ++ [(qpn, ⟨qpn, port, f 0 8, f 8 4, f 12 4, psn % 2 ^ 24, [], []⟩)] })
/-- A failing operation: the reply of Table 18.2 and a record of kind 2. -/
def peerFail (s : State) (qpn asid cause va : Nat) : State :=
  let k := if cause = 0x105 then 1 else if cause = 0x104 ∨ cause = 0x106 then 3 else 2
  reply (record s asid 2 cause 0 0 va (whoNone s)) qpn k []
/-- RDMA_WRITE. -/
def execRdmaWrite (qpn psn : Nat) (va : W64) (data : List Byte) (s : State) : Host.Outcome State Fault Refusal :=
  let n := packets data.length
  .next (match peerOp s qpn psn n with
    | none => s
    | some (q, p) => match devWrite (takeFrames s p n) q.asid va.toNat data with
      | (s, c, a) => if c = 0 then peerDone s qpn n [] else peerFail s qpn q.asid c a)
/-- RDMA_READ. -/
def execRdmaRead (qpn psn : Nat) (va : W64) (n : Nat) (s : State) : Host.Outcome State Fault Refusal :=
  .next (match peerOp s qpn psn 1 with
    | none => s
    | some (q, p) => match devRead (takeFrames s p 1) q.asid va.toNat n with
      | (s, d, c, a) => if c = 0 then peerDone s qpn (packets n) d else peerFail s qpn q.asid c a)
/-- A 64-bit atomic at its home slice, with the checks of R262 in their order: the old value goes back. `f` gives what is written, if anything is: a
compare that fails writes nothing (R267), so that no watch sees it (R248). -/
def peerAtomic (s : State) (qpn psn va : Nat) (f : Nat → Option Nat) : State :=
  match peerOp s qpn psn 1 with
  | none => s
  | some (q, p) =>
    let asid := q.asid
    let s := takeFrames s p 1
    if 2 ^ 56 ≤ va then peerFail s qpn asid 0x102 va
    else if va % 8 ≠ 0 then peerFail s qpn asid 0x105 va
    else match reachLine (arriveAt s asid va) asid va .wr with
      | (s, .bad c) => peerFail s qpn asid c va
      | (s, .ok l) =>
        if l.psn || l.pp then peerFail s qpn asid 0x104 va
        else
          let old := leVal ((l.data.drop (va % 128)).take 8)
          let s := match f old with
            | some x => putLine s asid va l (leBytes 8 x)
            | none => s
          peerDone s qpn 1 (leBytes 8 old)
/-- FETCH_AND_ADD. -/
def execFetchAndAdd (qpn psn : Nat) (va v : W64) (s : State) : Host.Outcome State Fault Refusal :=
  .next (peerAtomic s qpn psn va.toNat (fun x => some ((x + v.toNat) % 2 ^ 64)))
/-- COMPARE_AND_SWAP. -/
def execCompareAndSwap (qpn psn : Nat) (va cmp v : W64) (s : State) : Host.Outcome State Fault Refusal :=
  .next (peerAtomic s qpn psn va.toNat (fun x => if x = cmp.toNat then some v.toNat else none))
/-- An unsupported operation outside a connection, as UD has none: an Invalid Request NAK through the port its frame came in on (R364; entry 47). -/
def strayNak (s : State) (qpn : Nat) : State :=
  match (List.range 2).filter (fun p => framesIn s p 1) with
  | [] => s
  | ps =>
    let p := pick s qpn 0 ps
    { takeFrames s p 1 with naks := (p, qpn) :: s.naks }
/-- INVALID_REQUEST_OP: an operation that the device does not support. -/
def execInvalidRequestOp (qpn : Nat) (s : State) : Host.Outcome State Fault Refusal :=
  .next (match tfind s.conns qpn with
    | some c => if framesIn s c.port 1 then reply (takeFrames s c.port 1) qpn 1 [] else strayNak s qpn
    | none => strayNak s qpn)

end Sys2Proof.Machine
end

