-- ==== Sys2Proof/Machine/Mgmt.lean ====
section
/-! DEFINITION. The management block (R368, Table 19.1) and the requests FENCE, RESET, POWEROFF, ADMIT, TAKEOVER, RETIRE, GETKEY and
READMIT (R369 to R375, R380, R392). -/

namespace Sys2Proof.Machine

/-- The checks of R368: RESULT 2. -/
def reqBad (s : State) (d : List Byte) : Bool :=
  let w := recWord d 1
  let cmd := bits w 56 8
  let target := bits w 48 8
  let lid := bits w 40 8
  let a0 := recWord d 2
  let a1 := recWord d 3
  bits w 0 32 != (s.doneSeq + 1) % 2 ^ 32 || cmd == 0 || decide (8 < cmd)
    || (if cmd ≤ 4 then !(decide (target < 16) || isCache target || target == 0x31)
        else if cmd = 5 then !(target == 16 || target == 17) else target != 0)
    || (if cmd = 5 then decide (15 < lid) else lid != 0)
    || bits w 32 8 != 0
    || (if cmd = 6 ∨ cmd = 8 then decide (511 < a0) else if cmd = 7 then false else a0 != 0)
    || (cmd != 6 && a1 != 0)
    || (List.range 4).any (fun i => recWord d (4 + i) != 0)
/-- The Xeino root takes a request: the block as read, REQSEQ. A request that fails the checks of R368 completes with RESULT 2;
a block that cannot be read stays to be taken (entry 38). -/
def takeReq (s : State) (mine : Nat → Bool) (run : State → List Byte → Nat → State) : State :=
  if !s.mgmtPend || s.mgmtBusy.isSome then s
  else match devRead s 0 Config.mgmtVa 64 with
    | (t, d, c, _) =>
      let w := recWord d 1
      if c ≠ 0 then t
      else if !mine (bits w 56 8) then s
      else
        let t := { t with mgmtPend := false }
        if reqBad t d then finishReq t (bits w 56 8) (bits w 0 32) 2 else run t d (bits w 0 32)
/-- The chiplet a request names: a compute die by its logical id. -/
def targetOf (s : State) (d : List Byte) : Nat :=
  let t := bits (recWord d 1) 48 8
  if t < 16 then (s.holder t).getD t else t
/-- The request stays in progress until its unit gets there. -/
def busyReq (s : State) (cmd unit seq : Nat) : State := { s with mgmtBusy := some (cmd, unit, seq) }

/-- FENCE may be done (R369, R371). -/
def fenceOk (s : State) (n : Nat) : Bool :=
  (s.die n).st == .active && (!isCache n || allRetired s n) && !(n == 0x31 && (s.schedMirror || s.arbMirror))
def execFence (s : State) : Host.Outcome State Fault Refusal :=
  .next (takeReq s (fun c => c == 1 || c == 0 || decide (8 < c)) (fun s d seq =>
    let n := targetOf s d
    if fenceOk s n then enterFencing (busyReq s 1 n seq) n false else finishReq s 1 seq 1))
/-- The die is QUIESCED, and was when the request was submitted: one submitted before the die's FENCE completes is refused (R397; entry 55). -/
def quiescedFor (s : State) (n : Nat) : Bool := (s.die n).st == .quiesced && s.mgmtEarly != some n
def execReset (s : State) : Host.Outcome State Fault Refusal :=
  .next (takeReq s (· == 2) (fun s d seq =>
    let n := targetOf s d
    if quiescedFor s n then (busyReq (clearDie s n) 2 n seq).setDie n { s.die n with st := .reset } else finishReq s 2 seq 1))
def execPoweroff (s : State) : Host.Outcome State Fault Refusal :=
  .next (takeReq s (· == 3) (fun s d seq =>
    let n := targetOf s d
    if quiescedFor s n then
      let s := if isCache n then (channelsOf n).foldl flushChan s else s
      finishReq (s.setDie n { (s.die n).setMhz s.now 0 with st := .off, grant := 0 }) 3 seq 0
    else finishReq s 3 seq 1))
def execAdmit (s : State) : Host.Outcome State Fault Refusal :=
  .next (takeReq s (· == 4) (fun s d seq =>
    let n := targetOf s d
    if (s.die n).st == .off || (s.die n).st == .failed then toAdmitting (busyReq s 4 n seq) n else finishReq s 4 seq 1))
/-- TAKEOVER (R369): the spare takes LOGID, the old die holds none. -/
def execTakeover (s : State) : Host.Outcome State Fault Refusal :=
  .next (takeReq s (· == 5) (fun s d seq =>
    let n := bits (recWord d 1) 48 8
    let lid := bits (recWord d 1) 40 8
    match s.holder lid with
    | none => finishReq s 5 seq 1
    | some o =>
      if (s.die n).st == .spareOff && ((s.die o).st == .failed || (s.die o).st == .off) then
        let s := s.setDie o { s.die o with lid := none }
        let s := s.setDie n { s.die n with lid := some lid }
        capChange (toAdmitting (busyReq s 5 n seq) n)
      else finishReq s 5 seq 1))
def execRetire (s : State) : Host.Outcome State Fault Refusal :=
  .next (takeReq s (· == 6) (fun s d seq =>
    let c := recWord d 2
    match startRetire s c (recWord d 3) with
    | some t => busyReq t 6 c seq
    | none => finishReq s 6 seq 1))
/-- GETKEY (R380): the 133-byte public key point. -/
def execGetkey (s : State) : Host.Outcome State Fault Refusal :=
  .next (takeReq s (· == 7) (fun s d seq =>
    match devWrite s 0 (recWord d 2) devicePoint with
    | (s, c, va) => if c = 0 then finishReq s 7 seq 0 else finishReq (record s 0 2 c 0 0 va (whoNone s)) 7 seq 2))
def execReadmit (s : State) : Host.Outcome State Fault Refusal :=
  .next (takeReq s (· == 8) (fun s d seq =>
    let c := recWord d 2
    if (s.chan c).st != .retired || (s.die (cacheDieOf c)).st != .active then finishReq s 8 seq 1
    else match readmitChan s c with
      | (s, true) => finishReq s 8 seq 0
      | (s, false) => finishReq s 8 seq 4))

end Sys2Proof.Machine
end

