-- ==== Sys2Proof/Machine/Scalar.lean ====
section
/-! DEFINITION. The meanings of the scalar integer instructions 0x20 to 0x3B (chapter 04). -/

namespace Sys2Proof.Machine

/-- A scalar result: its value and poison, written `lat` cycles after issue (R102, R113, R114). -/
def scalOp (s : State) (i : Instr) (c : Cm) (d : SReg) (lat : Nat) (f : State → Wave → Val) : Host.Outcome State Fault Refusal :=
  issueS s i c (fun s is => writeS s is.u.w d.toNat (f s is.w) lat)
/-- A result of two scalar sources. -/
def scal2 (a b : SSrc) (g : W32 → W32 → W32) (s : State) (w : Wave) : Val :=
  let x := ssrc s w a
  let y := ssrc s w b
  ⟨g x.v y.v, x.psn || y.psn⟩
def scal1 (a : SSrc) (g : W32 → W32) (s : State) (w : Wave) : Val :=
  let x := ssrc s w a
  ⟨g x.v, x.psn⟩
def scal3 (a b e : SSrc) (g : W32 → W32 → W32 → W32) (s : State) (w : Wave) : Val :=
  let x := ssrc s w a
  let y := ssrc s w b
  let z := ssrc s w e
  ⟨g x.v y.v z.v, x.psn || y.psn || z.psn⟩
/-- A 64-bit result written to a pair, both halves with one poison (R110, R113). -/
def pairOp (s : State) (i : Instr) (c : Cm) (d : SReg) (lat : Nat) (f : State → Wave → W64 × Bool) : Host.Outcome State Fault Refusal :=
  issueS s i c (fun s is =>
    let x := f s is.w
    let s := writeS s is.u.w d.toNat ⟨x.1.extractLsb' 0 32, x.2⟩ lat
    writeS s is.u.w (d.toNat + 1) ⟨x.1.extractLsb' 32 32, x.2⟩ lat)
/-- A scalar condition written to a predicate in every lane of E (R105). -/
def scalCmp (s : State) (i : Instr) (c : Cm) (q : PReg) (f : State → Wave → Bool × Bool) : Host.Outcome State Fault Refusal :=
  issueS s i c (fun s is =>
    let x := f s is.w
    writeP s is.u.w q is.e (fun _ => x) 2)

def execSadd (c : Cm) (d : SReg) (a b : SSrc) (f : IntF) (s : State) : Host.Outcome State Fault Refusal :=
  scalOp s (.sadd c d a b f) c d 2 (scal2 a b (aluAdd f))
def execSsub (c : Cm) (d : SReg) (a b : SSrc) (f : IntF) (s : State) : Host.Outcome State Fault Refusal :=
  scalOp s (.ssub c d a b f) c d 2 (scal2 a b (aluSub f))
def execSmul (c : Cm) (d : SReg) (a b : SSrc) (f : IntF) (s : State) : Host.Outcome State Fault Refusal :=
  scalOp s (.smul c d a b f) c d 3 (scal2 a b (aluMul f))
def execSand (c : Cm) (d : SReg) (a b : SSrc) (f : IntF) (s : State) : Host.Outcome State Fault Refusal :=
  scalOp s (.sand c d a b f) c d 2 (scal2 a b (aluAnd f))
def execSor (c : Cm) (d : SReg) (a b : SSrc) (f : IntF) (s : State) : Host.Outcome State Fault Refusal :=
  scalOp s (.sor c d a b f) c d 2 (scal2 a b (aluOr f))
def execSxor (c : Cm) (d : SReg) (a b : SSrc) (f : IntF) (s : State) : Host.Outcome State Fault Refusal :=
  scalOp s (.sxor c d a b f) c d 2 (scal2 a b (aluXor f))
def execSshl (c : Cm) (d : SReg) (a b : SSrc) (f : IntF) (s : State) : Host.Outcome State Fault Refusal :=
  scalOp s (.sshl c d a b f) c d 2 (scal2 a b aluShl)
def execSshr (c : Cm) (d : SReg) (a b : SSrc) (f : IntF) (s : State) : Host.Outcome State Fault Refusal :=
  scalOp s (.sshr c d a b f) c d 2 (scal2 a b (aluShr f.ty))
def execSmin (c : Cm) (d : SReg) (a b : SSrc) (f : IntF) (s : State) : Host.Outcome State Fault Refusal :=
  scalOp s (.smin c d a b f) c d 2 (scal2 a b (aluMin f))
def execSmax (c : Cm) (d : SReg) (a b : SSrc) (f : IntF) (s : State) : Host.Outcome State Fault Refusal :=
  scalOp s (.smax c d a b f) c d 2 (scal2 a b (aluMax f))
def execSmad (c : Cm) (d : SReg) (a b e : SSrc) (f : IntF) (s : State) : Host.Outcome State Fault Refusal :=
  scalOp s (.smad c d a b e f) c d 3 (scal3 a b e (aluMad f))
/-- ssel (Table 4.3): every source read counts for poison (R113). -/
def execSsel (c : Cm) (d : SReg) (a b e : SSrc) (f : IntF) (s : State) : Host.Outcome State Fault Refusal :=
  scalOp s (.ssel c d a b e f) c d 2 (scal3 a b e (fun x y z => if z ≠ 0 then x else y))
def execSmov (c : Cm) (d : SReg) (a : SSrc) (f : IntF) (s : State) : Host.Outcome State Fault Refusal :=
  scalOp s (.smov c d a f) c d 2 (scal1 a (fun x => x))
def execSbit (c : Cm) (d : SReg) (a : SSrc) (f : IntF) (s : State) : Host.Outcome State Fault Refusal :=
  scalOp s (.sbit c d a f) c d 2 (scal1 a (aluBit f))
/-- scmp (R105). -/
def execScmp (c : Cm) (a b : SSrc) (f : IntF) (s : State) : Host.Outcome State Fault Refusal :=
  scalCmp s (.scmp c a b f) c f.pq (fun s w =>
    let x := ssrc s w a
    let y := ssrc s w b
    (cond f.var (rdTy f.ty x.v) (rdTy f.ty y.v), x.psn || y.psn))
/-- sdiv (R106); it stalls while an earlier sdiv of the wave is unfinished (R114). -/
def execSdiv (c : Cm) (d : SReg) (a b : SSrc) (f : IntF) (s : State) : Host.Outcome State Fault Refusal :=
  issueOp s (.sdiv c d a b f) c 1 (fun s is =>
    if is.e = 0 then some s
    else if s.cyc is.u.w.die < is.w.sdivTill then none
    else
      let s := writeS s is.u.w d.toNat (scal2 a b (aluDiv f) s is.w) 36
      some (s.updWave is.u.w (fun w => { w with sdivTill := s.cyc is.u.w.die + 36 })))

/-! ### Immediate forms (R111, R112) -/

/-- sli (R112). -/
def execSli (c : Cm) (d : SReg) (imm : W32) (s : State) : Host.Outcome State Fault Refusal :=
  scalOp s (.sli c d imm) c d 2 (fun _ _ => ⟨imm, false⟩)
def execSaddi (c : Cm) (d a : SReg) (imm : W32) (f : ArithI) (s : State) : Host.Outcome State Fault Refusal :=
  scalOp s (.saddi c d a imm f) c d 2 (scal1 (.reg a) (fun x => aluAdd (immF f) x imm))
def execSandi (c : Cm) (d a : SReg) (imm : W32) (s : State) : Host.Outcome State Fault Refusal :=
  scalOp s (.sandi c d a imm) c d 2 (scal1 (.reg a) (fun x => x &&& imm))
def execSori (c : Cm) (d a : SReg) (imm : W32) (s : State) : Host.Outcome State Fault Refusal :=
  scalOp s (.sori c d a imm) c d 2 (scal1 (.reg a) (fun x => x ||| imm))
def execSxori (c : Cm) (d a : SReg) (imm : W32) (s : State) : Host.Outcome State Fault Refusal :=
  scalOp s (.sxori c d a imm) c d 2 (scal1 (.reg a) (fun x => x ^^^ imm))
def execSshli (c : Cm) (d a : SReg) (imm : W32) (s : State) : Host.Outcome State Fault Refusal :=
  scalOp s (.sshli c d a imm) c d 2 (scal1 (.reg a) (fun x => aluShl x imm))
def execSshri (c : Cm) (d a : SReg) (imm : W32) (f : Bool) (s : State) : Host.Outcome State Fault Refusal :=
  scalOp s (.sshri c d a imm f) c d 2 (scal1 (.reg a) (fun x => aluShr (if f then .s else .b) x imm))
def execSmuli (c : Cm) (d a : SReg) (imm : W32) (f : ArithI) (s : State) : Host.Outcome State Fault Refusal :=
  scalOp s (.smuli c d a imm f) c d 3 (scal1 (.reg a) (fun x => aluMul (immF f) x imm))
def execScmpi (c : Cm) (d : PReg) (a : SReg) (imm : W32) (f : CmpI) (s : State) : Host.Outcome State Fault Refusal :=
  scalCmp s (.scmpi c d a imm f) c d (fun s w =>
    let x := readS s w a.toNat
    (condI f x.v imm, x.psn))

/-! ### 64-bit forms (R110) -/

def execSadd64 (c : Cm) (d : SReg) (a b : SPair) (f : IntF) (s : State) : Host.Outcome State Fault Refusal :=
  pairOp s (.sadd64 c d a b f) c d 3 (fun s w =>
    let x := spair s w a
    let y := spair s w b
    (x.1 + y.1, x.2 || y.2))
def execSsub64 (c : Cm) (d : SReg) (a b : SPair) (f : IntF) (s : State) : Host.Outcome State Fault Refusal :=
  pairOp s (.ssub64 c d a b f) c d 3 (fun s w =>
    let x := spair s w a
    let y := spair s w b
    (x.1 - y.1, x.2 || y.2))
def execSla (c : Cm) (d : SReg) (a : SPair) (b : SSrc) (f : IntF) (s : State) : Host.Outcome State Fault Refusal :=
  pairOp s (.sla c d a b f) c d 3 (fun s w =>
    let x := spair s w a
    let y := ssrc s w b
    (aluSla f x.1 y.v, x.2 || y.psn))

end Sys2Proof.Machine
end

