-- ==== Sys2Proof/Machine/Dispatch.lean ====
section
/-! DEFINITION. The meaning of every instruction and event: one arm per constructor. -/

namespace Sys2Proof.Machine

/-- The effect of one instruction or event. -/
def exec (i : Instr) (s : State) : Host.Outcome State Fault Refusal :=
  match i with
  | .nop c => Sys2Proof.Machine.execNop c s
  | .bra c tgt rpc => Sys2Proof.Machine.execBra c tgt rpc s
  | .brm c pairs rpc => Sys2Proof.Machine.execBrm c pairs rpc s
  | .brx c a rpc => Sys2Proof.Machine.execBrx c a rpc s
  | .call c d tgt => Sys2Proof.Machine.execCall c d tgt s
  | .callx c d a => Sys2Proof.Machine.execCallx c d a s
  | .ret c a => Sys2Proof.Machine.execRet c a s
  | .exit c => Sys2Proof.Machine.execExit c s
  | .wsync c => Sys2Proof.Machine.execWsync c s
  | .yield c lve live => Sys2Proof.Machine.execYield c lve live s
  | .sleep c a => Sys2Proof.Machine.execSleep c a s
  | .elect c d => Sys2Proof.Machine.execElect c d s
  | .vote c k a => Sys2Proof.Machine.execVote c k a s
  | .trap c n => Sys2Proof.Machine.execTrap c n s
  | .brk c tag => Sys2Proof.Machine.execBrk c tag s
  | .tret c => Sys2Proof.Machine.execTret c s
  | .splInfo c d sel => Sys2Proof.Machine.execSplInfo c d sel s
  | .fragList c d a st => Sys2Proof.Machine.execFragList c d a st s
  | .fragRead c d a b => Sys2Proof.Machine.execFragRead c d a b s
  | .fragResume c d a => Sys2Proof.Machine.execFragResume c d a s
  | .fragKill c d a => Sys2Proof.Machine.execFragKill c d a s
  | .fragPatch c d a b e => Sys2Proof.Machine.execFragPatch c d a b e s
  | .sread c d sys => Sys2Proof.Machine.execSread c d sys s
  | .swrite c a sys => Sys2Proof.Machine.execSwrite c a sys s
  | .capRd c d a => Sys2Proof.Machine.execCapRd c d a s
  | .vread c d sel => Sys2Proof.Machine.execVread c d sel s
  | .sadd c d a b f => Sys2Proof.Machine.execSadd c d a b f s
  | .ssub c d a b f => Sys2Proof.Machine.execSsub c d a b f s
  | .smul c d a b f => Sys2Proof.Machine.execSmul c d a b f s
  | .smad c d a b e f => Sys2Proof.Machine.execSmad c d a b e f s
  | .sand c d a b f => Sys2Proof.Machine.execSand c d a b f s
  | .sor c d a b f => Sys2Proof.Machine.execSor c d a b f s
  | .sxor c d a b f => Sys2Proof.Machine.execSxor c d a b f s
  | .sshl c d a b f => Sys2Proof.Machine.execSshl c d a b f s
  | .sshr c d a b f => Sys2Proof.Machine.execSshr c d a b f s
  | .smin c d a b f => Sys2Proof.Machine.execSmin c d a b f s
  | .smax c d a b f => Sys2Proof.Machine.execSmax c d a b f s
  | .scmp c a b f => Sys2Proof.Machine.execScmp c a b f s
  | .ssel c d a b e f => Sys2Proof.Machine.execSsel c d a b e f s
  | .smov c d a f => Sys2Proof.Machine.execSmov c d a f s
  | .sbit c d a f => Sys2Proof.Machine.execSbit c d a f s
  | .sdiv c d a b f => Sys2Proof.Machine.execSdiv c d a b f s
  | .sli c d imm => Sys2Proof.Machine.execSli c d imm s
  | .saddi c d a imm f => Sys2Proof.Machine.execSaddi c d a imm f s
  | .sandi c d a imm => Sys2Proof.Machine.execSandi c d a imm s
  | .sori c d a imm => Sys2Proof.Machine.execSori c d a imm s
  | .sxori c d a imm => Sys2Proof.Machine.execSxori c d a imm s
  | .sshli c d a imm => Sys2Proof.Machine.execSshli c d a imm s
  | .sshri c d a imm f => Sys2Proof.Machine.execSshri c d a imm f s
  | .scmpi c d a imm f => Sys2Proof.Machine.execScmpi c d a imm f s
  | .smuli c d a imm f => Sys2Proof.Machine.execSmuli c d a imm f s
  | .sadd64 c d a b f => Sys2Proof.Machine.execSadd64 c d a b f s
  | .ssub64 c d a b f => Sys2Proof.Machine.execSsub64 c d a b f s
  | .sla c d a b f => Sys2Proof.Machine.execSla c d a b f s
  | .vadd c d a b f => Sys2Proof.Machine.execVadd c d a b f s
  | .vsub c d a b f => Sys2Proof.Machine.execVsub c d a b f s
  | .vmul c d a b f => Sys2Proof.Machine.execVmul c d a b f s
  | .vmad c d a b e f => Sys2Proof.Machine.execVmad c d a b e f s
  | .vand c d a b f => Sys2Proof.Machine.execVand c d a b f s
  | .vor c d a b f => Sys2Proof.Machine.execVor c d a b f s
  | .vxor c d a b f => Sys2Proof.Machine.execVxor c d a b f s
  | .vshl c d a b f => Sys2Proof.Machine.execVshl c d a b f s
  | .vshr c d a b f => Sys2Proof.Machine.execVshr c d a b f s
  | .vmin c d a b f => Sys2Proof.Machine.execVmin c d a b f s
  | .vmax c d a b f => Sys2Proof.Machine.execVmax c d a b f s
  | .vabs c d a f => Sys2Proof.Machine.execVabs c d a f s
  | .vcmp c a b f => Sys2Proof.Machine.execVcmp c a b f s
  | .vsel c d a b f => Sys2Proof.Machine.execVsel c d a b f s
  | .vmov c d a f => Sys2Proof.Machine.execVmov c d a f s
  | .vbit c d a f => Sys2Proof.Machine.execVbit c d a f s
  | .vbfe c d a b f => Sys2Proof.Machine.execVbfe c d a b f s
  | .vbfi c d a b e f => Sys2Proof.Machine.execVbfi c d a b e f s
  | .vaddc c d a b f => Sys2Proof.Machine.execVaddc c d a b f s
  | .vsubb c d a b f => Sys2Proof.Machine.execVsubb c d a b f s
  | .vdp4 c d a b e f => Sys2Proof.Machine.execVdp4 c d a b e f s
  | .vdp2 c d a b e f => Sys2Proof.Machine.execVdp2 c d a b e f s
  | .vsad c d a b e f => Sys2Proof.Machine.execVsad c d a b e f s
  | .vaddi c d a imm f => Sys2Proof.Machine.execVaddi c d a imm f s
  | .vandi c d a imm => Sys2Proof.Machine.execVandi c d a imm s
  | .vori c d a imm => Sys2Proof.Machine.execVori c d a imm s
  | .vxori c d a imm => Sys2Proof.Machine.execVxori c d a imm s
  | .vshli c d a imm => Sys2Proof.Machine.execVshli c d a imm s
  | .vshri c d a imm f => Sys2Proof.Machine.execVshri c d a imm f s
  | .vcmpi c d a imm f => Sys2Proof.Machine.execVcmpi c d a imm f s
  | .vmuli c d a imm f => Sys2Proof.Machine.execVmuli c d a imm f s
  | .vli c d imm => Sys2Proof.Machine.execVli c d imm s
  | .fadd c d a b f => Sys2Proof.Machine.execFadd c d a b f s
  | .fsub c d a b f => Sys2Proof.Machine.execFsub c d a b f s
  | .fmul c d a b f => Sys2Proof.Machine.execFmul c d a b f s
  | .ffma c d a b e f => Sys2Proof.Machine.execFfma c d a b e f s
  | .fmin c d a b f => Sys2Proof.Machine.execFmin c d a b f s
  | .fmax c d a b f => Sys2Proof.Machine.execFmax c d a b f s
  | .fcmp c a b f => Sys2Proof.Machine.execFcmp c a b f s
  | .fcls c a b f => Sys2Proof.Machine.execFcls c a b f s
  | .frnd c d a f => Sys2Proof.Machine.execFrnd c d a f s
  | .fsqrt c d a f => Sys2Proof.Machine.execFsqrt c d a f s
  | .fdiv c d a b f => Sys2Proof.Machine.execFdiv c d a b f s
  | .frcp c d a f => Sys2Proof.Machine.execFrcp c d a f s
  | .frsq c d a f => Sys2Proof.Machine.execFrsq c d a f s
  | .fex2 c d a f => Sys2Proof.Machine.execFex2 c d a f s
  | .flg2 c d a f => Sys2Proof.Machine.execFlg2 c d a f s
  | .fscl c d a b f => Sys2Proof.Machine.execFscl c d a b f s
  | .hadd2 c d a b f => Sys2Proof.Machine.execHadd2 c d a b f s
  | .hmul2 c d a b f => Sys2Proof.Machine.execHmul2 c d a b f s
  | .hfma2 c d a b e f => Sys2Proof.Machine.execHfma2 c d a b e f s
  | .hmin2 c d a b f => Sys2Proof.Machine.execHmin2 c d a b f s
  | .hmax2 c d a b f => Sys2Proof.Machine.execHmax2 c d a b f s
  | .hcmp2 c d a b f => Sys2Proof.Machine.execHcmp2 c d a b f s
  | .hdot2 c d a b e f => Sys2Proof.Machine.execHdot2 c d a b e f s
  | .cvt c d a f => Sys2Proof.Machine.execCvt c d a f s
  | .cvtn c d a b sc f => Sys2Proof.Machine.execCvtn c d a b sc f s
  | .pack c d a b f => Sys2Proof.Machine.execPack c d a b f s
  | .shfl c d a b e f => Sys2Proof.Machine.execShfl c d a b e f s
  | .vred c d a f => Sys2Proof.Machine.execVred c d a f s
  | .vscan c d a f => Sys2Proof.Machine.execVscan c d a f s
  | .pand c d a b f => Sys2Proof.Machine.execPand c d a b f s
  | .por c d a b f => Sys2Proof.Machine.execPor c d a b f s
  | .pxor c d a b f => Sys2Proof.Machine.execPxor c d a b f s
  | .pnot c d a => Sys2Proof.Machine.execPnot c d a s
  | .pmov c k => Sys2Proof.Machine.execPmov c k s
  | .v2s c d a b => Sys2Proof.Machine.execV2s c d a b s
  | .vins c d a b => Sys2Proof.Machine.execVins c d a b s
  | .ld c d a f off => Sys2Proof.Machine.execLd c d a f off s
  | .st c d a f off => Sys2Proof.Machine.execSt c d a f off s
  | .lds c d a f off => Sys2Proof.Machine.execLds c d a f off s
  | .sts c d a f off => Sys2Proof.Machine.execSts c d a f off s
  | .ldc c d a f off => Sys2Proof.Machine.execLdc c d a f off s
  | .stc c d a f off => Sys2Proof.Machine.execStc c d a f off s
  | .sld c d a f off => Sys2Proof.Machine.execSld c d a f off s
  | .sst c d a f off => Sys2Proof.Machine.execSst c d a f off s
  | .pf c a sl off => Sys2Proof.Machine.execPf c a sl off s
  | .seal c a off => Sys2Proof.Machine.execSeal c a off s
  | .unseal c a off => Sys2Proof.Machine.execUnseal c a off s
  | .atom c d a f off => Sys2Proof.Machine.execAtom c d a f off s
  | .acas c d a f off => Sys2Proof.Machine.execAcas c d a f off s
  | .red c d a f off => Sys2Proof.Machine.execRed c d a f off s
  | .redb c d a f off => Sys2Proof.Machine.execRedb c d a f off s
  | .satom c d a f off => Sys2Proof.Machine.execSatom c d a f off s
  | .phase c scp cls opn => Sys2Proof.Machine.execPhase c scp cls opn s
  | .wait c pq d a b t cond opn => Sys2Proof.Machine.execWait c pq d a b t cond opn s
  | .lda c d a f off => Sys2Proof.Machine.execLda c d a f off s
  | .barInitLane c a b => Sys2Proof.Machine.execBarInitLane c a b s
  | .barInitByte c a b => Sys2Proof.Machine.execBarInitByte c a b s
  | .barInitChunk c a => Sys2Proof.Machine.execBarInitChunk c a s
  | .barArrLane c d a => Sys2Proof.Machine.execBarArrLane c d a s
  | .barArrByte c a b e => Sys2Proof.Machine.execBarArrByte c a b e s
  | .barWait c a b gl => Sys2Proof.Machine.execBarWait c a b gl s
  | .barSync c a gl => Sys2Proof.Machine.execBarSync c a gl s
  | .barExp c d a b e => Sys2Proof.Machine.execBarExp c d a b e s
  | .barWd c => Sys2Proof.Machine.execBarWd c s
  | .barRd c d a b => Sys2Proof.Machine.execBarRd c d a b s
  | .cmapWait c a b => Sys2Proof.Machine.execCmapWait c a b s
  | .cmapTest c pq a b => Sys2Proof.Machine.execCmapTest c pq a b s
  | .cmapClr c a b => Sys2Proof.Machine.execCmapClr c a b s
  | .cbar c a gl => Sys2Proof.Machine.execCbar c a gl s
  | .cpTile c rec crd spo slot => Sys2Proof.Machine.execCpTile c rec crd spo slot s
  | .cpTileThen c rec crd spo slot => Sys2Proof.Machine.execCpTileThen c rec crd spo slot s
  | .cpTilest c rec crd spo slot => Sys2Proof.Machine.execCpTilest c rec crd spo slot s
  | .cpGat c rec crd spo slot msk => Sys2Proof.Machine.execCpGat c rec crd spo slot msk s
  | .cpSca c rec crd spo slot msk => Sys2Proof.Machine.execCpSca c rec crd spo slot msk s
  | .cpLin c dst src len slot dir => Sys2Proof.Machine.execCpLin c dst src len slot dir s
  | .recFence c a => Sys2Proof.Machine.execRecFence c a s
  | .mx c t fda spa m0 mc tag tc z => Sys2Proof.Machine.execMx c t fda spa m0 mc tag tc z s
  | .mxLdb c m fdb spb tag => Sys2Proof.Machine.execMxLdb c m fdb spb tag s
  | .mxZero c t => Sys2Proof.Machine.execMxZero c t s
  | .mxRd c d t row => Sys2Proof.Machine.execMxRd c d t row s
  | .mxWr c t row a => Sys2Proof.Machine.execMxWr c t row a s
  | .mxSt c t spd str sco cv rnd => Sys2Proof.Machine.execMxSt c t spd str sco cv rnd s
  | .mxBatch c d => Sys2Proof.Machine.execMxBatch c d s
  | .mxWait c n => Sys2Proof.Machine.execMxWait c n s
  | .fdl c n a => Sys2Proof.Machine.execFdl c n a s
  | .mxStat c d sel => Sys2Proof.Machine.execMxStat c d sel s
  | .klaunch c d a => Sys2Proof.Machine.execKlaunch c d a s
  | .rgn c q => Sys2Proof.Machine.execRgn c q s
  | .ckacc c a => Sys2Proof.Machine.execCkacc c a s
  | .ckaccClr c => Sys2Proof.Machine.execCkaccClr c s
  | .chk c a rst => Sys2Proof.Machine.execChk c a rst s
  | .memhintCompute c a => Sys2Proof.Machine.execMemhintCompute c a s
  | .pgInvalPage c d a b => Sys2Proof.Machine.execPgInvalPage c d a b s
  | .pgInvalAsid c d b => Sys2Proof.Machine.execPgInvalAsid c d b s
  | .pgInvalAll c d => Sys2Proof.Machine.execPgInvalAll c d s
  | .psyswCreate c d a b => Sys2Proof.Machine.execPsyswCreate c d a b s
  | .psyswPreempt c d a b => Sys2Proof.Machine.execPsyswPreempt c d a b s
  | .psyswRestore c d a b => Sys2Proof.Machine.execPsyswRestore c d a b s
  | .psyswDestroy c d a b => Sys2Proof.Machine.execPsyswDestroy c d a b s
  | .psyswSetdl c d a b => Sys2Proof.Machine.execPsyswSetdl c d a b s
  | .qctlOpen c d a b => Sys2Proof.Machine.execQctlOpen c d a b s
  | .qctlPause c d a b => Sys2Proof.Machine.execQctlPause c d a b s
  | .qctlResume c d a b => Sys2Proof.Machine.execQctlResume c d a b s
  | .qctlDrain c d a b => Sys2Proof.Machine.execQctlDrain c d a b s
  | .qctlFlush c d a b => Sys2Proof.Machine.execQctlFlush c d a b s
  | .clauseEntry u => Sys2Proof.Machine.execClauseEntry u s
  | .clauseWaitRelease u => Sys2Proof.Machine.execClauseWaitRelease u s
  | .codeFetchFault u => Sys2Proof.Machine.execCodeFetchFault u s
  | .settleRelease u => Sys2Proof.Machine.execSettleRelease u s
  | .variableResultWrite o => Sys2Proof.Machine.execVariableResultWrite o s
  | .accessStatusReturn o => Sys2Proof.Machine.execAccessStatusReturn o s
  | .backoffRetry u => Sys2Proof.Machine.execBackoffRetry u s
  | .handlerEntry w => Sys2Proof.Machine.execHandlerEntry w s
  | .fragmentReplay u => Sys2Proof.Machine.execFragmentReplay u s
  | .exitCloseComplete w => Sys2Proof.Machine.execExitCloseComplete w s
  | .blockRetire b => Sys2Proof.Machine.execBlockRetire b s
  | .kernelSignalPerformed k => Sys2Proof.Machine.execKernelSignalPerformed k s
  | .hostCompletionSend k => Sys2Proof.Machine.execHostCompletionSend k s
  | .hostCompletionAck k => Sys2Proof.Machine.execHostCompletionAck k s
  | .hostSendTimeout k => Sys2Proof.Machine.execHostSendTimeout k s
  | .launchMessage q m poison => Sys2Proof.Machine.execLaunchMessage q m poison s
  | .dependenceWake q d => Sys2Proof.Machine.execDependenceWake q d s
  | .dependencePoll q => Sys2Proof.Machine.execDependencePoll q s
  | .kernelSelect => Sys2Proof.Machine.execKernelSelect s
  | .groupHandout => Sys2Proof.Machine.execGroupHandout s
  | .queueStatusRefresh q => Sys2Proof.Machine.execQueueStatusRefresh q s
  | .queueDrainComplete q => Sys2Proof.Machine.execQueueDrainComplete q s
  | .blockRestSave b => Sys2Proof.Machine.execBlockRestSave b s
  | .preemptDeadlineExpiry asid => Sys2Proof.Machine.execPreemptDeadlineExpiry asid s
  | .contextSaved asid => Sys2Proof.Machine.execContextSaved asid s
  | .contextDrainComplete asid => Sys2Proof.Machine.execContextDrainComplete asid s
  | .barWake u => Sys2Proof.Machine.execBarWake u s
  | .byteCredit m => Sys2Proof.Machine.execByteCredit m s
  | .clusterSignal m => Sys2Proof.Machine.execClusterSignal m s
  | .chunkLand cp n => Sys2Proof.Machine.execChunkLand cp n s
  | .watchWake u => Sys2Proof.Machine.execWatchWake u s
  | .waitTimeout u => Sys2Proof.Machine.execWaitTimeout u s
  | .watchPoll u => Sys2Proof.Machine.execWatchPoll u s
  | .sleepExpiry u => Sys2Proof.Machine.execSleepExpiry u s
  | .homeSliceStore o line => Sys2Proof.Machine.execHomeSliceStore o line s
  | .homeSliceAtomic o line => Sys2Proof.Machine.execHomeSliceAtomic o line s
  | .lineFill o line ecc => Sys2Proof.Machine.execLineFill o line ecc s
  | .closeComplete o => Sys2Proof.Machine.execCloseComplete o s
  | .openBegin o => Sys2Proof.Machine.execOpenBegin o s
  | .unsealComplete o => Sys2Proof.Machine.execUnsealComplete o s
  | .pgInvalComplete o => Sys2Proof.Machine.execPgInvalComplete o s
  | .copyStart cp => Sys2Proof.Machine.execCopyStart cp s
  | .copyAccessReply cp n => Sys2Proof.Machine.execCopyAccessReply cp n s
  | .copyRelease cp => Sys2Proof.Machine.execCopyRelease cp s
  | .copyComplete cp => Sys2Proof.Machine.execCopyComplete cp s
  | .mxStart o => Sys2Proof.Machine.execMxStart o s
  | .mxCommit o => Sys2Proof.Machine.execMxCommit o s
  | .mxLdbStart o => Sys2Proof.Machine.execMxLdbStart o s
  | .mxLdbComplete o => Sys2Proof.Machine.execMxLdbComplete o s
  | .mxStFinish o => Sys2Proof.Machine.execMxStFinish o s
  | .twinCompare o => Sys2Proof.Machine.execTwinCompare o s
  | .eyeMeasure l low => Sys2Proof.Machine.execEyeMeasure l low s
  | .linkReturn l => Sys2Proof.Machine.execLinkReturn l s
  | .laneFail l tx => Sys2Proof.Machine.execLaneFail l tx s
  | .flitRetryExhausted l => Sys2Proof.Machine.execFlitRetryExhausted l s
  | .linkTrainDone l rate => Sys2Proof.Machine.execLinkTrainDone l rate s
  | .ethFrameReceive port secure eapol => Sys2Proof.Machine.execEthFrameReceive port secure eapol s
  | .roceConnectRequest port qpn psn priv => Sys2Proof.Machine.execRoceConnectRequest port qpn psn priv s
  | .rdmaWrite qpn psn va data => Sys2Proof.Machine.execRdmaWrite qpn psn va data s
  | .rdmaRead qpn psn va n => Sys2Proof.Machine.execRdmaRead qpn psn va n s
  | .fetchAndAdd qpn psn va v => Sys2Proof.Machine.execFetchAndAdd qpn psn va v s
  | .compareAndSwap qpn psn va cmp v => Sys2Proof.Machine.execCompareAndSwap qpn psn va cmp v s
  | .invalidRequestOp qpn => Sys2Proof.Machine.execInvalidRequestOp qpn s
  | .fence => Sys2Proof.Machine.execFence s
  | .reset => Sys2Proof.Machine.execReset s
  | .poweroff => Sys2Proof.Machine.execPoweroff s
  | .admitDie => Sys2Proof.Machine.execAdmit s
  | .takeover => Sys2Proof.Machine.execTakeover s
  | .retire => Sys2Proof.Machine.execRetire s
  | .getkey => Sys2Proof.Machine.execGetkey s
  | .readmit => Sys2Proof.Machine.execReadmit s
  | .dieErrorFence die => Sys2Proof.Machine.execDieErrorFence die s
  | .fencingQuiesced ch => Sys2Proof.Machine.execFencingQuiesced ch s
  | .dieAdmitResult ch pass => Sys2Proof.Machine.execDieAdmitResult ch pass s
  | .dieResetComplete ch => Sys2Proof.Machine.execDieResetComplete ch s
  | .cacheDieFault n => Sys2Proof.Machine.execCacheDieFault n s
  | .ioDie1Fault => Sys2Proof.Machine.execIoDie1Fault s
  | .ioDie0UnitFault unit => Sys2Proof.Machine.execIoDie0UnitFault unit s
  | .coldReset => Sys2Proof.Machine.execColdReset s
  | .channelAutoRetire ch => Sys2Proof.Machine.execChannelAutoRetire ch s
  | .pageMove n => Sys2Proof.Machine.execPageMove n s
  | .capsigWrite => Sys2Proof.Machine.execCapsigWrite s
  | .clkmhzRefresh => Sys2Proof.Machine.execClkmhzRefresh s
  | .arbiterGrant demand => Sys2Proof.Machine.execArbiterGrant demand s
  | .clockStep ch draw => Sys2Proof.Machine.execClockStep ch draw s
  | .arbiterTakeover => Sys2Proof.Machine.execArbiterTakeover s
  | .ethPortDown port => Sys2Proof.Machine.execEthPortDown port s
  | .ethPortActive port => Sys2Proof.Machine.execEthPortActive port s
  | .hbmRefresh ch => Sys2Proof.Machine.execHbmRefresh ch s

end Sys2Proof.Machine
end

