-- ==== Sys2Proof/Machine/Moves.lean ====
section
/-! DEFINITION. The moves that can happen in a state, for the free choice among them (entry 2). -/

namespace Sys2Proof.Machine

/-- An L1 line is replaced (R253). -/
def dropL1At (s : State) (d c i : Nat) : State :=
  let x := s.core d c
  s.setCore d c { x with l1 := x.l1.eraseIdx i }

/-- The lines an operation's lanes touch. -/
def linesOf (o : Op) : List Nat := (o.lanes.map (fun l => lineOf l.addr)).eraseDups

/-- Moves of one wave. -/
def waveMoves (x : WaveRef × Wave) : List Move :=
  let r := x.1
  let w := x.2
  let per := (List.range 4).flatMap (fun k =>
    let u : SplitRef := ⟨r, k⟩
    let y := w.split k
    (match y.st with
      | .settle _ => [Move.event (.settleRelease u)]
      | .sleep _ => [Move.event (.sleepExpiry u)]
      | .waitBar _ _ _ _ => [Move.event (.barWake u)]
      | .waitMap _ _ _ => [Move.event (.barWake u)]
      | .waitWatch _ _ _ _ _ _ _ _ _ _ _ _ => [Move.event (.watchWake u), .event (.waitTimeout u), .event (.watchPoll u)]
      | _ => [])
      ++ (match y.hold with
        | .clause => [Move.event (.clauseWaitRelease u)]
        | .backoff _ => [Move.event (.backoffRetry u)]
        | .replay => [Move.event (.fragmentReplay u)]
        | .batch _ => [Move.event (.clauseWaitRelease u)]
        | _ => []))
  [Move.issue r.die r.core (sliceOfSlot r.slot)] ++ (List.range 4).map (fun k => Move.pair r.die r.core (sliceOfSlot r.slot) k) ++ per
    ++ (List.range 4).flatMap (fun k => (List.range 17).map (fun i => Move.codeRead w.kernel ((w.split k).hdr + BitVec.ofNat 56 (8 * i))))
    ++ (if w.trap.isSome then [.event (.handlerEntry r)] else [])
    ++ (if w.exitOp.isSome then [.event (.exitCloseComplete r)] else [])

/-- Moves of one operation. -/
def opMoves (x : Nat × Op) : List Move :=
  let o := x.1
  (linesOf x.2).flatMap (fun ln => match x.2.kind with
    | .load _ _ _ => [Move.event (.lineFill o ln 0)]
    | .lda _ => [.event (.lineFill o ln 0)]
    | .pf _ => [.event (.lineFill o ln 0)]
    | .store _ _ => [.event (.homeSliceStore o ln)]
    | .seal => [.event (.homeSliceStore o ln)]
    | .unseal => [.event (.homeSliceStore o ln)]
    | .atom _ _ _ _ => [.event (.homeSliceAtomic o ln)]
    | _ => [])
    ++ (if x.2.told then [] else (linesOf x.2).map (fun ln => Move.check o ln))
    ++ [.event (.variableResultWrite o), .event (.accessStatusReturn o)]
    ++ (match x.2.kind with
      | .close => [.event (.closeComplete o)]
      | .cmd (.pgInval _ _ _ _) => [.event (.closeComplete o), .event (.pgInvalComplete o)]
      | .cmd _ => [.event (.closeComplete o)]
      | .openDev _ => [.event (.openBegin o)]
      | .unseal => [.event (.unsealComplete o)]
      | _ => [])

def copyMoves (x : Nat × Copy) : List Move :=
  let n := x.1
  [.event (.copyStart n), .event (.copyRelease n), .event (.copyComplete n)]
    ++ (List.range x.2.accs.length).map (fun i => .event (.copyAccessReply n i))
    ++ (List.range x.2.nchunk).map (fun i => .event (.chunkLand n i))
def mxMoves (x : Nat × MxCmd) : List Move :=
  (unitsOf x.2).map (Move.mxUnit x.1) ++
  match x.2.kind with
  | .mx _ _ _ _ _ _ => [.event (.mxStart x.1), .event (.mxCommit x.1)]
  | .ldb _ _ _ _ => [.event (.mxLdbStart x.1), .event (.mxLdbComplete x.1)]
  | .st _ _ _ _ _ _ _ => [.event (.mxStFinish x.1)]
def kernMoves (x : Nat × Kern) : List Move :=
  [.event (.kernelSignalPerformed x.1), .event (.hostCompletionSend x.1), .event (.hostSendTimeout x.1)]
def queueMoves (x : Nat × Queue) : List Move :=
  [.event (.dependencePoll x.1), .event (.queueStatusRefresh x.1), .event (.queueDrainComplete x.1)]
    ++ (List.range 4).map (fun d => .event (.dependenceWake x.1 d))
def ctxMoves (x : Nat × Ctx) : List Move :=
  match x.2.st with
  | .preempting => [.event (.preemptDeadlineExpiry x.1), .event (.contextSaved x.1)]
  | .draining => [.event (.contextDrainComplete x.1)]
  | .saved => if x.2.busy then [.restore x.1] else []
  | _ => []
def msgMoves (x : Nat × Msg) : List Move :=
  match x.2 with
  | .credit _ _ _ _ _ _ => [.event (.byteCredit x.1)]
  | .signal _ _ _ _ _ => [.event (.clusterSignal x.1)]

/-- Moves of the chiplets and of the Xeino root. -/
def dieMoves (s : State) : List Move :=
  s.dies.flatMap (fun x => match x.2.st with
    | .fencing => [Move.quiesced x.1]
    | .reset => [Move.resetDone x.1]
    | _ => [])
    ++ ((List.range 4).filter (fun n => (engineOf s n).isSome)).map Move.migrate
    ++ (if s.mgmtPend then [Move.event .fence, .event .reset, .event .poweroff, .event .admitDie, .event .takeover, .event .retire, .event .getkey, .event .readmit] else [])
    ++ (if s.capPending then [Move.event .capsigWrite] else [])
    ++ (if s.clkAt + 1100000 ≤ s.now then [Move.event .clkmhzRefresh] else [])
    ++ [Move.flaw (Config.choice s.tick 308 % 65803)]

/-- The candidate moves. A move that no longer applies leaves the state as it is (R9); what comes from outside the package comes
only through the agenda. -/
def movesOf (s : State) : List Move :=
  .pass 1 :: s.waves.flatMap waveMoves ++ s.ops.flatMap opMoves ++ s.copies.flatMap copyMoves ++ s.mxs.flatMap mxMoves
    ++ s.twins.map (fun t => .event (.twinCompare t.1)) ++ s.kerns.flatMap kernMoves ++ s.queues.flatMap queueMoves
    ++ s.ctxs.flatMap ctxMoves ++ s.msgs.flatMap msgMoves ++ s.blocks.flatMap (fun b => [.event (.blockRetire b.1), .event (.blockRestSave b.1)])
    ++ (if s.kerns.isEmpty then [] else [.event .kernelSelect, .event .groupHandout])
    ++ s.slines.map (fun l => .evict l.1.1 l.1.2)
    ++ s.cores.flatMap (fun c => (List.range c.2.l1.length).map (fun i => .evictL1 c.1.1 c.1.2 i))
    ++ dieMoves s

/-- The writes that a wave's instruction has put in flight between two states. -/
def newWrites (s t : State) (r : WaveRef) : List Pend :=
  match s.wave r, t.wave r with
  | some w, some v => v.pend.drop w.pend.length
  | _, _ => []
/-- Nothing else has become of the wave's writes in flight, and it has taken no trap. -/
def onlyWrites (s t : State) (r : WaveRef) : Bool :=
  match s.wave r, t.wave r with
  | some w, some v => v.pend.take w.pend.length == w.pend && v.trap == w.trap && v.hmode == w.hmode
  | _, _ => false
/-- The state as the second instruction of a pair meets it, as if it were issued alone in the cycle (R206): without the writes of the first. -/
def hideWrites (s t : State) (r : WaveRef) : State :=
  match s.wave r with
  | some w => t.updWave r (fun v => { v with pend := w.pend })
  | none => t
/-- The writes `a` of the first instruction of a pair are in flight with those that the second has made between q and z. Two that write one register leave
it the value of one of them (R46): a free value says which stands last. -/
def showWrites (a : List Pend) (q z : State) (r : WaveRef) : State :=
  match q.wave r with
  | some w => z.updWave r (fun v =>
      let b := v.pend.drop w.pend.length
      { v with pend := pick z r.slot (w.pend ++ a ++ b) [w.pend ++ a ++ b, w.pend ++ b ++ a] })
  | none => z

end Sys2Proof.Machine
end

