-- ==== Sys2Proof/Machine/Order.lean ====
section
/-! DEFINITION. Events that reach one object in the same cycle (R10): the row of its table that a move takes, read from what it changed, and
the order of rows in which the events of one cycle are taken (R170 for the records of a queue, R335 and R356 for tiles and twins). -/

namespace Sys2Proof.Machine

/-- The rows taken in a list of objects of a table: `f` gives the row from the object before and after, 0 where no event of the table happened. -/
def rowsIn {κ α : Type} [DecidableEq κ] (die : Option Nat) (table : Nat) (name : κ → List Nat) (d : α) (a b : List (κ × α)) (f : α → α → Nat) : List RowAt :=
  (((a.map (·.1) ++ b.map (·.1)).eraseDups).map (fun k => (⟨die, table :: name k, f (tget d a k) (tget d b k)⟩ : RowAt))).filter (fun r => r.row != 0)

/-- Table 6.2. -/
def ctxEventRow (a b : Ctx) : Nat :=
  match a.st, b.st with
  | .free, .building => 1
  | .free, .ready => 2
  | .building, .ready => 2
  | .building, .free => 3
  | .ready, .running => 4
  | .running, .ready => 5
  | .ready, .saved => 6
  | .running, .preempting => 7
  | .preempting, .saved => 8
  | .preempting, .dead => 9
  | .saved, .running => 10
  | .saved, .ready => 10
  | .saved, .dead => 11
  | .running, .draining => 13
  | .ready, .draining => 12
  | .saved, .draining => 12
  | .dead, .draining => 12
  | .draining, .free => 14
  | x, _ => if a.deadline ≠ b.deadline then 15 else if x = .free ∧ a.seqn ≠ b.seqn then 3 else 0
/-- Table 7.2. -/
def queueEventRow (a b : Queue) : Nat :=
  match a.st, b.st with
  | .closed, .opened => 1
  | .closed, .closed => if a.seqn = b.seqn then 0 else 1 + b.result
  | .opened, .paused => 5
  | .paused, .opened => 6
  | .opened, .faulted => 7
  | .paused, .faulted => 7
  | .opened, .draining => 8
  | .paused, .draining => 8
  | .faulted, .draining => 8
  | .faulted, .opened => 9
  | .draining, .closed => 10
  | _, .closed => 12
  | _, _ => if a.seqn ≠ b.seqn ∧ b.lastCmd = 5 then 11 else 0
/-- Table 8.2; the reason of an abort stands in the word. -/
def kernRow (a b : Kern) : Nat :=
  let reason := b.word.toNat / 2 ^ 28 % 8
  match a.st, b.st with
  | .pending, .ready => 1
  | .pending, .aborted => if reason = 1 then 2 else 3
  | .ready, .dispatching => 4
  | .ready, .running => 6
  | .ready, .aborted => if reason = 5 then 5 else 3
  | .dispatching, .running => 6
  | .dispatching, .completing => 7
  | .running, .completing => 7
  | .completing, .done => 11
  | x, .aborted => if x = .aborted then 0 else 6 + reason
  | _, _ => 0
/-- Table 10.2: a split of a wave, with the wave before and after. -/
def splitRow (w v : Wave) (a b : Split) : Nat :=
  match a.st, b.st with
  | .unused, x => if x = .unused ∨ x = .exited then 0 else 1
  | .exited, x => if x = .unused ∨ x = .exited then 0 else 1
  | .waitMerge, .unused => 7
  | .waitMerge, .waitMerge => if a.mask = b.mask then 0 else 5
  | .waitMerge, _ => if a.pc ≠ a.hdr then 0 else if a.mask &&& b.mask = a.mask then 6 else 5
  | .runnable, .settle _ => 2
  | .runnable, .waitMerge => if b.pc = b.hdr then 4 else 8
  | .runnable, .unused => if v.wsm &&& a.mask &&& ~~~w.wsm ≠ 0 then 8 else 16
  | .runnable, .exited => 15
  | .runnable, .waitBar _ _ _ _ => 9
  | .runnable, .waitMap _ _ _ => 9
  | .runnable, .waitWatch _ _ _ _ _ _ _ _ _ _ _ _ => 11
  | .runnable, .sleep _ => 13
  | .runnable, .runnable => 0
  | .settle _, .settle _ => 0
  | .settle _, _ => 3
  | .waitBar _ _ _ _, .waitBar _ _ _ _ => 0
  | .waitBar _ _ _ _, _ => 10
  | .waitMap _ _ _, .waitMap _ _ _ => 0
  | .waitMap _ _ _, _ => 10
  | .waitWatch _ _ _ _ _ _ _ _ _ _ _ _, .waitWatch _ _ _ _ _ _ _ _ _ _ _ _ => 0
  | .waitWatch _ _ _ _ _ _ _ _ _ _ _ _, _ => 12
  | .sleep _, .sleep _ => 0
  | .sleep _, _ => 14
/-- The wave has taken a trap, or entered its handler: the last row of Table 10.2, for every split in use. -/
def trapped (w v : Wave) : Bool := (w.trap.isNone && v.trap.isSome) || (!w.hmode && v.hmode)
/-- Table 10.5; a killed fragment's lanes have exited. -/
def fragRow (t : State) (a b : Frag) : Nat :=
  if a.fstate = b.fstate then 0
  else if b.fstate = 1 then 1
  else if b.fstate = 2 then 3
  else match t.waves.find? (fun w => w.2.uid == a.wuid) with
    | none => 6
    | some w => if a.mask &&& ~~~w.2.exited = 0 then 5 else if a.fstate = 2 then 4 else 2
/-- R244: who changes a slot. Arrivals and credits come by wave slot, then those of copies, then those of peers by rank; withdrawals follow, and
bar.init is last. -/
def barSource (s : State) (m : Move) : Nat :=
  match m with
  | .event (.closeComplete o) => (match s.op o with
    | some x => (match x.kind with
      | .cmd (.fragKill _ _) => 300
      | _ => 1 + x.w.slot)
    | none => 0)
  | .event (.byteCredit n) => (match tfind s.msgs n with
    | some (.credit b _ _ _ _ src) => (match s.waves.find? (fun w => w.2.uid == src) with
      | some w => if w.2.block = b then 1 + w.1.slot else 200 + (groupOf s w.2.block).2.2
      | none => 200)
    | _ => 0)
  | .event (.clusterSignal n) => (match tfind s.msgs n with
    | some (.signal _ _ _ _ src) => 200 + (groupOf s src).2.2
    | _ => 0)
  | .event (.chunkLand _ _) => 100
  | .event (.copyComplete _) => 100
  | _ => 0
/-- Accesses of a copy that have written global memory. -/
def wroteGlobal (c : Copy) : Nat := c.accs.countP (fun a => a.fin && (match a.dst with | .glob _ => true | .spad _ _ _ => false))
/-- Table 15.5. -/
def copyRow (a b : Copy) : Nat :=
  match a.st, b.st with
  | .queued, .active => 2
  | .active, .stalled => 4
  | .stalled, .active => 5
  | x, .done => if x = .done then 0 else if b.fail ≠ 0 then 6 else if b.perChunk then 7 else 8
  | x, .dropped => if x = .dropped then 0 else 11
  | _, _ => if a.told ≠ b.told ∨ wroteGlobal a ≠ wroteGlobal b then 3 else if a.fail ≠ b.fail then 6 else 0
/-- Table 16.3. -/
def macroRow (a b : Macro) : Nat :=
  if a.st = b.st then 0 else if b.st = 1 then 2 else if b.st = 2 then 3 else 4
/-- Table 16.4, with the reads of a tile by an mx.st before its commits of the same cycle (R335): the rows of a command's tile, from the command before
and after; one that is there no more has done what the move names, or is dropped. -/
def mxRows (s : State) (m : Move) (o : Nat) (a : MxCmd) (b : Option MxCmd) : List Nat :=
  match a.kind, b with
  | .ldb _ _ _ _, _ => []
  | .mx _ _ _ _ _ _, some _ => []
  | .mx n _ _ _ _ _, none =>
    let others := s.mxs.any (fun x => x.1 != o && x.2.block == a.block && x.2.bcopy == a.bcopy && (match x.2.kind with | .mx k _ _ _ _ _ => k == n | _ => false))
    if m = .event (.mxCommit o) then [if others then 5 else 6] else [7]
  | .st _ _ _ _ _ _ _, some y => if a.st = .waiting ∧ y.st = .started then [1] else []
  | .st _ _ _ _ _ _ _, none => if m = .event (.mxStFinish o) then (if a.st = .waiting then [1, 10] else [10]) else []
/-- The tile of a command: its block's copy and number. -/
def mxTileName (x : MxCmd) : List Nat := [164, x.block, x.bcopy] ++ (match x.kind with
  | .mx n _ _ _ _ _ => [n]
  | .st n _ _ _ _ _ _ => [n]
  | .ldb _ _ _ _ => [])
/-- Table 18.1. -/
def linkRow (a b : Link) : Nat :=
  match a.st, b.st with
  | .training, .active => 1
  | .training, .stepped => 2
  | .training, .down => 3
  | x, .down => if x = .down then 0 else 7
  | x, .quiesced => if x = .quiesced then 0 else 8
  | .quiesced, .training => 9
  | .down, .training => 9
  | .active, .training => 9
  | .stepped, .training => 9
  | _, _ => if a.rate ≠ b.rate then 4 else if a.spareTx ≠ b.spareTx ∨ a.spareRx ≠ b.spareRx then 6 else 0
/-- Table 19.2. -/
def dieRow (a b : Chiplet) : Nat :=
  match a.st, b.st with
  | .spareOff, .admitting => 1
  | .off, .admitting => 2
  | .failed, .admitting => 2
  | .admitting, .active => 3
  | .admitting, .failed => 4
  | .active, .fencing => 5
  | .fencing, .quiesced => 6
  | .fencing, .failed => 7
  | .quiesced, .reset => 8
  | .reset, .admitting => 9
  | .quiesced, .off => 10
  | _, _ => 0
/-- Pages that a translation cache or a slice knows. -/
def knownPages (s : State) : List (Nat × Nat) :=
  ((s.chans.flatMap (fun c => c.2.tlb.map (fun t => (t.asid, t.vpn)))) ++ s.slines.map (fun e => (e.1.1, vpnOf (e.1.2 * 128)))).eraseDups
/-- Table 14.2: a page by its ASID and VPN. -/
def pageRows (s : State) (m : Move) (t : State) : List RowAt :=
  let at' := fun (p : Nat × Nat) (n : Nat) => (⟨none, [142, p.1, p.2], n⟩ : RowAt)
  let began := (t.chans.filter (fun c => (s.chan c.1).transit.isNone)).filterMap (fun c => c.2.transit.map (fun x => at' (bits x.w0 42 12, bits x.w0 0 42) 6))
  t.chans.flatMap (fun c => (c.2.tlb.filter (fun e => (s.chan c.1).tlb.all (fun d => d.asid != e.asid || d.vpn != e.vpn))).map (fun e =>
    at' (e.asid, e.vpn) (if e.w0.getLsbD 60 then 2 else 1)))
  ++ s.ops.flatMap (fun (x : Nat × Op) =>
      let n := match x.2.kind with | .seal => 3 | .unseal => 4 | _ => 0
      match t.op x.1 with
      | some y => if n = 0 then [] else ((y.lanes.filter (fun l => l.fin && !x.2.lanes.contains l)).map (fun l => (y.asid, vpnOf l.addr))).eraseDups.map (fun p => at' p n)
      | none => [])
  ++ (match m with
    | .event (.closeComplete o) => (match (s.op o).map Op.kind with
      | some (.cmd (.pgInval _ _ _ _)) => ((knownPages s).filter (fun p => !(knownPages t).contains p)).map (fun p => at' p 5)
      | _ => [])
    | .migrate _ => began
    | .event (.pageMove _) => began
    | _ => [])
/-- R356: a match of a wave of a block comes before a mismatch, which raises its epoch. -/
def twinRow (a b : Wave) : Nat := if a.epoch = b.epoch then 0 else 2
/-- R170: klaunch records by logical die and core, then launch messages by port. -/
def sourceRow (s : State) (m : Move) (a b : Queue) : Nat :=
  if a.accepted = b.accepted then 0
  else match m with
    | .event (.closeComplete o) => (match s.op o with
      | some x => 1 + 64 * s.lidOf x.w.die + x.w.core
      | none => 0)
    | .event (.launchMessage _ _ _) => 4096 + ((tfind s.conns a.qpn).map (·.port)).getD 0
    | _ => 0

/-- A wave as an object: its die, core and slot. -/
def waveName (r : WaveRef) : List Nat := [r.die, r.core, r.slot]
/-- A context with no wave resident and no block group in dispatch: what Table 6.2 says of RUNNING, whatever its state. -/
def ctxQuiet (s : State) (asid : Nat) : Bool :=
  s.waves.all (fun (w : WaveRef × Wave) => w.2.asid != asid) && s.kerns.all (fun (k : Nat × Kern) => !(k.2.asid == asid && k.2.st == .dispatching))
/-- Events of a table that an earlier event of the same cycle, of a later row, has left without a row: a context's last wave goes (Table 6.2, row 5), a
kernel of a STOPERR queue is aborted (Table 7.2, row 7). -/
def lateRows (s t : State) : List RowAt :=
  (s.ctxs.filter (fun c => !ctxQuiet s c.1 && ctxQuiet t c.1)).map (fun c => ⟨none, [62, c.1], 5⟩)
  ++ s.kerns.filterMap (fun (x : Nat × Kern) =>
      if (s.queue x.2.l.queue).stopErr ∧ x.2.st ≠ .aborted ∧ (t.kern x.1).any (fun y => y.st == .aborted) then some ⟨none, [72, x.2.l.queue], 7⟩ else none)
/-- The rows of objects that a core holds. -/
def coreRows (s : State) (m : Move) (t : State) (k : Nat × Nat) : List RowAt :=
  let a := s.core k.1 k.2
  let b := t.core k.1 k.2
  let name := fun (n : Nat) => [k.1, k.2, n]
  rowsIn (some k.1) 105 name Frag.fresh a.frags b.frags (fragRow t)
    ++ rowsIn (some k.1) 112 name Bar.fresh a.bars b.bars (fun x y => if x = y then 0 else barSource s m)
    ++ rowsIn (some k.1) 163 name Macro.fresh a.macros b.macros macroRow
/-- The rows of a wave's splits. -/
def waveRows (t : State) (x : WaveRef × Wave) : List RowAt :=
  match t.wave x.1 with
  | none => []
  | some v => ((List.range 4).map (fun k =>
      let a := x.2.split k
      let n := splitRow x.2 v a (v.split k)
      (⟨some x.1.die, 102 :: waveName x.1 ++ [k], if n = 0 ∧ a.inUse = true ∧ trapped x.2 v = true then 17 else n⟩ : RowAt))).filter (fun r => r.row != 0)
/-- The die of a block's copy. -/
def dieOfBlock (s : State) (b cp : Nat) : Option Nat := (s.place b cp).map (·.die)
/-- The rows of a twin's wave: a match, or a mismatch, which raises its epoch. -/
def twinRows (s t : State) : List RowAt :=
  (s.ops.filterMap (fun (x : Nat × Op) => (s.wave x.2.w).bind (fun w =>
      if x.2.twin = 1 ∧ ((t.op x.1).map Op.twin).any (fun n => n == 2 || n == 3) then some (⟨dieOfBlock s w.block 0, [356, w.block, w.waveId], 1⟩ : RowAt) else none))
  ++ s.waves.filterMap (fun (x : WaveRef × Wave) => (t.wave x.1).map (fun (w : Wave) => (⟨dieOfBlock s w.block 0, [356, w.block, w.waveId], twinRow x.2 w⟩ : RowAt)))).filter
    (fun x => x.row != 0)
/-- The number, above every row of a table, of an event that its object's state has no row for: it is refused, or does nothing (R9). -/
def noRow : Nat := 1000
/-- The link of a link event. -/
def linkObj (l : LinkRef) : List (Option Nat × List Nat) := [(none, [181, l.chiplet, l.router, l.mdl])]
/-- The chiplet of a request that the Xeino root takes with this move. -/
def reqObj (s t : State) (f : List Byte → Nat) : List (Option Nat × List Nat) :=
  if s.mgmtPend = t.mgmtPend then [] else [(none, [192, f (devRead s 0 Config.mgmtVa 64).2.1])]
/-- The fragment that a handle names. -/
def fragObj (s : State) (x : Op) (h : W64) : List (Option Nat × List Nat) :=
  match handleDie s x.asid h with
  | (0, d) => [(some d, [105, d, hCore h, hIdx h])]
  | _ => []
/-- The object that a command acts on. -/
def cmdObj (s : State) (x : Op) : Cmd → List (Option Nat × List Nat)
  | .psysw _ _ asid _ => [(none, [62, asid])]
  | .qctl _ _ q _ => [(none, [72, q.toNat])]
  | .klaunch _ va => (match readLaunch s x.asid va with
    | (_, r, false, 0) => (match parseLaunch r with
      | some l => [(none, [170, l.queue])]
      | none => [])
    | _ => [])
  | .fragResume _ h => fragObj s x h
  | .fragKill _ h => fragObj s x h
  | .fragPatch _ h _ _ => fragObj s x h
  | _ => []
/-- The objects that an event, command or message reaches, whether or not their states have a row for it. -/
def eventObjs (s t : State) : Move → List (Option Nat × List Nat)
  | .event (.closeComplete o) => (match s.op o with
    | some x => (match x.kind with
      | .cmd c => if s.op o = t.op o then [] else cmdObj s x c
      | _ => [])
    | none => [])
  | .event (.launchMessage q _ _) => [(none, [170, q])]
  | .event (.eyeMeasure l true) => linkObj l
  | .event (.linkTrainDone l _) => linkObj l
  | .event (.linkReturn l) => linkObj l
  | .event (.laneFail l _) => linkObj l
  | .event (.flitRetryExhausted l) => linkObj l
  | .event .fence => reqObj s t (targetOf s)
  | .event .reset => reqObj s t (targetOf s)
  | .event .poweroff => reqObj s t (targetOf s)
  | .event .admitDie => reqObj s t (targetOf s)
  | .event .takeover => reqObj s t (targetOf s)
  | .event (.dieErrorFence d) => [(none, [192, d])]
  | .event (.dieAdmitResult ch _) => [(none, [192, ch])]
  | .event (.fencingQuiesced ch) => [(none, [192, ch])]
  | .event (.dieResetComplete ch) => [(none, [192, ch])]
  | .event (.cacheDieFault n) => [(none, [192, 0x20 + n])]
  | .event .ioDie1Fault => [(none, [192, 0x31])]
  | _ => []
/-- THE ROWS THAT A MOVE TOOK, by object, each with the die whose cycles are its (none for a unit of the package). -/
def rowsOf (s : State) (m : Move) (t : State) : List RowAt :=
  rowsIn none 62 (fun a => [a]) Ctx.fresh s.ctxs t.ctxs ctxEventRow
    ++ rowsIn none 72 (fun q => [q]) Queue.fresh s.queues t.queues queueEventRow
    ++ rowsIn none 170 (fun q => [q]) Queue.fresh s.queues t.queues (sourceRow s m)
    ++ (s.kerns.filterMap (fun (x : Nat × Kern) => (t.kern x.1).map (fun y => (⟨none, [82, x.1], kernRow x.2 y⟩ : RowAt)))).filter (fun x => x.row != 0)
    ++ s.waves.flatMap (waveRows t)
    ++ (s.cores.map (·.1) ++ t.cores.map (·.1)).eraseDups.flatMap (coreRows s m t)
    ++ (s.copies.filterMap (fun (x : Nat × Copy) => (tfind t.copies x.1).map (fun y => (⟨some y.die, [155, x.1], copyRow x.2 y⟩ : RowAt)))).filter (fun x => x.row != 0)
    ++ s.mxs.flatMap (fun (x : Nat × MxCmd) => (mxRows s m x.1 x.2 (tfind t.mxs x.1)).map (fun n => (⟨some x.2.w.die, mxTileName x.2, n⟩ : RowAt)))
    ++ rowsIn none 181 (fun l => [l.chiplet, l.router, l.mdl]) Link.fresh s.links t.links linkRow
    ++ (match m with
      | .event (.eyeMeasure l true) => if linkUp (s.link l) ∧ (s.link l).rate = .g8 ∧ (s.link l).eyeAt ≠ (t.link l).eyeAt then [⟨none, [181, l.chiplet, l.router, l.mdl], 5⟩] else []
      | _ => [])
    ++ ((List.range 18 ++ [0x20, 0x21, 0x22, 0x23, 0x31]).map (fun d => (⟨none, [192, d], dieRow (s.die d) (t.die d)⟩ : RowAt))).filter (fun x => x.row != 0)
    ++ pageRows s m t ++ twinRows s t ++ lateRows s t
/-- What a move did in the order of R10: its rows, and a mark for each object that it reached without a row. -/
def rowsTaken (s : State) (m : Move) (t : State) : List RowAt :=
  let r := rowsOf s m t
  r ++ ((eventObjs s t m).filter (fun x => r.all (fun y => y.obj != x.2))).map (fun x => ⟨x.1, x.2, noRow⟩)
/-- An event comes before one already taken of the same object in the present cycle: its row is an earlier one, or the one taken had no row, which
this one may give it; or it has none itself where a row was taken, which it might have had before. -/
def outOfOrder (old new : List RowAt) : Bool :=
  new.any (fun r => old.any (fun q => q.obj == r.obj && (decide (r.row < q.row) || (r.row == noRow && q.row != noRow))))
/-- A move whose issue takes a cycle of its die begins after the events of the present one. -/
def freshCycle (d : Nat) (s : State) : State :=
  if s.rows.any (fun r => r.die == some d) then later (s.oneCycle d) s else if s.rows.isEmpty then s else later 1 s
/-- EVENTS OF ONE CYCLE IN THE ORDER OF THEIR ROWS (R10): a move that would take an earlier row of an object than one taken in the present
cycle happens in the next one, which is three units of time later at most (R378). -/
def inOrder (run : State → Host.Outcome State Fault Refusal) (m : Move) : Nat → State → Host.Outcome State Fault Refusal
  | 0, s => run s
  | n + 1, s => match run s with
    | .next t =>
      if t.now ≠ s.now then .next t
      else
        let new := rowsTaken s m t
        if outOfOrder s.rows new then inOrder run m n (later 1 s) else .next { t with rows := s.rows ++ new }
    | r => r

end Sys2Proof.Machine
end

