-- ==== Sys2Proof/Machine/Step.lean ====
section
/-! DEFINITION. One step of the machine: one agent moves (entry 2). -/

namespace Sys2Proof.Machine

/-- Follow a next state. -/
def andThen (r : Host.Outcome State Fault Refusal) (f : State → State) : Host.Outcome State Fault Refusal :=
  match r with
  | .next s => .next (f s)
  | .fault x => .fault x
  | .refused x => .refused x

/-- Issue what a fetch gave; the clause's run is looked at again afterwards. -/
def runFetched (u : SplitRef) : Fetched → Host.Outcome State Fault Refusal
  | .gone s => .next (afterIssue s u)
  | .go s cu i => andThen (exec i { s with cur := some cu }) (fun s => afterIssue s u)

/-- A slice's issue opportunity: it enters a clause, releases one, replays a fragment, or issues a word; a cycle of its die passes. -/
def runIssue (d c sl : Nat) (s : State) : Host.Outcome State Fault Refusal :=
  match sliceAct s d c sl with
  | .none => .next (later (s.oneCycle d) s)
  | .enter u => andThen (exec (.clauseEntry u) s) (later (s.oneCycle d))
  | .release u => andThen (exec (.clauseWaitRelease u) s) (later (s.oneCycle d))
  | .replay u => andThen (exec (.fragmentReplay u) s) (later (s.oneCycle d))
  | .word u => andThen (runFetched u (fetchInstr (setRun s u) u)) (later (s.oneCycle d))
/-- The second instruction of a pair, issued by split k of a wave in a state, if it may be (R206): the state before and after it. -/
def runSecond (u : SplitRef) (k : Nat) (s : State) : Option (State × Host.Outcome State Fault Refusal) :=
  match pairReady s u k with
  | none => none
  | some p => match fetchInstr p ⟨u.w, k⟩ with
    | .go q cu i => if pairOpen cu.word then some (q, exec i { q with cur := some cu }) else none
    | .gone _ => none
/-- A pair issue by split u and split k of its wave, where it is possible (R206): the second instruction is executed as if alone in the cycle, unless
it traps, when the first one's writes are complete before its handler. -/
def runPair (d c sl k : Nat) (s : State) : Host.Outcome State Fault Refusal :=
  match sliceAct s d c sl with
  | .word u =>
    match fetchInstr (setRun s u) u with
    | .gone t => .next (later (s.oneCycle d) (afterIssue t u))
    | .go s0 cu i =>
      let n := s.oneCycle d
      match exec i { s0 with cur := some cu } with
      | .next t =>
        let stalled := decide (t.wave u.w = s0.wave u.w)
        let t := { afterIssue t u with tick := t.tick + 1 }
        if !pairOpen cu.word || stalled || !onlyWrites s0 t u.w then .next (later n t)
        else match runSecond u k (hideWrites s0 t u.w) with
          | none => .next (later n t)
          | some (q, .next z) =>
            if onlyWrites q z u.w then .next (later n { showWrites (newWrites s0 t u.w) q z u.w with cur := none })
            else match runSecond u k t with
              | none => .next (later n t)
              | some (_, r) => andThen r (fun z => later n { z with cur := none })
          | some (_, r) => r
      | r => r
  | _ => .next s
/-- A move other than an issue. -/
def runEvent (m : Move) (s : State) : Host.Outcome State Fault Refusal :=
  match m with
  | .event e => exec e s
  | .evict asid line => .next (evictMove s asid line)
  | .evictL1 d c i => .next (dropL1At s d c i)
  | .migrate n => execPageMove n s
  | .quiesced ch => execFencingQuiesced ch s
  | .resetDone ch => execDieResetComplete ch s
  | .check o ln => .next (checkLine s o ln)
  | .mxUnit o off => .next (mxUnit o off s)
  | .codeRead k pc => .next (codeRead s k pc)
  | .restore asid => .next (retryRestore s asid)
  | .flaw n => .next { s with flaw := n }
  | .pass n => .next (later n s)
  | .issue d c sl => runIssue d c sl s
  | .pair d c sl k => runPair d c sl k s
/-- The records that a move has made due are written (R151), unless one of them is held back, when they wait; the lines of checked requests are noted. -/
def settleMove (t : State) : State :=
  if t.heldBack then t
  else
    let v := stepRecords t
    let v := if v.heldBack then t else v
    { v with pins := pinsOf v }
/-- One move: an issue in a cycle of its own, any other in the order of rows (R10); then the records it has made due. A move that has an access held back
by a full conflict buffer (R374) does not happen now: the state it leaves says so. -/
def runMove (s : State) (m : Move) : Host.Outcome State Fault Refusal :=
  andThen (match m with
    | .issue d c sl => runIssue d c sl (freshCycle d s)
    | .pair d c sl k => runPair d c sl k (freshCycle d s)
    | _ => inOrder (runEvent m) m 4 s) settleMove
/-- A move that a free value picks among those that can happen; where it is held back, time passes. -/
def freeMove (s : State) : Host.Outcome State Fault Refusal :=
  andThen (runMove s (pick s 0 (.pass 1) (movesOf s))) (fun t => if t.heldBack then later 1 s else t)
/-- What a move of the agenda gives, or a free move where it is held back. -/
def orFree (z : State) (r : Host.Outcome State Fault Refusal) : Host.Outcome State Fault Refusal :=
  match r with
  | .next u => if u.heldBack then freeMove z else .next u
  | r => r
/-- ONE STEP: the agenda's first move, or where it is empty a free one. While the agenda's first move is held back, it stays and a free one
happens. -/
def step (s : State) : Host.Outcome State Fault Refusal :=
  let z := { s with tick := s.tick + 1 }
  match s.agenda with
  | m :: t => orFree z (runMove { z with agenda := t } m)
  | [] => freeMove z

/-- s with one instruction stored where the next step fetches it (entry 3). -/
def State.withFetchWord (s : State) (nbits w : Nat) : State :=
  placeWords s ((nbits + 63) / 64) (leBytes 16 (w % 2 ^ nbits))

end Sys2Proof.Machine
end

