-- ==== Sys2Proof/Terms.lean ====
section
/-! DEFINITION. The terms the statements are written in: an issue that nothing turns away, the writes in flight an instruction adds,
and what an instruction leaves as it was. -/

namespace Sys2Proof.Spec

open Sys2Proof.Machine

/-! ### Issue -/

/-- The split of `cu` issues instruction `i` with guard and settle fields `c` in wave `w`, and none of the checks before its effect turns
it away: the privilege check (R61), the bounds of its vector registers (R50), and in interlocked mode the wait for the index registers and then the
other registers it reads (R48). -/
structure Issues (s : State) (i : Instr) (c : Cm) (cu : Cur) (w : Wave) : Prop where
  cur : s.cur = some cu
  wave : s.wave cu.u.w = some w
  allowed : (isPriv i && w.asid != 0) = false
  index : idxHazard s w (refsOf i) = false
  bounds : boundsBad s w (refsOf i) = false
  ready : (issueOf s c cu w).cap = none → hazard s w c (refsOf i) = false

/-- The execution set of the issue (R40): the lanes of MASK whose guard is true; for a replayed fragment all its lanes. -/
def exSet (s : State) (c : Cm) (cu : Cur) (w : Wave) : Mask := (issueOf s c cu w).e

/-- s at the start of a slice's issue opportunity that stood first on the agenda: it is off the agenda, and a cycle in which events have happened is
over (entry 2). -/
def begun (s : State) (d : Nat) (rest : List Move) : State := freshCycle d { s with agenda := rest, tick := s.tick + 1 }
/-- What follows in the step when slice sl of die d has done something for the split u with the result t: the slice looks at its clause again, a cycle of
the die passes, and the records that are due are written (R36, R151). -/
def ended (s : State) (rest : List Move) (d : Nat) (u : SplitRef) (t : State) : State :=
  settleMove (later ((begun s d rest).oneCycle d) (afterIssue t u))
/-- Words left in the clause of a split after the one at its PC (R35). -/
def wordsLeft (x : Split) : Nat := clauseWords (x.hdrw.getD 0) - (x.pc - x.hdr).toNat / 8
/-- The issue of slice sl of core c of die d stands first on the agenda, the slice's turn is a word at the PC of split u of wave w, and the word is read
without a cause as w0, with the word after it as w1 where it needs one and its clause has one; a is the state after the reads (R36, R39, R204). -/
structure TurnWord (s : State) (d c sl : Nat) (rest : List Move) (u : SplitRef) (w : Wave) (w0 w1 : W64) (a : State) : Prop where
  agenda : s.agenda = .issue d c sl :: rest
  turn : sliceAct (begun s d rest) d c sl = .word u
  wave : (setRun (begun s d rest) u).wave u.w = some w
  read : ∃ b, fetchWord (setRun (begun s d rest) u) w (w.split u.k).pc = (b, w0, 0) ∧
    (if twoWords w0 && wordsLeft (w.split u.k) != 0 then fetchWord b w ((w.split u.k).pc + 8) else (b, 0, 0)) = (a, w1, 0)

/-! ### What an instruction adds and what it keeps -/

/-- A wave keeps its identity, registers, writes in flight, trap, region, batch and mode state; its split table, overflow stack, WSM (with the
S that its gathered split waits for) and exit close may change. -/
def KeepsWave (w v : Wave) : Prop := v = { w with splits := v.splits, stack := v.stack, wsm := v.wsm, wsTill := v.wsTill, exitOp := v.exitOp }

/-- Wave r of t is wave r of s with the writes `ps` added to those in flight, in issue order; every register holds what it held. -/
def Writes (s t : State) (r : WaveRef) (ps : List Pend) : Prop :=
  ∃ w v, s.wave r = some w ∧ t.wave r = some v ∧ KeepsWave { w with pend := w.pend ++ ps } v

/-- Apart from wave r, the fragment tables and the wave's exit close, t is s: every other wave, every operation in flight, every barrier
slot, accumulator tile, macro, L1 line, context, queue, kernel, die and link is as it was, and every byte of global memory and of every
scratchpad reads as it did. -/
structure OnlyWave (s t : State) (r : WaveRef) : Prop where
  state : t = { s with waves := t.waves, cores := t.cores, ops := t.ops, nextId := t.nextId }
  ops : ∃ exits : List (Nat × Op), t.ops = s.ops ++ exits ∧ t.nextId = s.nextId + exits.length ∧ ∀ o ∈ exits, o.2.kind = .cmd .exit ∧ o.2.w = r
  waves : ∀ q, q ≠ r → t.wave q = s.wave q
  cores : ∀ d c, t.core d c = { s.core d c with frags := (t.core d c).frags }
  bytes : ∀ asid va, (homeLoad t asid va 1 .rd).2 = (homeLoad s asid va 1 .rd).2
  spad : ∀ b cp off, spadRead t b cp off 1 = spadRead s b cp off 1

/-- Instruction `i` of the split u completes in s with the effect that leads to `body`: the next state is `body` after the settle bit, arrival at the
next header, and the merges and offered entries that follow every issue (R36, R43, R203, R211, R212). -/
def Completes (i : Instr) (s : State) (c : Cm) (u : SplitRef) (body : State) : Prop :=
  exec i s = .next (finishIssue body u c)

/-- s with the register writes `ps` in flight in wave r after those that were. -/
def adds (s : State) (r : WaveRef) (ps : List Pend) : State := ps.foldl (fun s p => s.addPend r p) s

/-- `i`, of one word, completes in s with register writes alone: the split u stands past the word, the writes `ps` are in flight in its wave, and what
follows every issue follows; so every register of the wave holds what it held, and nothing outside the wave changes but what `OnlyWave` names. -/
def Gives (i : Instr) (s : State) (c : Cm) (u : SplitRef) (ps : List Pend) : Prop :=
  Completes i s c u (adds (s.advance u 1) u.w ps) ∧ ∃ t, exec i s = .next t ∧ Writes s t u.w ps ∧ OnlyWave s t u.w

/-! ### Register writes of fixed latency (R42, R114) -/

/-- The cycle it is on the die of the issuing split (R5). -/
def cycleNow (s : State) : Nat := s.cyc ((s.cur.map (fun c => c.u.w.die)).getD 0)
/-- A write in flight that is made `lat` cycles from now. -/
def due (s : State) (d : Dst) (e : Mask) (vals : List (Nat × Val)) (lat : Nat) : Pend :=
  ⟨d, e, vals, some (cycleNow s + lat), false, false, 0⟩
/-- A vector register in the lanes of e; none where e is empty (R42). -/
def vecW (s : State) (n : Nat) (e : Mask) (f : Nat → Val) (lat : Nat) : List Pend :=
  if e = 0 then [] else [due s (.v n) e ((lanes e).map (fun l => (l, f l))) lat]
/-- A scalar register, once where e is not empty (R41). -/
def scaW (s : State) (n : Nat) (e : Mask) (v : Val) (lat : Nat) : List Pend := if e = 0 then [] else [due s (.s n) 1 [(0, v)] lat]
/-- A predicate in the lanes of e; a write to p7 is ignored. -/
def predW (s : State) (q : PReg) (e : Mask) (f : Nat → Bool × Bool) (lat : Nat) : List Pend :=
  if q = 7 ∨ e = 0 then [] else [due s (.p q.toNat) e ((lanes e).map (fun l => (l, ⟨if (f l).1 then 1 else 0, (f l).2⟩))) lat]

/-- The number a TY reads from a pattern, and the pattern written for a number (R100 to R103). -/
def num (f : IntF) (x : W32) : Int := rdTy f.ty x
def out (f : IntF) (x : Int) : W32 := wrTy f.sat f.ty x

/-- What an instruction with a scalar, a vector and a predicate result does: where it issues it completes, and the value arrives
`lat` cycles later. -/
def GivesS (s : State) (i : Instr) (c : Cm) (cu : Cur) (w : Wave) (d : Nat) (v : Val) (lat : Nat) : Prop :=
  Issues s i c cu w → Gives i s c cu.u (scaW s d (exSet s c cu w) v lat)
def GivesV (s : State) (i : Instr) (c : Cm) (cu : Cur) (w : Wave) (d : VDst) (f : Nat → Val) (lat : Nat) : Prop :=
  Issues s i c cu w → Gives i s c cu.u (vecW s (effV s w d) (exSet s c cu w) f lat)
def GivesP (s : State) (i : Instr) (c : Cm) (cu : Cur) (w : Wave) (q : PReg) (f : Nat → Bool × Bool) (lat : Nat) : Prop :=
  Issues s i c cu w → Gives i s c cu.u (predW s q (exSet s c cu w) f lat)
/-- A 64-bit result in a scalar pair, both halves with one poison (R110, R113). -/
def GivesS2 (s : State) (i : Instr) (c : Cm) (cu : Cur) (w : Wave) (d : Nat) (x : W64 × Bool) (lat : Nat) : Prop :=
  Issues s i c cu w → Gives i s c cu.u
    (scaW s d (exSet s c cu w) ⟨x.1.setWidth 32, x.2⟩ lat ++ scaW s (d + 1) (exSet s c cu w) ⟨(x.1 >>> 32).setWidth 32, x.2⟩ lat)

/-- An issue of one word that completes with the wave as v, but that the split stands past the word and what follows every issue follows, and with nothing
else changed (`OnlyWave`). -/
def EndsAs (i : Instr) (s : State) (c : Cm) (u : SplitRef) (v : Wave) : Prop :=
  Completes i s c u (s.setWave u.w (v.setSplit u.k (advanceSplit (s.cyc u.w.die) 1 (v.split u.k)))) ∧
  ∃ t x, exec i s = .next t ∧ OnlyWave s t u.w ∧ t.wave u.w = some x ∧ KeepsWave v x

/-- A transfer of n words whose lanes in `faults` fault: trap 0x304 where the sets of the other lanes of MASK find no places; else, where no lane faults, the
split divides by destination, the writes `ps` are added, and nothing else changes but the split table, the stack and SPLOVF; where lanes fault and can
be parked, the others divide after them, out of E; where they cannot, the transfer has no effect in any lane (R14, R207, R219). `pre` is what the
instruction does before it. -/
def Divides (s : State) (i : Instr) (c : Cm) (cu : Cur) (w : Wave) (n : Nat) (faults : List LaneA) (dest : Nat → Addr) (rpc : W64)
    (pre : State → Issue → State) (ps : List Pend) : Prop :=
  let a := s.advance cu.u n
  let is := issueOf s c cu w
  let fm := maskOf (fun l => faults.any (fun f => f.lane == l && f.cause != 0))
  let dests := (lanes (is.sp.mask &&& ~~~fm)).map (fun l => (l, dest l))
  let j : Issue := { is with e := is.e &&& ~~~fm }
  Issues s i c cu w →
    (divideBad a is dests = true → Completes i s c cu.u (trapIs a is 0x304 0)) ∧
    (divideBad a is dests = false → faults = [] → Completes i s c cu.u (divide (pre a is) is dests rpc) ∧
      ∃ t x, exec i s = .next t ∧ OnlyWave s t cu.u.w ∧ t.wave cu.u.w = some x ∧ KeepsWave { w with pend := w.pend ++ ps, splovf := x.splovf } x) ∧
    (∀ t, divideBad a is dests = false → faults ≠ [] → parkLanes a cu.u is.sp is.word false faults 0 = .yes t → Completes i s c cu.u (divide (pre t j) j dests rpc)) ∧
    (∀ t, divideBad a is dests = false → faults ≠ [] → parkLanes a cu.u is.sp is.word false faults 0 = .no t → Completes i s c cu.u t)

/-- Global memory, every slice line, every context and the waves but r are as they were, and every byte of global memory reads as it did. -/
structure MemSame (s t : State) (r : WaveRef) : Prop where
  slines : t.slines = s.slines
  hbm : t.hbm = s.hbm
  ctxs : t.ctxs = s.ctxs
  waves : ∀ q, q ≠ r → t.wave q = s.wave q
  bytes : ∀ asid va, (homeLoad t asid va 1 .rd).2 = (homeLoad s asid va 1 .rd).2

/-- The lanes of an access at issue: captured, or replayed, with checks 1 to 4 of R262. -/
def issueLanes (s : State) (is : Issue) (f : Form) (cap : List LaneA) : List LaneA :=
  let raw := match is.cap with
    | some cp => if f.scalar then cp.lanes.take 1 else cp.lanes
    | none => cap
  checkLanes s is.w f raw

/-- How a memory instruction of form f issues with the captured lanes `cap` and destination registers `dst`: nothing with E empty; a stall
behind a close, a ninth captured operation or SLACK; the operation is started with no byte of memory changed yet where the form waits for its statuses and
a lane passes, or is compared, or where all lanes pass; the lanes' faults otherwise, before the others start (R14, R262, R283, R147, R353, R354). -/
def Starts (s : State) (i : Instr) (c : Cm) (cu : Cur) (w : Wave) (f : Form) (cap : State → Issue → List LaneA)
    (dst : State → Issue → Option DstRun) : Prop :=
  let a := s.advance cu.u 1
  let is := issueOf s c cu w
  let ls := issueLanes a is f (cap a is)
  let stall := isCapturedKind f.kind && (fenced a is || decide (8 ≤ (captured a w.uid).length) || (f.compared && slackStall a is))
  let cmp := f.compared && compares is
  Issues s i c cu w →
    (is.e = 0 → Gives i s c cu.u []) ∧
    (is.e ≠ 0 → stall = true → exec i s = .next s) ∧
    (is.e ≠ 0 → stall = false → ls ≠ [] → (∀ l ∈ ls, l.cause ≠ 0) → (f.held = false ∨ cmp = false) →
      Completes i s c cu.u (faultThen a is true (spread f.scalar is.e ls) (fun s _ => s))) ∧
    (is.e ≠ 0 → stall = false → ((f.held = true ∧ ((∃ l ∈ ls, l.cause = 0) ∨ cmp = true)) ∨ ((∃ l ∈ ls, l.cause = 0) ∧ ∀ l ∈ ls, l.cause = 0)) →
      Completes i s c cu.u (startOp a is f ls (dst a is)) ∧ ∃ t, exec i s = .next t ∧ MemSame s t cu.u.w) ∧
    (is.e ≠ 0 → stall = false → (∃ l ∈ ls, l.cause ≠ 0) → (∃ l ∈ ls, l.cause = 0) → f.held = false →
      Completes i s c cu.u (faultThen a is true (spread f.scalar is.e (ls.filter (fun l => l.cause != 0))) (fun s j =>
        if j.e = 0 then s else startOp s j f (ls.filter (fun l => l.cause == 0)) (dst a is))))

/-- How a split-scalar instruction with checks issues: nothing with E empty; the lanes of E fault with 0x104 where an operand it reads is
poisoned; trap `cause` where `bad`; otherwise `body`, on the state with the split past the word (R14, R41). -/
def Gated (s : State) (i : Instr) (c : Cm) (cu : Cur) (w : Wave) (psn bad : Bool) (cause : Nat) (body : State → Issue → State) : Prop :=
  let a := s.advance cu.u 1
  let is := issueOf s c cu w
  Issues s i c cu w →
    (is.e = 0 → Gives i s c cu.u []) ∧
    (is.e ≠ 0 → psn = true → Completes i s c cu.u (faultThen a is false (faultMask is.e 0x104) (fun s _ => s))) ∧
    (is.e ≠ 0 → psn = false → bad = true → Completes i s c cu.u (trapIs a is cause 0)) ∧
    (is.e ≠ 0 → psn = false → bad = false → Completes i s c cu.u (body a is))
/-- As `Gated`, but with E not empty the word stalls at issue where `wait` holds, before its checks. -/
def GatedBy (s : State) (i : Instr) (c : Cm) (cu : Cur) (w : Wave) (wait psn bad : Bool) (cause : Nat) (body : State → Issue → State) : Prop :=
  let a := s.advance cu.u 1
  let is := issueOf s c cu w
  Issues s i c cu w →
    (is.e = 0 → Gives i s c cu.u []) ∧
    (is.e ≠ 0 → wait = true → exec i s = .next s) ∧
    (is.e ≠ 0 → wait = false → psn = true → Completes i s c cu.u (faultThen a is false (faultMask is.e 0x104) (fun s _ => s))) ∧
    (is.e ≠ 0 → wait = false → psn = false → bad = true → Completes i s c cu.u (trapIs a is cause 0)) ∧
    (is.e ≠ 0 → wait = false → psn = false → bad = false → Completes i s c cu.u (body a is))
/-- How a barrier instruction on a slot of its own block issues: as `Gated`, but at issue it waits for the wave's own credits on their way to the slot,
and for its arrivals there that wait for stores, so that the wave's barrier operations take effect there in issue order (R244). -/
def GatedBar (s : State) (i : Instr) (c : Cm) (cu : Cur) (w : Wave) (slot : W32) (psn bad : Bool) (body : State → Issue → State) : Prop :=
  GatedBy s i c cu w (slotOut (s.advance cu.u 1) w slot.toNat) psn bad 0x303 body
/-- A `phase` close of lanes of the issuing split is not done, behind which an engine command waits at issue (R283). -/
def closeHolds (s : State) (c : Cm) (cu : Cur) (w : Wave) : Bool := fenced (s.advance cu.u 1) (issueOf s c cu w)
/-- A barrier instruction raises trap 0x303 for a slot the block does not have, of another kind, or with a bad operand (R228). -/
def slotBad (s : State) (w : Wave) (slot : W32) (kinds : Nat → Bool) (bad : Bool) : Bool :=
  decide (barsOf s w.block ≤ slot.toNat) || !kinds (s.bar w.block w.copy slot.toNat).kind || bad

/-- s with the divide unit of the slice of r taken for 8 cycles (R136). -/
def takesDiv (s : State) (r : WaveRef) : State :=
  let k := s.coreOf r
  let x := tget SliceSt.fresh k.slices (sliceOfSlot r.slot)
  s.setCoreOf r { k with slices := tset k.slices (sliceOfSlot r.slot) { x with divTill := s.cyc r.die + 8 } }
/-- The divide unit of the slice of r is free (R136). -/
def divFree (s : State) (r : WaveRef) : Bool := decide ((tget SliceSt.fresh (s.coreOf r).slices (sliceOfSlot r.slot)).divTill ≤ s.cyc r.die)

/-! ### Commands -/

/-- How an instruction that sends a command issues: nothing with E empty; the word again next cycle where `stall` holds; otherwise `body`, on the
state with the split past its n words (R14, R41). -/
def Sends (s : State) (i : Instr) (c : Cm) (cu : Cur) (w : Wave) (n : Nat) (stall : State → Issue → Bool) (body : State → Issue → State) : Prop :=
  let a := s.advance cu.u n
  let is := issueOf s c cu w
  Issues s i c cu w →
    (is.e = 0 → Completes i s c cu.u a) ∧ (is.e = 0 → n = 1 → Gives i s c cu.u []) ∧
    (is.e ≠ 0 → stall a is = true → exec i s = .next s) ∧
    (is.e ≠ 0 → stall a is = false → Completes i s c cu.u (body a is))

/-! ### Bytes at the home slices -/

/-- The byte of a slice line that is present, by ASID and address. -/
def sliceByte (s : State) (asid va : Nat) : Option Byte := (tfind s.slines (asid, lineOf va)).map (fun l => l.data.getD (va % 128) 0)

/-- Where the performed operation o of a twin block is the matched leading one, the trailing copy's operation has the results `done` of it, lane by lane;
its lanes that faulted keep their causes (R353). -/
def TwinTakes (s t : State) (o : Nat) (x : Op) (done : List LaneA) : Prop :=
  x.twin = 2 → ∀ y z, s.op x.peer = some y → t.op x.peer = some z → x.peer ≠ o →
    z.lanes = y.lanes.map (fun m => if m.cause ≠ 0 then m else (done.find? (fun q => q.lane == m.lane)).getD m)
/-- Operation o, of which t has the lanes of z, has given its pending registers the values of the lanes satisfied so far, and no other wave or field has
changed (R42, R45). -/
def ValuesArrive (s t : State) (o : Nat) (x z : Op) : Prop :=
  (∀ q, q ≠ x.w → t.wave q = s.wave q) ∧
  ∀ w, s.wave x.w = some w → w.uid = x.wuid → t.wave x.w = some { w with pend := w.pend.map (fun p =>
    if p.op = o ∧ p.due.isNone ∧ !p.done then { p with vals := resVals { z with lanes := z.lanes.filter (·.fin) } p.dst } else p) }

/-- The addresses that the lanes of a store of n bytes write. -/
def stores (n : Nat) (ls : List LaneA) (va : Nat) : Bool := ls.any (fun l => decide (l.addr ≤ va) && decide (va < l.addr + n))

end Sys2Proof.Spec
end

