-- ==== Sys2Proof/Certificates/Slice0/Obligations.lean ====
section
/-! DEFINITION. The statements for the provers. -/

open Sys2Proof Sys2Proof.Machine Sys2Proof.Spec

/-- After reset: memory lists nothing and has its form; physical dies 0 to 15 are ACTIVE with logical ids 0 to 15, dies 16 and 17 are spares in SPARE_OFF
without one; no wave, block or kernel exists and every queue is CLOSED; ASID 0 alone exists; every context but 0 is FREE (R17, R18, R137, R167). Every
channel, cache die and I/O die is ACTIVE. That memory lists nothing is the model's choice (log entry 4). -/
def Obligations.ResetState : Prop :=
  State.reset.hbm = [] ∧ hbmWf State.reset.hbm = true ∧ State.reset.waves = [] ∧ State.reset.blocks = [] ∧ State.reset.kerns = [] ∧
  (∀ n, n < 16 → (State.reset.die n).st = .active ∧ (State.reset.die n).lid = some n) ∧
  (∀ n, n = 16 ∨ n = 17 → (State.reset.die n).st = .spareOff ∧ (State.reset.die n).lid = none) ∧
  (∀ q, (State.reset.queue q).st = .closed) ∧ (∀ a, a ≠ 0 → (State.reset.ctx a).st = .free) ∧ (State.reset.ctx 0).st = .running ∧
  (∀ c, (State.reset.chan c).st = .active) ∧
  (∀ n, n = 0x20 ∨ n = 0x21 ∨ n = 0x22 ∨ n = 0x23 ∨ n = 0x30 ∨ n = 0x31 → (State.reset.die n).st = .active)

/-- A STEP RUNS THE DECODED INSTRUCTION: where the first move of the agenda is the issue of a slice, and the slice's turn is a word at the PC of split u
which is fetched without a cause (with the word after it where it needs one), fits its clause and its place, is not privileged outside ASID 0, and
decodes to i, the step is exec of i, after which the slice looks at its clause again, one cycle of its die passes and the records that are due are
written (R36, R61, R151, R204). An event that stands first on the agenda is the next step: in the present cycle where it takes no row of an object
before one already taken, and none that an event without a row has missed there, nor is itself left without one, else in the next (R10; log entry 2).
 A move of which an access is held back by a full conflict buffer waits, and a free move is
the step (R374; log entry 28). -/
def Obligations.StepRunsDecoded : Prop :=
  (∀ (s a : State) (d c sl : Nat) (rest : List Move) (u : SplitRef) (w : Wave) (w0 w1 : W64) (i : Instr), TurnWord s d c sl rest u w w0 w1 a →
     let x := w.split u.k
     fitsClause (x.hdrw.getD 0) (fOp w0).toNat = true → placementBad w0 w1 (wordsLeft x) = false → ((fOp w0).toNat < 0xF0 ∨ w.asid = 0) →
     decode w0 (some w1) = .ok i →
     step s = orFree { s with tick := s.tick + 1 } (andThen (exec i { a with cur := some ⟨u, w0, w1⟩ }) (ended s rest d u))) ∧
  (∀ (s t : State) (i : Instr) (rest : List Move), s.agenda = .event i :: rest →
     let z := { s with tick := s.tick + 1 }
     let s0 := { z with agenda := rest }
     let rows := rowsTaken s0 (.event i) t
     exec i s0 = .next t →
     (t.now ≠ s.now → step s = orFree z (.next (settleMove t))) ∧
     (t.now = s.now → outOfOrder s.rows rows = false → step s = orFree z (.next (settleMove { t with rows := s.rows ++ rows }))) ∧
     (t.now = s.now → outOfOrder s.rows rows = true → step s = orFree z (andThen (inOrder (exec i) (.event i) 3 (later 1 s0)) settleMove))) ∧
  (∀ (z u : State), (u.heldBack = false → orFree z (.next u) = .next u) ∧ (u.heldBack = true → orFree z (.next u) = freeMove z))

/-- Words written out from the spec's encodings decode to the instructions they stand for: the spec's own examples of chapters 02, 04 and 05, and one word
of each further family. -/
def Obligations.DecodedWords : Prop :=
  let c : Cm := ⟨false, 7, false⟩
  decode 0x40A808A660600001 none = .ok (.vadd ⟨true, 2, true⟩ (.reg 4) (.ind 1 12) (.const 3) ⟨0, 0, false, .s⟩) ∧
  decode 0x60700401EA000008 none = .ok (.fadd c (.reg 2) (.reg 3) (.const 0x50) ⟨0, 0, false, .rm⟩) ∧
  decode 0x5D701852FFFFFF9C none = .ok (.vcmpi c 3 10 0xFFFFFF9C .ltS) ∧
  decode 0x0D70000000000005 none = .ok (.trap c 5) ∧
  decode 0x0170000050000050 none = .ok (.bra c 10 10) ∧
  decode 0x9070080400000004 none = .ok (.ld c (.reg 4) (.vec (.reg 8)) ⟨0, false, .b32⟩ 0) ∧
  decode 0x91700D0100000844 none = .ok (.st c (.reg 6) (.sc 2) ⟨4, false, .b32⟩ 16) ∧
  decode 0xB370018180000000 none = .ok (.barSync c (.const 3) false) ∧
  decode 0xC474210A43D81001 none = .ok (.cpLin c (.glob 16) (.off (.reg 20)) (.reg 30) (.const 2) .sg) ∧
  decode 0xD070010380000404 none = .ok (.mx c 0 0 (.reg 7) 0 0 1 true false) ∧
  decode 0xE074110500000000 none = .ok (.klaunch c 8 10) ∧
  decode 0xF2740902E0004000 none = .ok (.qctlPause c 4 (.reg 5) (.const 0)) ∧
  decode 0x1474000000000000 none = .error .reserved

/-- DECODE AND ENCODE AGREE: every well-formed instruction that has words is decoded from its words, whatever word follows a one-word instruction (R53,
R54, R58). -/
def Obligations.EncodedInstructionsDecode : Prop :=
  ∀ (i : Instr) (w v : W64) (t : List W64), i.wf = true → encode i = w :: t → decode w (some (t.headD v)) = .ok i

/-- DECODE AND ENCODE AGREE for the formats with a direct register and an immediate, with every register, immediate, guard and settle bit (formats I and
B, R54, R56); the forms vshli, vshri, sshli, sshri, brm and call are left to the statement over all instructions. -/
def Obligations.EncodedImmediatesDecode : Prop :=
  ∀ (c : Cm) (d a : VReg) (r q : SReg) (imm : W32) (tgt rpc : BitVec 24) (n : BitVec 6) (b : Option W64) (p : PReg) (k : CmpI) (f : ArithI),
    ∀ i ∈ [(.vli c d imm : Instr), .vaddi c d a imm f, .vandi c d a imm, .vori c d a imm, .vxori c d a imm, .vmuli c d a imm f, .vcmpi c p a imm k, .sli c r imm, .saddi c r q imm f, .sandi c r q imm,
        .sori c r q imm, .sxori c r q imm, .smuli c r q imm f, .scmpi c p q imm k, .bra c tgt rpc, .trap c n, .nop c, .exit c, .wsync c],
      i.wf = true → ∃ w, encode i = [w] ∧ decode w b = .ok i

/-- What a word decodes to is well formed, and its words are the ones read: no bit of a word that decodes is dropped (R58, R61). -/
def Obligations.DecodedWordsEncodeBack : Prop :=
  ∀ (w v : W64) (i : Instr), decode w (some v) = .ok i → i.wf = true ∧ (encode i = [w] ∨ encode i = [w, v])

/-- EVERY STEP KEEPS THE CANONICAL FORM OF MEMORY: addresses strictly rising and no listed byte equal to what an unlisted address reads as. The form is
the model's own (log entry 4): it makes equal memories equal data. -/
def Obligations.StepKeepsMemoryForm : Prop :=
  ∀ s t : State, hbmWf s.hbm = true → step s = .next t → hbmWf t.hbm = true

/-- nop: its word has OP 0x00 and bits [50:0] zero, and any other word with that OP is refused; it fits every clause; it has no effect except its settle
bit; the words 0 and 0x0080_0000_0000_0000 are nop without and with S; a header of value zero opens a clause of one word of the ALU class (R62). -/
def Obligations.NopDoesNothing : Prop :=
  (∀ (w : W64) (v : Option W64), w.extractLsb' 56 8 = 0 →
    (w.extractLsb' 0 51 = 0 → decode w v = .ok (.nop ⟨w.getLsbD 55, w.extractLsb' 52 3, w.getLsbD 51⟩)) ∧
    (w.extractLsb' 0 51 ≠ 0 → decode w v = .error .reserved)) ∧
  (∀ h : W64, fitsClause h 0x00 = true) ∧
  decode 0 none = .ok (.nop ⟨false, 0, false⟩) ∧ decode 0x0080000000000000 none = .ok (.nop ⟨true, 0, false⟩) ∧
  headerCause 0 = 0 ∧ clauseWords 0 = 1 ∧ ((0 : W64).extractLsb' 60 4).toNat = classOf 0x40 ∧
  (∀ (s : State) (c : Cm) (cu : Cur) (w : Wave), Issues s (.nop c) c cu w →
    Completes (.nop c) s c cu.u (s.advance cu.u 1) ∧ Gives (.nop c) s c cu.u [])

/-- The scalar integer instructions with one 32-bit result: where one issues, its result of Table 4.3 (R102, R104) is written to S[D] once, if E is not
empty, with the poison of the sources read (R113), the cycles of Table 4.5 later (R114), and nothing else changes. -/
def Obligations.ScalarIntegerResults : Prop :=
  ∀ (s : State) (c : Cm) (cu : Cur) (w : Wave) (d : SReg) (a b e : SSrc) (f : IntF) (imm : W32) (r : SReg) (g : ArithI) (ar : Bool),
    GivesS s (.sadd c d a b f) c cu w d.toNat (scal2 a b (fun x y => out f (num f x + num f y)) s w) 2 ∧
    GivesS s (.ssub c d a b f) c cu w d.toNat (scal2 a b (fun x y => out f (num f x - num f y)) s w) 2 ∧
    GivesS s (.smul c d a b f) c cu w d.toNat
      (scal2 a b (fun x y => if f.var = 1 then BitVec.ofInt 32 (num f x * num f y / 2 ^ 32) else out f (num f x * num f y)) s w) 3 ∧
    GivesS s (.smad c d a b e f) c cu w d.toNat (scal3 a b e (fun x y z => out f (num f x * num f y + num f z)) s w) 3 ∧
    GivesS s (.sand c d a b f) c cu w d.toNat (scal2 a b (fun x y => x &&& (if f.var = 1 then ~~~y else y)) s w) 2 ∧
    GivesS s (.sor c d a b f) c cu w d.toNat (scal2 a b (fun x y => x ||| (if f.var = 1 then ~~~y else y)) s w) 2 ∧
    GivesS s (.sxor c d a b f) c cu w d.toNat (scal2 a b (fun x y => x ^^^ (if f.var = 1 then ~~~y else y)) s w) 2 ∧
    GivesS s (.sshl c d a b f) c cu w d.toNat (scal2 a b (fun x y => if 32 ≤ y.toNat then 0 else x <<< y.toNat) s w) 2 ∧
    GivesS s (.sshr c d a b f) c cu w d.toNat (scal2 a b (fun x y => BitVec.ofInt 32 (num f x / (2 ^ min y.toNat 32 : Nat))) s w) 2 ∧
    GivesS s (.smin c d a b f) c cu w d.toNat (scal2 a b (fun x y => if num f x ≤ num f y then x else y) s w) 2 ∧
    GivesS s (.smax c d a b f) c cu w d.toNat (scal2 a b (fun x y => if num f x ≤ num f y then y else x) s w) 2 ∧
    GivesS s (.ssel c d a b e f) c cu w d.toNat (scal3 a b e (fun x y z => if z ≠ 0 then x else y) s w) 2 ∧
    GivesS s (.smov c d a f) c cu w d.toNat (ssrc s w a) 2 ∧
    GivesS s (.sbit c d a f) c cu w d.toNat (scal1 a (aluBit f) s w) 2 ∧
    GivesS s (.sli c d imm) c cu w d.toNat ⟨imm, false⟩ 2 ∧
    GivesS s (.saddi c d r imm g) c cu w d.toNat (scal1 (.reg r) (fun x => wrTy g.sat g.ty (rdTy g.ty x + rdTy g.ty imm)) s w) 2 ∧
    GivesS s (.sandi c d r imm) c cu w d.toNat (scal1 (.reg r) (fun x => x &&& imm) s w) 2 ∧
    GivesS s (.sori c d r imm) c cu w d.toNat (scal1 (.reg r) (fun x => x ||| imm) s w) 2 ∧
    GivesS s (.sxori c d r imm) c cu w d.toNat (scal1 (.reg r) (fun x => x ^^^ imm) s w) 2 ∧
    GivesS s (.sshli c d r imm) c cu w d.toNat (scal1 (.reg r) (fun x => if 32 ≤ imm.toNat then 0 else x <<< imm.toNat) s w) 2 ∧
    GivesS s (.sshri c d r imm ar) c cu w d.toNat
      (scal1 (.reg r) (fun x => BitVec.ofInt 32 ((if ar then x.toInt else (x.toNat : Int)) / (2 ^ min imm.toNat 32 : Nat))) s w) 2 ∧
    GivesS s (.smuli c d r imm g) c cu w d.toNat (scal1 (.reg r) (fun x => wrTy g.sat g.ty (rdTy g.ty x * rdTy g.ty imm)) s w) 3

/-- The scalar compares write one result into P[PQ] of every lane of E, with the poison of the sources (R105, R111, R113). The 64-bit scalar forms: A + B,
A − B and base + index × 2^k modulo 2^64, written to the pair of D (R110, R113, R114). -/
def Obligations.ScalarComparesAndPairs : Prop :=
  (∀ (s : State) (c : Cm) (cu : Cur) (w : Wave) (a b : SSrc) (f : IntF) (q : PReg) (r : SReg) (imm : W32) (k : CmpI),
     GivesP s (.scmp c a b f) c cu w f.pq
       (fun _ => (cond f.var (num f (ssrc s w a).v) (num f (ssrc s w b).v), (ssrc s w a).psn || (ssrc s w b).psn)) 2 ∧
     GivesP s (.scmpi c q r imm k) c cu w q (fun _ => (condI k (readS s w r.toNat).v imm, (readS s w r.toNat).psn)) 2) ∧
  (∀ (s : State) (c : Cm) (cu : Cur) (w : Wave) (d : SReg) (a b : SPair) (e : SSrc) (f : IntF),
     GivesS2 s (.sadd64 c d a b f) c cu w d.toNat
       (BitVec.ofNat 64 ((spair s w a).1.toNat + (spair s w b).1.toNat), (spair s w a).2 || (spair s w b).2) 3 ∧
     GivesS2 s (.ssub64 c d a b f) c cu w d.toNat
       (BitVec.ofInt 64 ((spair s w a).1.toNat - (spair s w b).1.toNat), (spair s w a).2 || (spair s w b).2) 3 ∧
     GivesS2 s (.sla c d a e f) c cu w d.toNat
       (BitVec.ofInt 64 ((spair s w a).1.toNat + num f (ssrc s w e).v * (2 ^ f.var.toNat : Nat)), (spair s w a).2 || (ssrc s w e).psn) 3)

/-- sdiv with a lane in E: it waits while an earlier sdiv of the wave is unfinished; otherwise the truncated quotient or the remainder, with the results
of R106 for a divisor of 0, is written 36 cycles later, and the divider is taken until then. With E empty it computes nothing and does not take the
divider (R114). -/
def Obligations.ScalarDivide : Prop :=
  ∀ (s : State) (c : Cm) (cu : Cur) (w : Wave) (d : SReg) (a b : SSrc) (f : IntF), Issues s (.sdiv c d a b f) c cu w →
    (exSet s c cu w = 0 → Gives (.sdiv c d a b f) s c cu.u []) ∧
    (exSet s c cu w ≠ 0 → s.cyc cu.u.w.die < w.sdivTill → exec (.sdiv c d a b f) s = .next s) ∧
    (exSet s c cu w ≠ 0 → w.sdivTill ≤ s.cyc cu.u.w.die → EndsAs (.sdiv c d a b f) s c cu.u { w with
        pend := w.pend ++ [due s (.s d.toNat) 1 [(0, ⟨(let x := num f (ssrc s w a).v
          let y := num f (ssrc s w b).v
          if y = 0 then (if f.var = 1 then (ssrc s w a).v else 0xFFFFFFFF)
          else BitVec.ofInt 32 (if f.var = 1 then x.tmod y else x.tdiv y)), (ssrc s w a).psn || (ssrc s w b).psn⟩)] 36]
        sdivTill := s.cyc cu.u.w.die + 36 })

/-- The vector integer instructions with one result: where one issues, the result of Table 4.3, R107 or R109 of each lane of E is written to V[d][l] with
the poison of the sources read for that lane, the cycles of Table 4.5 later, and nothing else changes (R102, R113, R114). -/
def Obligations.VectorIntegerResults : Prop :=
  ∀ (s : State) (c : Cm) (cu : Cur) (w : Wave) (d : VDst) (a b e : VSrc) (f : IntF),
    GivesV s (.vadd c d a b f) c cu w d (lane2 .int a b (fun x y => out f (num f x + num f y)) s w) 4 ∧
    GivesV s (.vsub c d a b f) c cu w d (lane2 .int a b (fun x y => out f (num f x - num f y)) s w) 4 ∧
    GivesV s (.vmul c d a b f) c cu w d
      (lane2 .int a b (fun x y => if f.var = 1 then BitVec.ofInt 32 (num f x * num f y / 2 ^ 32) else out f (num f x * num f y)) s w) 6 ∧
    GivesV s (.vmad c d a b e f) c cu w d (lane3 .int a b e (fun x y z => out f (num f x * num f y + num f z)) s w) 6 ∧
    GivesV s (.vand c d a b f) c cu w d (lane2 .int a b (fun x y => x &&& (if f.var = 1 then ~~~y else y)) s w) 4 ∧
    GivesV s (.vor c d a b f) c cu w d (lane2 .int a b (fun x y => x ||| (if f.var = 1 then ~~~y else y)) s w) 4 ∧
    GivesV s (.vxor c d a b f) c cu w d (lane2 .int a b (fun x y => x ^^^ (if f.var = 1 then ~~~y else y)) s w) 4 ∧
    GivesV s (.vshl c d a b f) c cu w d (lane2 .int a b (fun x y => if 32 ≤ y.toNat then 0 else x <<< y.toNat) s w) 4 ∧
    GivesV s (.vshr c d a b f) c cu w d (lane2 .int a b (fun x y => BitVec.ofInt 32 (num f x / (2 ^ min y.toNat 32 : Nat))) s w) 4 ∧
    GivesV s (.vmin c d a b f) c cu w d (lane2 .int a b (fun x y => if num f x ≤ num f y then x else y) s w) 4 ∧
    GivesV s (.vmax c d a b f) c cu w d (lane2 .int a b (fun x y => if num f x ≤ num f y then y else x) s w) 4 ∧
    GivesV s (.vabs c d a f) c cu w d (lane1 .int a (fun x => wrTy f.sat .s (x.toInt.natAbs : Int)) s w) 4 ∧
    GivesV s (.vsel c d a b f) c cu w d (fun l => let q := readP s w f.pq l
                                                  let x := vsrc s w .int (if q.1 then a else b) 0 l
                                                  ⟨x.v, x.psn || q.2⟩) 4 ∧
    GivesV s (.vmov c d a f) c cu w d (vsrc s w .int a 0) 4 ∧
    GivesV s (.vbit c d a f) c cu w d (lane1 .int a (aluBit f) s w) 4 ∧
    GivesV s (.vbfe c d a b f) c cu w d (lane2 .int a b (aluBfe f) s w) 4 ∧
    GivesV s (.vbfi c d a b e f) c cu w d (lane3 .int a b e aluBfi s w) 4 ∧
    GivesV s (.vdp4 c d a b e f) c cu w d (lane3 .int a b e (aluDp 8 4 f) s w) 6 ∧
    GivesV s (.vdp2 c d a b e f) c cu w d (lane3 .int a b e (aluDp 16 2 f) s w) 6 ∧
    GivesV s (.vsad c d a b e f) c cu w d (lane3 .int a b e (aluSad f) s w) 6

/-- The vector immediate forms have the effect of their counterparts with Opnd(B) replaced by IMM32 (R111); vcmpi writes P[D]. vli writes IMM32 into
V[D][l] for every l in E, and sli writes IMM32 into S[D] once, if E is not empty; unpoisoned, 4 and 2 cycles after issue (R112). -/
def Obligations.ImmediateResults : Prop :=
  (∀ (s : State) (c : Cm) (cu : Cur) (w : Wave) (d a : VReg) (imm : W32) (f : ArithI) (ar : Bool) (q : PReg) (k : CmpI),
     GivesV s (.vaddi c d a imm f) c cu w (.reg d) (lane1 .int (.reg a) (fun x => wrTy f.sat f.ty (rdTy f.ty x + rdTy f.ty imm)) s w) 4 ∧
     GivesV s (.vmuli c d a imm f) c cu w (.reg d) (lane1 .int (.reg a) (fun x => wrTy f.sat f.ty (rdTy f.ty x * rdTy f.ty imm)) s w) 6 ∧
     GivesV s (.vandi c d a imm) c cu w (.reg d) (lane1 .int (.reg a) (fun x => x &&& imm) s w) 4 ∧
     GivesV s (.vori c d a imm) c cu w (.reg d) (lane1 .int (.reg a) (fun x => x ||| imm) s w) 4 ∧
     GivesV s (.vxori c d a imm) c cu w (.reg d) (lane1 .int (.reg a) (fun x => x ^^^ imm) s w) 4 ∧
     GivesV s (.vshli c d a imm) c cu w (.reg d) (lane1 .int (.reg a) (fun x => if 32 ≤ imm.toNat then 0 else x <<< imm.toNat) s w) 4 ∧
     GivesV s (.vshri c d a imm ar) c cu w (.reg d)
       (lane1 .int (.reg a) (fun x => BitVec.ofInt 32 ((if ar then x.toInt else (x.toNat : Int)) / (2 ^ min imm.toNat 32 : Nat))) s w) 4 ∧
     GivesP s (.vcmpi c q a imm k) c cu w q (fun l => (condI k (readV s w a.toNat l).v imm, (readV s w a.toNat l).psn)) 4) ∧
  (∀ (s : State) (c : Cm) (cu : Cur) (w : Wave) (d : VReg) (r : SReg) (imm : W32),
     GivesV s (.vli c d imm) c cu w (.reg d) (fun _ => ⟨imm, false⟩) 4 ∧ GivesS s (.sli c r imm) c cu w r.toNat ⟨imm, false⟩ 2)

/-- vcmp writes P[PQ][l] for each lane of E (R105); vaddc and vsubb write the result and the carry or borrow together, in 32 bits, with the old carry a
source unless `.start` is given (R108, R113). -/
def Obligations.VectorCompareAndCarry : Prop :=
  ∀ (s : State) (c : Cm) (cu : Cur) (w : Wave) (d : VDst) (a b : VSrc) (f : IntF),
    let x := vsrc s w .int a 0
    let y := vsrc s w .int b 0
    let k := fun l : Nat => if f.var = 1 then (false, false) else readP s w f.pq l
    let p := fun l : Nat => (x l).psn || (y l).psn || (k l).2
    let n := fun l : Nat => (k l).1.toNat
    GivesP s (.vcmp c a b f) c cu w f.pq (fun l => (cond f.var (num f (x l).v) (num f (y l).v), (x l).psn || (y l).psn)) 4 ∧
    (Issues s (.vaddc c d a b f) c cu w → Gives (.vaddc c d a b f) s c cu.u
      (vecW s (effV s w d) (exSet s c cu w) (fun l => ⟨BitVec.ofNat 32 ((x l).v.toNat + (y l).v.toNat + n l), p l⟩) 4 ++
        predW s f.pq (exSet s c cu w) (fun l => (decide (2 ^ 32 ≤ (x l).v.toNat + (y l).v.toNat + n l), p l)) 4)) ∧
    (Issues s (.vsubb c d a b f) c cu w → Gives (.vsubb c d a b f) s c cu.u
      (vecW s (effV s w d) (exSet s c cu w) (fun l => ⟨BitVec.ofInt 32 ((x l).v.toNat - (y l).v.toNat - n l), p l⟩) 4 ++
        predW s f.pq (exSet s c cu w) (fun l => (decide ((x l).v.toNat < (y l).v.toNat + n l), p l)) 4))

/-- Facts about the results of Table 4.3, R103, R106 and R107: without SAT the three types of add, sub, mul and mad agree; a saturated result lies within
the bounds; abs; the bit operations; the corners of the division; and an inserted field is the field extracted again. Worked cases of chapters 03 and
05, and the canonical NaN and signed zeros of the FP32 operations. -/
def Obligations.ArithmeticFacts : Prop :=
  (∀ (f : IntF) (a b e sp : W32),
     (f.sat = false → aluAdd f a b = a + b ∧ aluSub f a b = a - b ∧ (f.var = 0 → aluMul f a b = a * b) ∧ aluMad f a b e = a * b + e) ∧
     (f.sat = true → rdTy f.ty (aluAdd f a b) = max (satLo f.ty) (min (satHi f.ty) (rdTy f.ty a + rdTy f.ty b))) ∧
     (f.sat = false → aluAbs f 0x80000000 = 0x80000000) ∧ (f.sat = true → aluAbs f 0x80000000 = 0x7FFFFFFF) ∧
     (∀ i, i < 32 → (aluBit { f with var := 3 } a).getLsbD i = a.getLsbD (31 - i)) ∧
     (∀ i, i < 4 → (aluBit { f with var := 4 } a).extractLsb' (8 * i) 8 = a.extractLsb' (8 * (3 - i)) 8) ∧
     (a ≠ 0 → ∃ n, n < 32 ∧ aluBit { f with var := 1 } a = BitVec.ofNat 32 (31 - n) ∧ a.getLsbD n = true ∧ ∀ j, n < j → a.getLsbD j = false) ∧
     (a ≠ 0 → ∃ n, n < 32 ∧ aluBit { f with var := 2 } a = BitVec.ofNat 32 n ∧ a.getLsbD n = true ∧ ∀ j, j < n → a.getLsbD j = false) ∧
     (aluBit { f with var := 1 } 0 = 32 ∧ aluBit { f with var := 2 } 0 = 32) ∧
     (aluDiv { f with var := 0, ty := .s } 0x80000000 0xFFFFFFFF = 0x80000000 ∧ aluDiv { f with var := 1, ty := .s } 0x80000000 0xFFFFFFFF = 0) ∧
     (aluDiv { f with var := 0 } a 0 = 0xFFFFFFFF ∧ aluDiv { f with var := 1 } a 0 = a) ∧
     (aluBfe { f with ty := .n } (aluBfi a b sp) sp = BitVec.ofNat 32 (b.toNat % 2 ^ fieldWidth sp))) ∧
  (fp32.add .rm 0x4B800000 0x3F800000 = 0x4B800000 ∧ fp32.add .rn 0x4B800000 0x3F800000 = 0x4B800000 ∧
   fp32.add .rz 0x4B800000 0x3F800000 = 0x4B800000 ∧ fp32.add .rp 0x4B800000 0x3F800000 = 0x4B800001 ∧
   frndOp .rz 0xBE99999A = 0x80000000 ∧ frndOp .rn 0x40200000 = 0x40000000 ∧
   cvtOp ⟨.n32, .f16, false, .rn, false⟩ 0xFFFFFFFF = 0x7C00 ∧ cvtOp ⟨.n32, .f16, true, .rn, false⟩ 0xFFFFFFFF = 0x7BFF ∧
   fpCmp ⟨0, 0, false, .rn⟩ 0x80000000 0 = true ∧ fp32.mul .rn 0x7F800000 0 = 0x7FC00000)

/-- The FP32 instructions with one result: where one issues, the result of Tables 5.1 and 5.2 of each lane of E is written to V[d][l] with the poison of
the sources read, the cycles of Table 5.11 later, and nothing else changes (R117 to R120, R135, R136). -/
def Obligations.FloatResults : Prop :=
  ∀ (s : State) (c : Cm) (cu : Cur) (w : Wave) (d : VDst) (a b e : VSrc) (f : FpF),
    GivesV s (.fadd c d a b f) c cu w d (lane2 .f32 a b (fun x y => fpOut f (fp32.add f.rnd x.toNat y.toNat)) s w) 4 ∧
    GivesV s (.fsub c d a b f) c cu w d (lane2 .f32 a b (fun x y => fpOut f (fp32.sub f.rnd x.toNat y.toNat)) s w) 4 ∧
    GivesV s (.fmul c d a b f) c cu w d (lane2 .f32 a b (fun x y => fpOut f (fp32.mul f.rnd x.toNat y.toNat)) s w) 4 ∧
    GivesV s (.ffma c d a b e f) c cu w d (lane3 .f32 a b e (fun x y z => fpOut f (fp32.fma f.rnd x.toNat y.toNat z.toNat)) s w) 4 ∧
    GivesV s (.fmin c d a b f) c cu w d (lane2 .f32 a b fpMin s w) 4 ∧
    GivesV s (.fmax c d a b f) c cu w d (lane2 .f32 a b fpMax s w) 4 ∧
    GivesV s (.frnd c d a f) c cu w d (lane1 .f32 a (fpRnd f) s w) 4 ∧
    GivesV s (.frcp c d a f) c cu w d (lane1 .f32 a fpRcp s w) 8 ∧
    GivesV s (.frsq c d a f) c cu w d (lane1 .f32 a fpRsq s w) 8 ∧
    GivesV s (.fex2 c d a f) c cu w d (lane1 .f32 a fpEx2 s w) 8 ∧
    GivesV s (.flg2 c d a f) c cu w d (lane1 .f32 a fpLg2 s w) 8 ∧
    GivesV s (.fscl c d a b f) c cu w d (fun l => ⟨fpScl f (vsrc s w .f32 a 0 l).v (vsrc s w .int b 0 l).v,
      (vsrc s w .f32 a 0 l).psn || (vsrc s w .int b 0 l).psn⟩) 4 ∧
    GivesP s (.fcmp c a b f) c cu w f.pq (fun l => (fpCmp f (vsrc s w .f32 a 0 l).v (vsrc s w .f32 b 0 l).v,
      (vsrc s w .f32 a 0 l).psn || (vsrc s w .f32 b 0 l).psn)) 4 ∧
    GivesP s (.fcls c a b f) c cu w f.pq (fun l => (fpCls (vsrc s w .f32 a 0 l).v (vsrc s w .int b 0 l).v,
      (vsrc s w .f32 a 0 l).psn || (vsrc s w .int b 0 l).psn)) 4

/-- fcls writes to PQ, in each lane of E, whether the bit of B that A's class names is set: 0 for −∞, 1 negative normal, 2 negative subnormal, 3 −0, 4 +0,
5 positive subnormal, 6 positive normal, 7 +∞, 8 NaN; bits [31:9] of B are ignored (R119). -/
def Obligations.FloatClasses : Prop :=
  ∀ (s : State) (c : Cm) (cu : Cur) (w : Wave) (a b : VSrc) (f : FpF), Issues s (.fcls c a b f) c cu w →
    let class' := fun x : W32 =>
      let neg := x.getLsbD 31
      let e := x.extractLsb' 23 8
      let m := x.extractLsb' 0 23
      if e = 255 then (if m ≠ 0 then 8 else if neg then 0 else 7)
      else if e = 0 then (if m = 0 then (if neg then 3 else 4) else if neg then 2 else 5)
      else if neg then 1 else 6
    let x := vsrc s w .f32 a 0
    let y := vsrc s w .int b 0
    Gives (.fcls c a b f) s c cu.u (predW s f.pq (exSet s c cu w) (fun l => ((y l).v.getLsbD (class' (x l).v), (x l).psn || (y l).psn)) 4)

/-- fdiv and fsqrt share the slice's divide unit: with no lane in E nothing is computed and the unit is not taken; else one stalls until the unit is free,
and then takes it for 8 cycles and writes the quotient or root 20 or 16 cycles later (R117, R136). -/
def Obligations.DivideUnit : Prop :=
  ∀ (s : State) (c : Cm) (cu : Cur) (w : Wave) (d : VDst) (a b : VSrc) (f : FpF),
    (Issues s (.fdiv c d a b f) c cu w →
      (exSet s c cu w = 0 → Gives (.fdiv c d a b f) s c cu.u []) ∧
      (exSet s c cu w ≠ 0 → divFree s cu.u.w = false → exec (.fdiv c d a b f) s = .next s) ∧
      (exSet s c cu w ≠ 0 → divFree s cu.u.w = true → 
        let ps := vecW s (effV s w d) (exSet s c cu w) (lane2 .f32 a b (fun x y => fpOut f (fp32.div f.rnd (fp32.dec x.toNat) (fp32.dec y.toNat))) s w) 20
        Completes (.fdiv c d a b f) s c cu.u (adds (takesDiv (s.advance cu.u 1) cu.u.w) cu.u.w ps) ∧
        ∃ t, exec (.fdiv c d a b f) s = .next t ∧ OnlyWave (takesDiv s cu.u.w) t cu.u.w ∧ Writes s t cu.u.w ps)) ∧
    (Issues s (.fsqrt c d a f) c cu w →
      (exSet s c cu w = 0 → Gives (.fsqrt c d a f) s c cu.u []) ∧
      (exSet s c cu w ≠ 0 → divFree s cu.u.w = false → exec (.fsqrt c d a f) s = .next s) ∧
      (exSet s c cu w ≠ 0 → divFree s cu.u.w = true → 
        let ps := vecW s (effV s w d) (exSet s c cu w) (lane1 .f32 a (fun x => fpOut f (fp32.sqrt f.rnd (fp32.dec x.toNat))) s w) 16
        Completes (.fsqrt c d a f) s c cu.u (adds (takesDiv (s.advance cu.u 1) cu.u.w) cu.u.w ps) ∧
        ∃ t, exec (.fsqrt c d a f) s = .next t ∧ OnlyWave (takesDiv s cu.u.w) t cu.u.w ∧ Writes s t cu.u.w ps))

/-- The packed instructions and hdot2 work on the two halves of each lane, and cvt and pack convert each lane (R121 to R124, R128), written the cycles of
Table 5.11 later with the poison of the sources (R135). cvtn without a scale replaces two elements of D in each lane and sets NANDROP where a NaN of a
lane of E was dropped; with a scale it writes the codes of the block across E and the scale itself, the scale alone where both name one register,
leaving NANDROP (R125 to R127, R82). That a constant source of cvt is the packed pattern for .f16 and .bf16 and the 32-bit integer for .s16 and .n16 is the
model's choice (log entry 16). -/
def Obligations.PackedAndConversionResults : Prop :=
  (∀ (s : State) (c : Cm) (cu : Cur) (w : Wave) (d : VDst) (a b e : VSrc) (f : PkF) (k : CvtF) (p : PackF),
     GivesV s (.hadd2 c d a b f) c cu w d (lane2 (pkTy f) a b (hpAdd f) s w) 4 ∧
     GivesV s (.hmul2 c d a b f) c cu w d (lane2 (pkTy f) a b (hpMul f) s w) 4 ∧
     GivesV s (.hfma2 c d a b e f) c cu w d (lane3 (pkTy f) a b e (hpFma f) s w) 4 ∧
     GivesV s (.hmin2 c d a b f) c cu w d (lane2 (pkTy f) a b (hpMin f) s w) 4 ∧
     GivesV s (.hmax2 c d a b f) c cu w d (lane2 (pkTy f) a b (hpMax f) s w) 4 ∧
     GivesV s (.hcmp2 c d a b f) c cu w d (lane2 (pkTy f) a b (hpCmp f) s w) 4 ∧
     GivesV s (.hdot2 c d a b e f) c cu w d
       (fun l => ⟨hpDot f (vsrc s w (pkTy f) a 0 l).v (vsrc s w (pkTy f) b 0 l).v (vsrc s w .f32 e 0 l).v,
         (vsrc s w (pkTy f) a 0 l).psn || (vsrc s w (pkTy f) b 0 l).psn || (vsrc s w .f32 e 0 l).psn⟩) 6 ∧
     GivesV s (.cvt c d a k) c cu w d (lane1 (cvtSrcTy k.st) a (cvtLane k) s w) 4 ∧
     GivesV s (.pack c d a b p) c cu w d (lane2 (if p.var = 2 then .int else .f32) a b (packLane p) s w) 4) ∧
  (∀ (s : State) (c : Cm) (cu : Cur) (w : Wave) (d q : VDst) (a b : VSrc) (f : CvtnF),
     let x := vsrc s w .f32 a 0
     let y := vsrc s w .f32 b 0
     let o := readV s w (effV s w d)
     let e := exSet s c cu w
     let g := fun l : Nat => cvtnLane f (o l).v (x l).v (y l).v
     let k := blockScale f.fmt ((lanes e).flatMap (fun l => [fp32.dec (x l).v.toNat, fp32.dec (y l).v.toNat]))
     let psn := (lanes e).any (fun l => (x l).psn || (y l).psn)
     (Issues s (.cvtn c d a b none f) c cu w → EndsAs (.cvtn c d a b none f) s c cu.u
       { w with
         pend := w.pend ++ vecW s (effV s w d) e (fun l => ⟨(g l).1, (x l).psn || (y l).psn || (o l).psn⟩) 6
         nandrop := w.nandrop || (lanes e).any (fun l => (g l).2) }) ∧
     (Issues s (.cvtn c d a b (some q) f) c cu w → Gives (.cvtn c d a b (some q) f) s c cu.u
       ((if effV s w q = effV s w d then [] else vecW s (effV s w d) e (fun l => ⟨cvtnScLane f k (o l).v (x l).v (y l).v, psn || (o l).psn⟩) 10) ++
         vecW s (effV s w q) e (fun _ => ⟨BitVec.ofNat 32 k.1, psn⟩) 10)))

/-- shfl takes the A value of the source lane that lies in E, else the lane's own C value, and writes whether the source was valid to PQ; vred writes the
tree of R96 to every lane of E, vscan each lane's own result, a NaN in its canonical form (R71, R98); v2s one lane's value or 0; vins one lane (R130 to R135). -/
def Obligations.LaneExchange : Prop :=
  ∀ (s : State) (c : Cm) (cu : Cur) (w : Wave) (d : VDst) (a b e : VSrc) (f : ShflF) (g : RedF) (r : SReg) (n : SSrc),
    let ex := exSet s c cu w
    let k := vsrc s w .int b 0
    let src := fun l : Nat => (shflSrc f.m.toNat l (k l).v).bind (fun j => if ex.getLsbD j then some j else none)
    let v := fun l : Nat => match src l with
      | some j => vsrc s w .int a 0 j
      | none => vsrc s w .int e 0 l
    let tree : List Val := perLane (fun l => if ex.getLsbD l then vsrc s w (redTy g) a 0 l else ⟨redId g, false⟩)
    let scan := scanRed (redStep g) ⟨redId g, false⟩ tree
    let canon := fun x : Val => if g.ty = .f ∧ (fp32.dec x.v.toNat).isNan then (⟨0x7FC00000, x.psn⟩ : Val) else x
    (Issues s (.shfl c d a b e f) c cu w → Gives (.shfl c d a b e f) s c cu.u
      (vecW s (effV s w d) ex (fun l => ⟨(v l).v, (v l).psn || (k l).psn⟩) 6 ++ predW s f.pq ex (fun l => ((src l).isSome, (k l).psn)) 6)) ∧
    GivesV s (.vred c d a g) c cu w d (fun _ => (treeRed (redStep g) 5 tree).headD ⟨redId g, false⟩) 14 ∧
    GivesV s (.vscan c d a g) c cu w d
      (fun l => canon (if g.excl then (if l = 0 then ⟨redId g, false⟩ else lget Val.zero scan (l - 1)) else lget Val.zero scan l)) 14 ∧
    GivesS s (.v2s c r a none) c cu w r.toNat (vsrc s w .int a 0 ((lanes ex).headD 0)) 6 ∧
    GivesS s (.v2s c r a (some n)) c cu w r.toNat
      (if (ssrc s w n).v.toNat < 32 ∧ ex.getLsbD (ssrc s w n).v.toNat then
        ⟨(vsrc s w .int a 0 (ssrc s w n).v.toNat).v, (vsrc s w .int a 0 (ssrc s w n).v.toNat).psn || (ssrc s w n).psn⟩
       else ⟨0, (ssrc s w n).psn⟩) 6 ∧
    (Issues s (.vins c d a n) c cu w → Gives (.vins c d a n) s c cu.u
      (if (ssrc s w n).v.toNat < 32 ∧ ex.getLsbD (ssrc s w n).v.toNat then
        [due s (.v (effV s w d)) (1#32 <<< (ssrc s w n).v.toNat) [((ssrc s w n).v.toNat,
          ⟨(vsrc s w .int a 0 (ssrc s w n).v.toNat).v, (vsrc s w .int a 0 (ssrc s w n).v.toNat).psn || (ssrc s w n).psn⟩)] 4]
       else []))

/-- The predicate instructions compute on each lane of E (R129), and pmov moves a predicate, the bits of a value, or its truth (Table 5.9). elect sets the
predicate in the lowest lane of E and clears it in the others; vote combines a predicate over E as or, and, eq, a mask or a count, poisoned where a
lane of E is (R196, R197). -/
def Obligations.PredicatesAndVotes : Prop :=
  (∀ (s : State) (c : Cm) (cu : Cur) (w : Wave) (d a b : PReg) (f : NotF) (x : VSrc) (v : VDst),
     let p := readP s w a
     let q := readP s w b
     GivesP s (.pand c d a b f) c cu w d (fun l => ((p l).1 && xor (q l).1 f.inv, (p l).2 || (q l).2)) 2 ∧
     GivesP s (.por c d a b f) c cu w d (fun l => ((p l).1 || xor (q l).1 f.inv, (p l).2 || (q l).2)) 2 ∧
     GivesP s (.pxor c d a b f) c cu w d (fun l => (xor (p l).1 (xor (q l).1 f.inv), (p l).2 || (q l).2)) 2 ∧
     GivesP s (.pnot c d a) c cu w d (fun l => (!(p l).1, (p l).2)) 2 ∧
     GivesP s (.pmov c (.p d a)) c cu w d p 2 ∧
     GivesP s (.pmov c (.set d x)) c cu w d (fun l => ((vsrc s w .int x 0 l).v.getLsbD l, (vsrc s w .int x 0 l).psn)) 2 ∧
     GivesP s (.pmov c (.nz d x)) c cu w d (fun l => ((vsrc s w .int x 0 l).v != 0, (vsrc s w .int x 0 l).psn)) 2 ∧
     GivesV s (.pmov c (.v v a)) c cu w v (fun l => ⟨if (p l).1 then 1 else 0, (p l).2⟩) 2) ∧
  (∀ (s : State) (c : Cm) (cu : Cur) (w : Wave) (d a : PReg) (r : SReg),
     let e := exSet s c cu w
     let t := maskOf (fun l => e.getLsbD l && (readP s w a l).1)
     let psn := (lanes e).any (fun l => (readP s w a l).2)
     GivesP s (.elect c d) c cu w d (fun l => (decide ((lanes e).head? = some l), false)) 2 ∧
     GivesP s (.vote c (.or d) a) c cu w d (fun _ => (t != 0, psn)) 4 ∧
     GivesP s (.vote c (.and d) a) c cu w d (fun _ => (t == e, psn)) 4 ∧
     GivesP s (.vote c (.eq d) a) c cu w d (fun _ => (t == 0 || t == e, psn)) 4 ∧
     GivesS s (.vote c (.bits r) a) c cu w r.toNat ⟨t, psn⟩ 4 ∧
     GivesS s (.vote c (.cnt r) a) c cu w r.toNat ⟨BitVec.ofNat 32 (popcount t), psn⟩ 4)

/-- bra, brm, brx and ret send the lanes of E to their targets and the other lanes of MASK to the next header, dividing the split where they differ; a
split with one destination goes there whole (R207, R216, R217) and keeps its RPC, at a ret too by the model's choice (log entry 62). Lanes whose guard, tested
predicate or offset is poisoned fault with 0x104, and those with a misaligned offset with 0x105 (R14, R216); the others divide once these are parked, or
no lane goes where they cannot be; where the sets of the others find too few places the word raises trap 0x304 before any lane is parked (R207). -/
def Obligations.BranchesDivide : Prop :=
  ∀ (s : State) (c : Cm) (cu : Cur) (w : Wave) (tgt rpc : BitVec 24) (pairs : List (PReg × BitVec 16)) (a : VSrc),
    let is := issueOf s c cu w
    let nx := nextHeader is.sp
    let off := fun l : Nat => if is.e.getLsbD l then codeAddr s w (vsrc s w .int a 0 l).v else nx
    let pr := fun l : Nat => if is.e.getLsbD l then brmLane s w is.sp.pc nx l pairs else (nx, false)
    Divides s (.bra c tgt rpc) c cu w 1 (faultMask is.gp 0x104) (fun l => if is.e.getLsbD l then relAddr is.sp.pc tgt else nx)
      (rpcOf is.sp.pc rpc) (fun s _ => s) [] ∧
    Divides s (.brm c pairs rpc) c cu w 2 (faultMask (maskOf (fun l => is.gp.getLsbD l || (is.sp.mask.getLsbD l && (pr l).2))) 0x104)
      (fun l => (pr l).1) (rpcOf is.sp.pc rpc) (fun s _ => s) [] ∧
    Divides s (.brx c a rpc) c cu w 1 (offFaults s is a) off (rpcOf is.sp.pc rpc) (fun s _ => s) [] ∧
    Divides s (.ret c a) c cu w 1 (offFaults s is a) off noneRpc (fun s _ => s) []

/-- call and callx write the return offset, the next header as an offset from CODE_VA, to V[d] of each lane of E, and send those lanes to the target with
the return point as reconvergence PC (R217). The cycle of the link write is the model's (log entry 18). Lanes that fault, and a division with too many sets
(trap 0x304), are as for a branch, and no link is written in them (R14, R207). -/
def Obligations.CallsWriteLink : Prop :=
  ∀ (s : State) (c : Cm) (cu : Cur) (w : Wave) (d : VDst) (tgt : BitVec 24) (a : VSrc),
    let is := issueOf s c cu w
    let nx := nextHeader is.sp
    let link : Val := ⟨BitVec.ofNat 32 (nx.toNat + 2 ^ 56 - codeVa s w % 2 ^ 56), false⟩
    let ps := vecW s (effV s w d) is.e (fun _ => link) Config.linkCycles
    Divides s (.call c d tgt) c cu w 1 (faultMask is.gp 0x104) (fun l => if is.e.getLsbD l then relAddr is.sp.pc tgt else nx)
      (nx.setWidth 64) (writeLink d) ps ∧
    Divides s (.callx c d a) c cu w 1 (offFaults s is a) (fun l => if is.e.getLsbD l then codeAddr s w (vsrc s w .int a 0 l).v else nx)
      (nx.setWidth 64) (writeLink d) ps

/-- A division loses no lane and sends each where it was to go: every lane of MASK stands afterwards in a split in use at its destination, or in a stack
entry with that target; a split in use whose lanes are none of MASK is as it was, and the entries already on the stack stand below (R207, R208). -/
def Obligations.DivisionPlacesEveryLane : Prop :=
  ∀ (s : State) (i : Issue) (w : Wave) (dest : Nat → Addr) (rpc : W64),
    s.wave i.u.w = some w → w.splits.length = 4 → i.u.k < 4 → (w.split i.u.k).inUse = true → (w.split i.u.k).mask = i.sp.mask →
    i.sp.mask ≠ 0 → divideBad s i ((lanes i.sp.mask).map (fun l => (l, dest l))) = false →
    ∃ v, (divide s i ((lanes i.sp.mask).map (fun l => (l, dest l))) rpc).wave i.u.w = some v ∧
      (∀ l, l < 32 → i.sp.mask.getLsbD l = true →
        (∃ k, k < 4 ∧ (v.split k).inUse = true ∧ (v.split k).mask.getLsbD l = true ∧ (v.split k).pc = dest l) ∨
        (∃ x ∈ v.stack, x.mask.getLsbD l = true ∧ x.target = dest l)) ∧
      (∀ k, k < 4 → k ≠ i.u.k → (w.split k).inUse = true → (w.split k).mask ≠ 0 → (w.split k).mask &&& i.sp.mask = 0 → v.split k = w.split k) ∧
      ∃ n, v.stack.drop n = w.stack

/-- exit retires the lanes of E from the wave and from the block's barrier slots, and takes them from MASK (R218, R221, R231), whatever entries of a twin
are unmatched; with E empty nothing happens. Since it withdraws its lanes there, it waits at issue behind the wave's own arrivals at any slot that wait for
stores (R244). That the wave keeps which lanes exited last, for a restart, is log entry 83, the model's reading. -/
def Obligations.ExitRetiresLanes : Prop :=
  ∀ (s : State) (c : Cm) (cu : Cur) (w : Wave), Issues s (.exit c) c cu w →
    let e := exSet s c cu w
    (e = 0 → Gives (.exit c) s c cu.u []) ∧
    (e ≠ 0 → syncsOut (s.advance cu.u 1) w (fun _ => true) = true → exec (.exit c) s = .next s) ∧
    (e ≠ 0 → syncsOut (s.advance cu.u 1) w (fun _ => true) = false →
      Completes (.exit c) s c cu.u ((retireLanes (s.advance cu.u 1) cu.u.w e).updWave cu.u.w (fun w =>
        let x := w.split cu.u.k
        let m := x.mask &&& ~~~e
        let w := { w with lastExit := e }
        if m = 0 then w.freeSplit cu.u.k .exited else w.setSplit cu.u.k { x with mask := m })))

/-- wsync gathers the issuing split's lanes into WSM at its word, with the cycle its S bit is over, or holds the split where WSM gathers at another word; a
guard other than p7 raises trap 0x002 (R214, R43). yield without PREQ does nothing; with PREQ it brings the split to rest, and with LVE records the wave's live count, the larger of two
(R161); a live count above the allotment raises trap 0x003. sleep puts the whole split into SLEEP for min(A, 2^20) cycles, or nothing for 0 (R199). -/
def Obligations.WavesPause : Prop :=
  (∀ (s : State) (c : Cm) (cu : Cur) (w : Wave), Issues s (.wsync c) c cu w →
     let is := issueOf s c cu w
     let n := wordAfter is.sp 1
     (c.pg ≠ 7 ∨ c.pn = true → Completes (.wsync c) s c cu.u (trapIs (s.advance cu.u 1) is 0x002 0)) ∧
     (c.pg = 7 → c.pn = false → (w.wsm = 0 ∨ w.wspc = is.sp.pc) → Completes (.wsync c) s c cu.u
       ((s.advance cu.u 1).updWave cu.u.w (fun w => { w.freeSplit cu.u.k .unused with
         wsm := w.wsm ||| is.sp.mask, wspc := is.sp.pc, wsNext := n.1, wsHdr := if n.2 then n.1 else is.sp.hdr
         wsTill := if c.s && !w.ilk then max w.wsTill (fixedTill w) else w.wsTill }))) ∧
     (c.pg = 7 → c.pn = false → w.wsm ≠ 0 → w.wspc ≠ is.sp.pc → Completes (.wsync c) s c cu.u
       ((s.advance cu.u 1).updWave cu.u.w (fun w => w.setSplit cu.u.k { is.sp with st := .waitMerge, last := s.cyc cu.u.w.die + 1 })))) ∧
  (∀ (s : State) (c : Cm) (cu : Cur) (w : Wave) (lve : Bool) (live : BitVec 6) (a : SSrc),
     let n := (live.toNat + 1) * 8
     let m := min (ssrc s w a).v.toNat (2 ^ 20)
     (Issues s (.yield c lve live) c cu w →
       (exSet s c cu w = 0 ∨ ((lve = false ∨ n ≤ w.allot) ∧ w.preq = false) → Gives (.yield c lve live) s c cu.u []) ∧
       (exSet s c cu w ≠ 0 → lve = true → w.allot < n → Completes (.yield c lve live) s c cu.u (trapIs (s.advance cu.u 1) (issueOf s c cu w) 0x003 0)) ∧
       (exSet s c cu w ≠ 0 → (lve = false ∨ n ≤ w.allot) → w.preq = true → Completes (.yield c lve live) s c cu.u
         ((s.advance cu.u 1).updWave cu.u.w (fun w =>
           let v := if lve then { w with live := some (max n (w.live.getD 0)) } else w
           v.setSplit cu.u.k { v.split cu.u.k with hold := .yielded })))) ∧
     (Issues s (.sleep c a) c cu w →
       (exSet s c cu w = 0 ∨ ((ssrc s w a).psn = false ∧ m = 0) → Gives (.sleep c a) s c cu.u []) ∧
       (exSet s c cu w ≠ 0 → (ssrc s w a).psn = false → m ≠ 0 → Completes (.sleep c a) s c cu.u
         ((s.advance cu.u 1).updSplit cu.u (fun x => { x with st := .sleep (s.cyc cu.u.w.die + m) }))) ∧
       (exSet s c cu w ≠ 0 → (ssrc s w a).psn = true → Completes (.sleep c a) s c cu.u
         (faultThen (s.advance cu.u 1) (issueOf s c cu w) false (faultMask (exSet s c cu w) 0x104) (fun s _ => s)))))

/-- trap #n raises cause 0x040 + n with INFO n at the word after it, and brk raises 0x011 with its tag at its own word, where E is not empty (R146, R159).
Every privileged instruction outside ASID 0 raises trap 0x010, and every instruction that names a vector register out of the wave's bounds raises
0x003, whatever its guard, at the word itself and with no other effect (R50, R61; an index register that an interlocked wave must wait for is waited
for first, R48). A word at the PC with an unassigned opcode raises 0x001, one of another class than its clause or out of its place 0x004, a privileged
one outside ASID 0 0x010, one with a bad function 0x001 and with a reserved bit 0x002; a header with a bad class raises 0x004 and one with a reserved
bit 0x002 as its clause is entered (R36, R61). -/
def Obligations.SoftwareTraps : Prop :=
  (∀ (s : State) (c : Cm) (cu : Cur) (w : Wave) (n : BitVec 6) (tag : BitVec 16),
     let is := issueOf s c cu w
     let p := wordAfter is.sp 1
     let back := (s.advance cu.u 1).updSplit cu.u (fun _ => is.sp)
     (Issues s (.trap c n) c cu w →
       (is.e = 0 → Gives (.trap c n) s c cu.u []) ∧
       (is.e ≠ 0 → Completes (.trap c n) s c cu.u (takeTrap back cu.u p.1 (if p.2 then p.1 else is.sp.hdr) (0x040 + n.toNat) n.toNat))) ∧
     (Issues s (.brk c tag) c cu w →
       (is.e = 0 → Gives (.brk c tag) s c cu.u []) ∧
       (is.e ≠ 0 → Completes (.brk c tag) s c cu.u (takeTrap back cu.u is.sp.pc is.sp.hdr 0x011 tag.toNat)))) ∧
  (∀ (s : State) (cu : Cur) (w : Wave) (i : Instr) (w0 : W64) (t : List W64), i.wf = true → encode i = w0 :: t → s.cur = some cu → s.wave cu.u.w = some w →
     let is := issueOf s (decCm w0) cu w
     (isPriv i = true → w.asid ≠ 0 → exec i s = .next (trapIs s is 0x010 0)) ∧
     ((isPriv i = false ∨ w.asid = 0) → idxHazard s w (refsOf i) = false → boundsBad s w (refsOf i) = true → exec i s = .next (trapIs s is 0x003 0))) ∧
  (∀ (c : Cm) (d : SReg) (p : SPair) (a : SSrc), ∀ i ∈ [(.pgInvalPage c d p a : Instr), .pgInvalAsid c d a, .pgInvalAll c d, .psyswCreate c d a p,
     .psyswPreempt c d a p, .psyswRestore c d a p, .psyswDestroy c d a p, .psyswSetdl c d a p, .qctlOpen c d a p, .qctlPause c d a p, .qctlResume c d a p,
     .qctlDrain c d a p, .qctlFlush c d a p], isPriv i = true) ∧
  (∀ (s a : State) (d c sl : Nat) (rest : List Move) (u : SplitRef) (w : Wave) (w0 w1 : W64), TurnWord s d c sl rest u w w0 w1 a →
     let x := w.split u.k
     let t := fun (k : Nat) => ended s rest d u (takeTrap a u x.pc x.hdr k 0)
     let trap := fun (k : Nat) => (t k).heldBack = false → step s = .next (t k)
     let inPlace := fitsClause (x.hdrw.getD 0) (fOp w0).toNat && !placementBad w0 w1 (wordsLeft x)
     let priv := decide (0xF0 ≤ (fOp w0).toNat) && w.asid != 0
     (decode w0 (some w1) = .error .badOp → trap 0x001) ∧
     (decode w0 (some w1) ≠ .error .badOp → inPlace = false → trap 0x004) ∧
     (decode w0 (some w1) ≠ .error .badOp → inPlace = true → priv = true → trap 0x010) ∧
     (inPlace = true → priv = false → decode w0 (some w1) = .error .badFunc → trap 0x001) ∧
     (inPlace = true → priv = false → decode w0 (some w1) = .error .reserved → trap 0x002)) ∧
  (∀ (s a : State) (d c sl : Nat) (rest : List Move) (u : SplitRef) (w : Wave) (h : W64),
     s.agenda = .issue d c sl :: rest → u.w.die = d → u.w.core = c → sliceOfSlot u.w.slot = sl → sliceAct (begun s d rest) d c sl = .enter u →
     (begun s d rest).wave u.w = some w → (w.split u.k).recheck = false → fetchWord (begun s d rest) w (w.split u.k).hdr = (a, h, 0) →
     let x := w.split u.k
     let t := fun (k : Nat) => settleMove (later ((begun s d rest).oneCycle d) (takeTrap a u x.hdr x.hdr k 0))
     let trap := fun (k : Nat) => (t k).heldBack = false → step s = .next (t k)
     (4 ≤ (h.extractLsb' 60 4).toNat → trap 0x004) ∧
     ((h.extractLsb' 60 4).toNat < 4 → (h.extractLsb' 0 47 ≠ 0 ∨ (h.getLsbD 53 = false ∧ h.extractLsb' 48 5 ≠ 0)) → trap 0x002))

/-- A trap in handler mode is a double trap, and one in a context without a handler ends the kernel: the wave's kernel is aborted with reason 2 after a
record of kind 1, which waits for the wave's stores (R146, R149, R150, R151). Otherwise the wave's mx that have not committed are abandoned, and its
stores, atomics, copy and matrix commands that have not left the core, being issued after all its operations that have or that the replay queue does not
hold, join the replay queue in issue order, while every other operation is as it was; the handler is entered once no operation outside the replay queue
is left (R147, R336). Which operations have left the core, and that they leave in issue order, is the model's (log entries 21, 23, 33 and 50).
HANDLER_ENTRY with nothing of the wave left to drain, its fixed-latency results written and a frame that can be read and written: the wave is in handler
mode with the frame of Table 6.4 written at its frame address, s0:1 holding that address, s2 the cause and s3 the split's index; the trapping split stands at the handler as a header,
runnable, and every other split is frozen as it stood (R146, R147). That the poison of s0 to s3 is kept beside the frame, and that HANDLER counts in its low 56 bits,
is the model's choice (log entry 46). Before that nothing happens. A record has the fields of Table 6.6 and names the wave that issued the event, or none. It
goes to slot PROD of a usable queue of Table 6.5, PROD rising by one; a record of kind 1 or 2 that finds PROD − CONS at the size adds one to DROPS, up to
2^32 − 1; one whose queue is unusable is told of in ASID 0's queue with cause 0x307 (R151). A record on its way counts as in the queue (log entry 13). -/
def Obligations.TrapsAndHandlerEntry : Prop :=
  (∀ (s : State) (u : SplitRef) (w : Wave) (pc hdr : Addr) (cause info : Nat), s.wave u.w = some w →
     (w.hmode = true → takeTrap s u pc hdr cause info = abortKernel (recordOf s u.w w 0 1 0x305 0 0 cause pc.toNat) w.kernel 2 0x305) ∧
     (w.hmode = false → (s.ctx w.asid).handler = 0 → takeTrap s u pc hdr cause info = abortKernel (recordOf s u.w w 0 1 cause 0 0 0 pc.toNat) w.kernel 2 cause) ∧
     (w.hmode = false → (s.ctx w.asid).handler ≠ 0 → ∃ t v q, t.wave u.w = some v ∧ v = { w with trap := some ⟨u.k, pc, hdr, cause, info⟩, rq := w.rq ++ q } ∧
       t = { abandonMx s w.uid false with waves := t.waves, ops := s.ops.map (fun o => (o.1, if q.contains o.1 then { o.2 with inRq := true } else o.2)) } ∧
       (∀ r, r ≠ u.w → t.wave r = s.wave r) ∧ q.Sublist (s.ops.map (·.1)) ∧
       (∀ o, o ∈ q ↔ 0 < o ∧ ∃ x, (o, x) ∈ s.ops ∧ x.wuid = w.uid ∧ x.performed = false ∧ x.left = false ∧ isCapturedKind x.kind = true ∧
         ∀ p y, (p, y) ∈ s.ops → y.wuid = w.uid → y.performed = false → y.kind ≠ .result → (y.left = true ∨ isCapturedKind y.kind = false) → p < o) ∧
       takeTrap s u pc hdr cause info = enterHandler t u.w ∧ (drainWait t w.uid = true → takeTrap s u pc hdr cause info = t)) ∧
     (w.hmode = false → (s.ctx w.asid).handler ≠ 0 → s.ops.all (fun o => o.2.wuid != w.uid) = true → takeTrap s u pc hdr cause info =
       enterHandler (abandonMx (s.setWave u.w { w with trap := some ⟨u.k, pc, hdr, cause, info⟩ }) w.uid false) u.w)) ∧
  (∀ (s s1 s2 : State) (r : WaveRef) (w : Wave) (t : TrapIn) (d : List Byte) (va : Nat), s.wave r = some w → w.trap = some t →
     (drainWait s w.uid = true ∨ s.cyc r.die < fixedTill w → exec (.handlerEntry r) s = .next s) ∧
     (let w' := settleWave (s.cyc r.die) w
      let f := frameAddr s r w'
      drainWait s w.uid = false → fixedTill w ≤ s.cyc r.die → t.k < w'.splits.length → devRead s w'.asid f 256 = (s1, d, 0, va) →
      coreStoreNow s1 r.die r.core w'.asid f (frameBytes s1 w' t) = (s2, 0) →
      ∃ x v, exec (.handlerEntry r) s = .next x ∧ x.wave r = some v ∧ x = { s2 with waves := x.waves } ∧ (∀ q, q ≠ r → x.wave q = s2.wave q) ∧
        v.hmode = true ∧ v.frame = f ∧ v.savedPsn = (List.range 4).map (fun n => (baseS w' n).psn) ∧ v.savedRep = (w'.split t.k).replay.map (fun c => (t.pc, c)) ∧ v.hdepth = w'.stack.length ∧ v.trap = none ∧ v.stack = w'.stack ∧ v.v = w'.v ∧ v.p = w'.p ∧ v.x = w'.x ∧
        baseS v 0 = ⟨BitVec.ofNat 32 f, false⟩ ∧ baseS v 1 = ⟨BitVec.ofNat 32 (f / 2 ^ 32), false⟩ ∧
        baseS v 2 = ⟨BitVec.ofNat 32 t.cause, false⟩ ∧ baseS v 3 = ⟨BitVec.ofNat 32 t.k, false⟩ ∧ (∀ n, 4 ≤ n → baseS v n = baseS w' n) ∧
        (v.split t.k).pc = BitVec.ofNat 56 (s2.ctx w'.asid).handler ∧ (v.split t.k).hdr = BitVec.ofNat 56 (s2.ctx w'.asid).handler ∧
        (v.split t.k).st = .runnable ∧ (v.split t.k).hold = .none ∧ (v.split t.k).hdrw = none ∧ (v.split t.k).frozen = false ∧ (v.split t.k).replay = none ∧ (v.split t.k).mask = (w'.split t.k).mask ∧
        ∀ k, k ≠ t.k → k < w'.splits.length → v.split k = { w'.split k with frozen := true })) ∧
  (∀ (kind cause fid lmask va : Nat) (who : Who), kind < 4 → cause < 1024 → fid < 2 ^ 16 → lmask < 2 ^ 32 → va < 2 ^ 64 →
     who.die < 256 → who.core < 256 → who.slot < 256 → who.block < 2 ^ 32 → who.pc < 2 ^ 64 → who.clk < 2 ^ 64 →
     let d := recordBytes kind cause fid lmask va who
     let q := fun i : Nat => leVal ((d.drop (8 * i)).take 8)
     d.length = 64 ∧ bits (q 0) 56 8 = 0 ∧ bits (q 0) 48 8 = who.slot ∧ bits (q 0) 40 8 = who.core ∧ bits (q 0) 32 8 = who.die ∧ bits (q 0) 28 4 = 0 ∧
       bits (q 0) 26 2 = kind ∧ bits (q 0) 16 10 = cause ∧ bits (q 0) 0 16 = fid ∧ q 1 = lmask ∧ q 2 = who.pc ∧ q 3 = va ∧ q 4 = who.block ∧ q 5 = who.clk ∧
       q 6 = 0 ∧ q 7 = 0) ∧
  (∀ (s : State) (r : WaveRef) (w : Wave) (self kind cause fid lmask va pc : Nat),
     let who : Who := ⟨s.lidOf r.die, r.core, r.slot, ((tfind s.blocks w.block).map (·.idx)).getD 0, pc, coreClock s r⟩
     let late := (opsOf s w.uid isStoreKind).filter (fun o => o != self)
     (late = [] → recordOf s r w self kind cause fid lmask va pc = record s w.asid kind cause fid lmask va who) ∧
     (late ≠ [] → recordOf s r w self kind cause fid lmask va pc = { s with recq := s.recq ++ [⟨late, w.asid, kind, recordBytes kind cause fid lmask va who,
       recordBytes 2 0x307 0 0 w.asid who⟩] }) ∧ whoNone s = ⟨0, 0, 0, 0, 0, s.ns⟩) ∧
  (∀ (s t : State) (asid kind cause fid lmask va : Nat) (who : Who), let bytes := recordBytes kind cause fid lmask va who
     (appendTo s asid kind bytes = (t, false) → record s asid kind cause fid lmask va who = t) ∧
     (appendTo s asid kind bytes = (t, true) → record s asid kind cause fid lmask va who =
       if asid = 0 then t else (appendTo t 0 2 (recordBytes 2 0x307 0 0 asid who)).1)) ∧
  (∀ (s s1 s2 s3 s4 : State) (asid kind va prod fill c : Nat) (d bytes : List Byte),
     let base := (s.ctx asid).fqBase
     let size := 2 ^ (s1.ctx asid).fqLog2
     let at' := (s1.ctx asid).fqBase + 64 + 64 * (prod % size)
     (base = 0 → fqLook s asid = (s, none)) ∧
     (base ≠ 0 → devRead s 0 base 8 = (s1, d, c, va) → (c ≠ 0 → fqLook s asid = (s1, none)) ∧
       (c = 0 → fqLook s asid = (s1, some (leVal (d.take 4), (leVal (d.take 4) + 2 ^ 32 - leVal (d.drop 4)) % 2 ^ 32)))) ∧
     (fqLook s asid = (s1, none) → appendTo s asid kind bytes = (s1, true)) ∧
     (fqLook s asid = (s1, some (prod, fill)) → fill + placesKept s1 asid = size → kind = 0 → appendTo s asid kind bytes = (s1, false)) ∧
     (fqLook s asid = (s1, some (prod, fill)) → fill + placesKept s1 asid = size → kind ≠ 0 → devRead s1 0 ((s1.ctx asid).fqBase + 8) 4 = (s2, d, 0, va) →
       appendTo s asid kind bytes = ((devWrite s2 0 ((s1.ctx asid).fqBase + 8) (leBytes 4 (min (leVal d + 1) 0xFFFFFFFF))).1, false)) ∧
     (fqLook s asid = (s1, some (prod, fill)) → fill + placesKept s1 asid ≠ size → devRead s1 0 at' 64 = (s2, d, 0, va) → devWrite s2 0 at' bytes = (s3, 0, va) →
       devWrite s3 0 (s1.ctx asid).fqBase (leBytes 4 (prod + 1)) = (s4, c, va) → appendTo s asid kind bytes = (s4, decide (c ≠ 0))))

/-- tret raises trap 0x002 with a guard other than p7 and trap 0x001 outside handler mode; in handler mode it waits for the handler's stores to be in L1,
those to the frame to be performed, and then returns (R160). The return reads the frame: the split resumes at the frame's PC under the frame's HDRPC, at a header where the two are equal and
then arriving there (R211), else inside the clause, whose waits it and its siblings evaluate again (R37); s0 to s3 receive the frame's SAVEDS, with the
poison they had (the model's choice, log entry 46), no split is frozen, a replay that the trap interrupted is issued again where the frame's PC is still its word
(R220), and handler mode ends. With DISCARD clear the operations of the replay queue go back among those in flight;
with DISCARD set they are gone, and a split held by one goes past its word (R160, Table 6.4). A frame whose PC or HDRPC is no multiple of 8 ends the
kernel with INFO 0x105 (the model's choice, log entry 46). -/
def Obligations.TretReturns : Prop :=
  (∀ (s : State) (c : Cm) (cu : Cur) (w : Wave), Issues s (.tret c) c cu w →
     let is := issueOf s c cu w
     let a := s.advance cu.u 1
     (c.pg ≠ 7 ∨ c.pn = true → Completes (.tret c) s c cu.u (trapIs a is 0x002 0)) ∧
     (c.pg = 7 → c.pn = false → w.hmode = false → Completes (.tret c) s c cu.u (trapIs a is 0x001 0)) ∧
     (c.pg = 7 → c.pn = false → w.hmode = true → (storesOutL1 a w.uid || frameStores a w) = true → exec (.tret c) s = .next s) ∧
     (c.pg = 7 → c.pn = false → w.hmode = true → (storesOutL1 a w.uid || frameStores a w) = false → Completes (.tret c) s c cu.u (trapReturn a cu.u))) ∧
  (∀ (s s1 : State) (u : SplitRef) (w : Wave) (d : List Byte) (va : Nat), s.wave u.w = some w → u.k < w.splits.length → u.k < 4 →
     devRead s w.asid w.frame 256 = (s1, d, 0, va) → s1.wave u.w = some w →
     let q := fun i : Nat => leVal ((d.drop (8 * i)).take 8)
     let pc : Addr := BitVec.ofNat 56 (q 0)
     let t := trapReturn s u
     (q 0 % 8 ≠ 0 ∨ q 1 % 8 ≠ 0 → t = abortKernel (recordOf s1 u.w w 0 1 0x305 0 0 0x105 (w.split u.k).pc.toNat) w.kernel 2 0x305) ∧
     (q 0 % 8 = 0 → q 1 % 8 = 0 →
       (∃ v, t.wave u.w = some v ∧ v.hmode = false ∧ v.rq = [] ∧ v.savedRep = none ∧ (v.split u.k).replay = w.savedRep.bind (fun r => if r.1 = pc then some r.2 else none) ∧ (v.split u.k).pc = pc ∧ (v.split u.k).hdr = BitVec.ofNat 56 (q 1) ∧
         (pc ≠ BitVec.ofNat 56 (q 1) → (v.split u.k).st = .runnable ∧ (v.split u.k).recheck = true) ∧
         (pc = BitVec.ofNat 56 (q 1) → (v.split u.k).hdrw = none ∧ (v.split u.k).recheck = false ∧
           (v.split u.k).st = (if (v.split u.k).rpc = pc.setWidth 64 ∨ ((v.split u.k).rpc = noneRpc ∧ boundTo v u.k pc = true) then .waitMerge else (v.split u.k).goOn)) ∧
         (∀ k, k < w.splits.length → (v.split k).frozen = false ∧ (v.split k).mask = (w.split k).mask) ∧
         ∃ old, v.pend = old ++ (List.range 4).map (fun i => (⟨.s i, 1, [(0, ⟨BitVec.ofNat 32 (leVal ((d.drop (0xC0 + 4 * i)).take 4)), lget false w.savedPsn i⟩)],
           some (s1.cyc u.w.die), false, false, 0⟩ : Pend))) ∧
       ((q 2).testBit 32 = false → t.ops = s1.ops.map (fun o => (o.1, if w.rq.contains o.1 then { o.2 with inRq := false } else o.2))) ∧
       ((q 2).testBit 32 = true → t.ops = s1.ops.filter (fun o => !w.rq.contains o.1) ∧
         ∀ k o, k < 4 → k ≠ u.k → o ∈ w.rq → ((w.split k).hold = .access o ∨ (w.split k).hold = .op o) → ∃ v, t.wave u.w = some v ∧ (v.split k).hold = .none)))

/-- vread and sread write the identity values and system registers of Tables 9.2 and 6.8a, 2 cycles after issue; a read of CLKLO also captures the high
half of the clock in CLKHI (R162, R198); spl.info writes the selected state (R223). swrite of an unpoisoned value writes SPLOVF, clears NANDROP where
bit 0 is 1, and writes an index register 2 cycles later; a read-only system register raises trap 0x001, and a poisoned value faults the lanes of E
with 0x104 (R162, R163). -/
def Obligations.SystemRegisters : Prop :=
  (∀ (s : State) (c : Cm) (cu : Cur) (w : Wave) (d : VDst) (r : SReg) (v : VReadSel) (sys : SysReg) (sel : BitVec 8),
     let is := issueOf s c cu w
     GivesV s (.vread c d v) c cu w d (fun l => ⟨laneId s w v l, false⟩) 2 ∧
     (sys ≠ .clkLo → GivesS s (.sread c r sys) c cu w r.toNat ⟨BitVec.ofNat 32 (sysVal s is sys), false⟩ 2) ∧
     (Issues s (.sread c r .clkLo) c cu w → is.e ≠ 0 → EndsAs (.sread c r .clkLo) s c cu.u
       { w with
         pend := w.pend ++ scaW s r.toNat is.e ⟨BitVec.ofNat 32 (coreClock s cu.u.w), false⟩ 2
         clkHi := BitVec.ofNat 32 (coreClock s cu.u.w / 2 ^ 32) }) ∧
     (Issues s (.sread c r .clkLo) c cu w → is.e = 0 → Gives (.sread c r .clkLo) s c cu.u []) ∧
     GivesS s (.splInfo c r sel) c cu w r.toNat ⟨BitVec.ofNat 32 (splInfoVal s cu.u.w w sel.toNat), false⟩ 2) ∧
  (∀ (s : State) (c : Cm) (cu : Cur) (w : Wave) (a : SSrc) (sys : SysReg), Issues s (.swrite c a sys) c cu w →
     let x := ssrc s w a
     let is := issueOf s c cu w
     let idx := fun n : Nat => Gives (.swrite c a sys) s c cu.u [due s (.x n) 1 [(0, ⟨x.v, false⟩)] 2]
     (is.e = 0 → Gives (.swrite c a sys) s c cu.u []) ∧
     (is.e ≠ 0 → x.psn = false →
       (sys = .splOvf → EndsAs (.swrite c a sys) s c cu.u { w with splovf := x.v }) ∧
       (sys = .nanDrop → EndsAs (.swrite c a sys) s c cu.u { w with nandrop := w.nandrop && !x.v.getLsbD 0 }) ∧
       (sys = .xidx0 → idx 0) ∧ (sys = .xidx1 → idx 1) ∧ (sys = .xidx2 → idx 2) ∧ (sys = .xidx3 → idx 3) ∧
       (sys.writable = false → Completes (.swrite c a sys) s c cu.u (trapIs (s.advance cu.u 1) is 0x001 0))) ∧
     (is.e ≠ 0 → x.psn = true → Completes (.swrite c a sys) s c cu.u
       (faultThen (s.advance cu.u 1) is false (faultMask is.e 0x104) (fun s _ => s))))

/-- Loads and stores in global memory, the own scratchpad and the cluster window, with the captured lanes, sizes, closes and opens of their forms: how
each issues (R259 to R265, R14, R283, R298). No byte of memory changes as one issues. -/
def Obligations.LoadsAndStoresIssue : Prop :=
  ∀ (s : State) (c : Cm) (cu : Cur) (w : Wave) (d : VDst) (x : VSrc) (a : GAddr) (o : VSrc) (r : SReg) (n : SSrc) (sa : SAddr) (f : LdF)
    (off : BitVec 24),
    let k := szBytes f.sz
    let glob := fun (s : State) (i : Issue) (l : Nat) => globAt s i.w a off l
    let offs := fun (s : State) (i : Issue) (l : Nat) => offAt (vsrc s i.w .int o 0 l) off
    let data := fun (s : State) (i : Issue) (l : Nat) => wide (fun k => vsrc s i.w .int x k l) (szRegs f.sz)
    let none' := fun _ : Nat => noData
    Starts s (.ld c d a f off) c cu w ⟨.load k (szSigned f.sz) f.spc, k, 0, f.scp.toNat, 0, false, false, true⟩
      (fun s i => capLanes i (glob s i) none' none') (vRun d (szRegs f.sz)) ∧
    Starts s (.st c x a f off) c cu w ⟨.store k f.spc, k, f.scp.toNat, 0, 0, false, true, true⟩
      (fun s i => capLanes i (glob s i) (data s i) none') noRun ∧
    Starts s (.lds c d o f off) c cu w ⟨.load k (szSigned f.sz) f.spc, k, 0, 0, 1, false, false, false⟩
      (fun s i => capLanes i (offs s i) none' none') (vRun d (szRegs f.sz)) ∧
    Starts s (.sts c x o f off) c cu w ⟨.store k f.spc, k, 0, 0, 1, false, false, false⟩
      (fun s i => capLanes i (offs s i) (data s i) none') noRun ∧
    Starts s (.ldc c d o f off) c cu w ⟨.load k (szSigned f.sz) f.spc, k, 0, f.scp.toNat, 2, false, false, true⟩
      (fun s i => capLanes i (offs s i) none' none') (vRun d (szRegs f.sz)) ∧
    Starts s (.stc c x o f off) c cu w ⟨.store k f.spc, k, f.scp.toNat, 0, 2, false, false, true⟩
      (fun s i => capLanes i (offs s i) (data s i) none') noRun ∧
    Starts s (.sld c r sa f off) c cu w
      ⟨.load k (szSigned f.sz) false, k, 0, f.scp.toNat, if isSpadA sa then 1 else 0, true, false, !isSpadA sa⟩
      (fun s i => capOne i (scalAddr s i.w sa off) noData) (sRun r (szRegs f.sz)) ∧
    Starts s (.sst c n sa f off) c cu w ⟨.store k false, k, f.scp.toNat, 0, if isSpadA sa then 1 else 0, true, !isSpadA sa, !isSpadA sa⟩
      (fun s i => capOne i (scalAddr s i.w sa off) (wide (fun k => if k = 0 then ssrc s i.w n else ssrcHi s i.w n) (szRegs f.sz))) noRun

/-- Atomics, reductions, lda, seal and unseal: the lanes they capture (for acas the compare and swap values), their sizes, the close before and the open
after, and the registers that receive the old values (R267 to R271, R301, R302). -/
def Obligations.AtomicsAndSealsIssue : Prop :=
  ∀ (s : State) (c : Cm) (cu : Cur) (w : Wave) (d : VDst) (x : VSrc) (a : GAddr) (r b : SReg) (f : AtF) (off : BitVec 24),
    let k := if f.w64 then 8 else 4
    let n := if f.w64 then 2 else 1
    let cl := if f.cls then 4 else 0
    let op := if f.opn then 4 else 0
    let glob := fun (s : State) (i : Issue) (l : Nat) => globAt s i.w a off l
    let data := fun (s : State) (i : Issue) (l : Nat) => wide (fun k => vsrc s i.w .int x k l) n
    let none' := fun _ : Nat => noData
    Starts s (.atom c d a f off) c cu w ⟨.atom f.opr.toNat k false true, k, cl, op, 0, false, true, true⟩
      (fun s i => capLanes i (glob s i) (vdWide s i.w d 0 n) none') (vRun d n) ∧
    Starts s (.acas c d a f off) c cu w ⟨.atom f.opr.toNat k true true, k, cl, op, 0, false, true, true⟩
      (fun s i => capLanes i (glob s i) (vdWide s i.w d n n) (vdWide s i.w d 0 n)) (vRun d n) ∧
    Starts s (.red c x a f off) c cu w ⟨.atom f.opr.toNat k false false, k, cl, op, 0, false, true, true⟩
      (fun s i => capLanes i (glob s i) (data s i) none') noRun ∧
    Starts s (.redb c x a f off) c cu w ⟨.atom f.opr.toNat k false false, k, cl, op, 0, false, true, true⟩
      (fun s i => capLanes i (glob s i) (data s i) none') noRun ∧
    Starts s (.satom c r b f off) c cu w ⟨.atom f.opr.toNat k false true, k, cl, op, 0, true, true, true⟩
      (fun s i => capOne i (globAt s i.w (.sc b) off 0) (wide (fun k => readS s i.w (r.toNat + k)) n)) (sRun r n) ∧
    Starts s (.lda c d a f off) c cu w ⟨.lda k, k, 0, op, 0, false, false, true⟩ (fun s i => capLanes i (glob s i) none' none') (vRun d n) ∧
    Starts s (.seal c a off) c cu w ⟨.seal, 1, 0, 0, 0, false, true, true⟩ (fun s i => capLanes i (glob s i) none' none') noRun ∧
    Starts s (.unseal c a off) c cu w ⟨.unseal, 1, 4, 0, 0, false, true, true⟩ (fun s i => capLanes i (glob s i) none' none') noRun

/-- A started access is in flight: an operation with its word, kind and lanes' addresses and data is among the state's operations, and no earlier
operation has gone. Nothing but L1 lines, operations, compare entries and the issuing wave has changed (R147, R253, R298). A store request whose
statuses are merged is performed at its home slice: the line that the checks of R297 let through is there afterwards with the bytes of the pending lanes, the
highest lane last in force (R256), dirty, and as poisoned as before (R254, R258), but that a store of all 128 bytes through the physical window clears its
poison, in HBM too (R309). Every other slice line is as it was, and without that clearing all of HBM. A store or load that has lost its line takes the cause. A store into a scratchpad
writes exactly its lanes' bytes in the block that its form or its window address names, the peer of the rank (R193), where a line covered whole loses its poison; with no such
block, or a retired one, its lanes take 0x107 (R194). An atomic or reduction is performed by the bank ALU: each pending lane of the line, in ascending order,
combines its value with the bytes that the lanes before it left, and is given the old value (R267, R269; redb's lanes of one address are combined first,
R268). Nothing else of the line, no other line and no byte of HBM changes. A poisoned line is left as it is, and each lane that returns a value is given poison (R270). Of a compared operation of
a twin block the matched leading one alone is performed, and the trailing copy's lanes take its results (R353, Table 17.1). That a line is one step, and that a store whose
page has gone since its check takes the cause then, is the model's reading (log entries 11 and 20). -/
def Obligations.AccessesArePerformed : Prop :=
  (∀ (s : State) (i : Issue) (f : Form) (ls : List LaneA) (dst : Option DstRun),
     let t := startOp s i f ls dst
     (∃ o x, (o, x) ∈ t.ops ∧ s.nextId ≤ o ∧ x.kind = f.kind ∧ x.w = i.u.w ∧ x.pc = i.sp.pc ∧ x.word = i.word ∧ x.wuid = i.w.uid ∧
       x.lanes.map (fun l => (l.lane, l.addr, l.data, l.cmp, l.cause)) = ls.map (fun l => (l.lane, l.addr, l.data, l.cmp, l.cause))) ∧
     (∃ new, t.ops = s.ops ++ new) ∧ (∀ q, q ≠ i.u.w → t.wave q = s.wave q) ∧
     t = { s with waves := t.waves, cores := t.cores, ops := t.ops, twins := t.twins, nextId := t.nextId } ∧
     ∀ d c, t.core d c = { s.core d c with l1 := (t.core d c).l1 }) ∧
  (∀ (s s1 : State) (o ln n : Nat) (x : Op) (nc : Bool), s.op o = some x → x.kind = .store n nc → x.space = .glob → (x.twin = 2 → x.peer ≠ o) →
     (∀ l ∈ x.lanes, l.cause = 0) →
     mayRequest s x = true → lineLanes x ln ≠ [] → storeBlocked s o x (lineLanes x ln) = false → holdsBack s x.asid (128 * ln) = false →
     let cells := laneCells n (lineLanes x ln)
     let clear := inWindow x.asid (128 * ln) && coversLine cells ln
     (∀ l : SLine, reachLine (arriveAt s x.asid (128 * ln)) x.asid (128 * ln) .wr = (s1, .ok l) →
       ∃ t y, exec (.homeSliceStore o ln) s = .next t ∧ tfind t.slines (x.asid, ln) = some y ∧
         y = { l with data := patchCells ln l.data cells, dirty := true, psn := l.psn && !clear } ∧
         (∀ q, q ≠ (x.asid, ln) → tfind t.slines q = tfind s1.slines q) ∧ (clear = false → t.hbm = s1.hbm ∧ t.hpsn = s1.hpsn) ∧
         (clear = true → t.hbmMark l.chan (winOff (128 * ln)) = none) ∧
         (∀ va, lineOf va = ln → stores n (lineLanes x ln) va = false →
           sliceByte t x.asid va = some (l.data.getD (va % 128) 0)) ∧ TwinTakes s t o x (x.lanes.map (finLane ln 0))) ∧
     (∀ k, reachLine (arriveAt s x.asid (128 * ln)) x.asid (128 * ln) .wr = (s1, .bad k) → k ≠ 0 →
       exec (.homeSliceStore o ln) s = .next (afterPart (l1Drop (setLanes s1 o (finLane ln k)) x.w.die x.w.core x.asid ln) o))) ∧
  (∀ (s : State) (o ln n : Nat) (x : Op) (nc : Bool) (l0 : LaneA) (rest : List LaneA), s.op o = some x → x.kind = .store n nc → x.space ≠ .glob →
     (x.twin = 2 → x.peer ≠ o) → (∀ l ∈ x.lanes, l.cause = 0) → mayRequest s x = true → lineLanes x ln = l0 :: rest → storeBlocked s o x (l0 :: rest) = false →
     (∀ b cp off p, destOf s x l0 = some (b, cp, off) → s.place b cp = some p → p.saved = false → (x.space = .none → p.retired = false) →
       let a := 1024 * p.spadBase
       let cells := (laneCells n (l0 :: rest)).map (fun z => (a + (z.1 - (l0.addr - off)), z.2))
       let k := s.core p.die p.core
       ∃ t, exec (.homeSliceStore o ln) s = .next t ∧ t.slines = s.slines ∧ t.hbm = s.hbm ∧
         (∀ m, tget 0 (t.core p.die p.core).spad m = tget (tget 0 k.spad m) cells m) ∧
         (∀ m, m ∈ (t.core p.die p.core).spadPsn ↔ m ∈ k.spadPsn ∧ coversLine cells m = false) ∧
         (∀ d c, (d, c) ≠ (p.die, p.core) → t.core d c = s.core d c) ∧ TwinTakes s t o x (x.lanes.map (finLane ln 0))) ∧
     (x.space = .none → (destOf s x l0 = none ∨ ∃ b cp off, destOf s x l0 = some (b, cp, off) ∧ savedOut s b cp = false ∧ retired s b cp = true) →
       exec (.homeSliceStore o ln) s = .next (afterPart (setLanes s o (finLane ln 0x107)) o))) ∧
  (∀ (s : State) (x : Op) (l : LaneA),
     (∀ b c, x.space = .spad b c → destOf s x l = some (b, c, l.addr)) ∧
     (∀ w, x.space = .none → s.wave x.w = some w → w.uid = x.wuid →
       destOf s x l = (peerBlock s w.block (l.addr / 2 ^ 20)).map (fun b => (b, w.copy, l.addr % 2 ^ 20))) ∧
     (∀ b rank pb y, tfind s.blocks b = some y → peerBlock s b rank = some pb →
       ∃ z, (pb, z) ∈ s.blocks ∧ z.kernel = y.kernel ∧ z.group = y.group ∧ z.idx = y.idx - (groupOf s b).2.2 + rank)) ∧
  (∀ (s s1 : State) (o ln opr n : Nat) (x : Op) (cas ret : Bool) (l : SLine), s.op o = some x → x.kind = .atom opr n cas ret → (x.twin = 2 → x.peer ≠ o) →
     (∀ l ∈ x.lanes, l.cause = 0) → mayRequest s x = true → lineLanes x ln ≠ [] → storeBlocked s o x (lineLanes x ln) = false →
     holdsBack s x.asid (128 * ln) = false → reachLine (arriveAt s x.asid (128 * ln)) x.asid (128 * ln) .wr = (s1, .ok l) →
     let r := atomLanes opr n cas l.data (lineLanes x ln)
     let steps := if x.word.extractLsb' 56 8 == 0xA3 then redbLanes opr n (lineLanes x ln) l.data ((lineLanes x ln).map (·.addr)).eraseDups else r.1
     let done := x.lanes.map (fun m => if pendingLane ln m then (r.2.find? (fun q => q.lane == m.lane)).getD m else m)
     (l.psn = false → l.pp = false → ∃ t y, exec (.homeSliceAtomic o ln) s = .next t ∧ tfind t.slines (x.asid, ln) = some y ∧
       y = { l with data := ((steps.getLast?).map (·.2)).getD l.data, dirty := true } ∧
       (∀ q, q ≠ (x.asid, ln) → tfind t.slines q = tfind s1.slines q) ∧ t.hbm = s1.hbm ∧
       (∀ z, t.op o = some z → z.lanes = done) ∧ TwinTakes s t o x done) ∧
     (l.psn = true → ret = true → ∃ t, exec (.homeSliceAtomic o ln) s = .next t ∧ t.slines = s1.slines ∧ t.hbm = s1.hbm ∧
       (∀ z, t.op o = some z → z.lanes = x.lanes.map (fun m => if pendingLane ln m then { m with fin := true, got := 0, gpsn := true } else m)))) ∧
  (∀ (s : State) (o ln : Nat) (x : Op), s.op o = some x → (x.twin = 1 ∨ x.twin = 3) →
     exec (.homeSliceStore o ln) s = .next s ∧ exec (.homeSliceAtomic o ln) s = .next s ∧ exec (.lineFill o ln 0) s = .next s)

/-- pf starts a request for the lanes that pass the checks and changes nothing else (R266); phase closes the wave's stores and opens where its fields say
so, and waits at issue behind an unfinished phase close of the split (R282, R283). wait reads its word at its home slice: where the condition holds,
or the timeout is 0, D receives the value observed and PQ the condition, the wave's registers settle, and the split goes on; otherwise the split waits with a watch entry, or polls
where the slice's table is full (R246 to R249). A poisoned operand faults E with 0x104, a misaligned address with 0x105, an address above the space
with 0x102, and a word that cannot be read with its cause. That the first read is made in the step of the issue is the model's reading (log entry 26). -/
def Obligations.PhasesAndWaits : Prop :=
  (∀ (s : State) (c : Cm) (cu : Cur) (w : Wave) (a : GAddr) (sl : Bool) (off : BitVec 24) (scp : BitVec 3) (cls opn : Bool),
     let ad := s.advance cu.u 1
     let is := issueOf s c cu w
     (Issues s (.pf c a sl off) c cu w →
       let ls := (checkLanes ad w ⟨.pf sl, 1, 0, 0, 0, false, false, false⟩ (match is.cap with
         | some cp => cp.lanes
         | none => capLanes is (globAt ad w a off) (fun _ => noData) (fun _ => noData))).filter (fun l => l.cause == 0)
       (ls = [] → Gives (.pf c a sl off) s c cu.u []) ∧
       (ls ≠ [] → Completes (.pf c a sl off) s c cu.u (ad.newOp { blankOp is (.pf sl) [] with lanes := ls, told := true }) ∧
         ∃ t, exec (.pf c a sl off) s = .next t ∧ MemSame s t cu.u.w)) ∧
     (Issues s (.phase c scp cls opn) c cu w →
       (is.e = 0 → Gives (.phase c scp cls opn) s c cu.u []) ∧ (is.e ≠ 0 → fenced ad is = true → exec (.phase c scp cls opn) s = .next s) ∧
       (is.e ≠ 0 → fenced ad is = false → Completes (.phase c scp cls opn) s c cu.u
         (let r := if cls then closeSplit ad is scp.toNat else (ad, [])
          if opn then openFor r.1 is scp.toNat r.2 else r.1) ∧
         ∃ t, exec (.phase c scp cls opn) s = .next t ∧ MemSame s t cu.u.w))) ∧
  (∀ (s : State) (c : Cm) (cu : Cur) (w : Wave) (pq : PReg) (d a : SReg) (b t : SSrc) (k : WCond) (opn : Bool),
     let i : Instr := .wait c pq d a b t k opn
     Issues s i c cu w →
     let ad := s.advance cu.u 1
     let is := issueOf s c cu w
     let va := (sreg64 s w a).1.toNat
     let psn := (sreg64 s w a).2 || (ssrc s w b).psn || (ssrc s w t).psn
     let tm := (ssrc s w t).v
     let fault := fun (s : State) (n : Nat) => Completes i s c cu.u (faultThen (s.advance cu.u 1) is false (faultMask is.e n) (fun s _ => s))
     (is.e = 0 → Gives i s c cu.u []) ∧ (is.e ≠ 0 → psn = true → fault s 0x104) ∧
     (is.e ≠ 0 → psn = false → va % 4 ≠ 0 → fault s 0x105) ∧ (is.e ≠ 0 → psn = false → va % 4 = 0 → 2 ^ 56 ≤ va → fault s 0x102) ∧
     (is.e ≠ 0 → psn = false → va % 4 = 0 → va < 2 ^ 56 → bytesBusy ad cu.u.w w.asid va 4 ad.nextId = true → exec i s = .next s) ∧
     (is.e ≠ 0 → psn = false → va % 4 = 0 → va < 2 ^ 56 → bytesBusy ad cu.u.w w.asid va 4 ad.nextId = false →
       ∀ (m : State) (v : W32) (p : Bool) (k : Nat), k ≠ 0 → homeWord ad w.asid va = (m, v, p, k) →
         Completes i s c cu.u (faultThen m is false (faultMask is.e k) (fun s _ => s))) ∧
     (is.e ≠ 0 → psn = false → va % 4 = 0 → va < 2 ^ 56 → bytesBusy ad cu.u.w w.asid va 4 ad.nextId = false →
       ∀ (m : State) (v : W32) (p : Bool), homeWord ad w.asid va = (m, v, p, 0) →
         let o := m.nextId
         let x : Op := { blankOp is .result [] with fin := true, left := true, reg := d.toNat }
         let m1 := expectP (expect (m.newOp x) cu.u.w .s d.toNat 1 1 o) cu.u.w pq is.e o
         let ok := wcond k v (ssrc s w b).v
         ((ok = true ∨ tm = 0) → Completes i s c cu.u (let r := waitRegs m1 cu.u.w o pq d ⟨v, p⟩ ok
                                                       settlePoint (if opn then openFor r is 4 [] else r) cu.u.w)) ∧
         (ok = false → tm ≠ 0 →
           let arm := armWatch (m1.updOp o (fun x => { x with fin := false })) w.asid va k (ssrc s w b).v (.split cu.u)
           Completes i s c cu.u (arm.1.updSplit cu.u (fun y => { y with
             st := .waitWatch va k (ssrc s w b).v (if tm = 0xFFFFFFFF then none else some (m.cyc cu.u.w.die + tm.toNat)) (!arm.2) (m.cyc cu.u.w.die + 1024)
               pq d is.e opn o none })))))

/-- A load whose statuses are merged and that waits for no earlier operation of its core is satisfied from a valid L1 line, or served at the home slice:
every pending lane of the line takes the line's bytes, over which the core's own accepted and unperformed stores are laid, or 0 and poison from a
poisoned line; memory is as the reach of the line left it, and the line is placed in L1 but for .nc (R253, R257, R263, R275); an error that the fill meets is that of the line it
reads (R308). lda reads past the L1, whose line goes, and pf places the line without .l2 and faults no lane (R271, R266). A scratchpad or window load waits for the
earlier loads and stores of its core to its bytes, and then reads what the scratchpad of the block that it names holds (R275 to R277). Each register of the load takes each lane's value as it arrives (R45). The last
status of an access merges its fault mask (R298): without a fault its split goes past the word; where lanes fault and
can be parked, the state holds the fragment of exactly these lanes with their captured operands, the operation is left with the other lanes, and the
split goes on with them, or is free where every lane faults (R219, R14); where they cannot, the operation is gone with no effect in any lane before the split backs off or traps (R152). A result in hand is written to the operation's registers, which become settled
with the next settle point (R42). The end of a back-off lets the split issue again. That the line of a checked request is kept, and that a store is in L1 from the merge of its statuses on, is the
model's reading (log entries 20 and 12). -/
def Obligations.FillsAndStatuses : Prop :=
  (∀ (s s1 : State) (o ln n : Nat) (x : Op) (sgn nc : Bool), s.op o = some x → x.kind = .load n sgn nc → x.space = .glob → (x.twin = 2 → x.peer ≠ o) →
     (∀ l ∈ x.lanes, l.cause = 0) → mayRequest s x = true → lineLanes x ln ≠ [] → (∀ l ∈ lineLanes x ln, loadWaits s o x.w x.asid x.kind l = false) →
     (∀ h, l1Find (s.core x.w.die x.w.core) x.asid ln = some h → ∃ t z, exec (.lineFill o ln 0) s = .next t ∧ t.op o = some z ∧
       z.lanes = satisfy n ln h.data h.psn x.lanes ∧ t = { s with ops := t.ops, waves := t.waves } ∧ (x.twin = 0 → ValuesArrive s t o x z) ∧ TwinTakes s t o x z.lanes) ∧
     (∀ l : SLine, l1Find (s.core x.w.die x.w.core) x.asid ln = none → holdsBack s x.asid (128 * ln) = false →
       reachLine (arriveAt s x.asid (128 * ln)) x.asid (128 * ln) .rd = (s1, .ok l) → s1.flawed = [] →
       let data := mergeOwn s1 x.w.die x.w.core x.asid ln l.data
       ∃ t z, exec (.lineFill o ln 0) s = .next t ∧ t.op o = some z ∧ z.lanes = satisfy n ln data (l.psn || l.pp) x.lanes ∧ z.left = true ∧
         t.slines = s1.slines ∧ t.hbm = s1.hbm ∧ t.ctxs = s1.ctxs ∧ (x.twin = 0 → ValuesArrive s1 t o x z) ∧ TwinTakes s1 t o x z.lanes ∧
         (nc = false → atomicOut s1 x ln = false → l1Find (t.core x.w.die x.w.core) x.asid ln = some ⟨x.asid, ln, data, l.sealed, l.psn || l.pp⟩) ∧
         (nc = true ∨ atomicOut s1 x ln = true → t.cores = s1.cores))) ∧
  (∀ (s s1 : State) (o ln : Nat) (x : Op) (l : SLine), s.op o = some x → x.space = .glob → (x.twin = 2 → x.peer ≠ o) → (∀ l ∈ x.lanes, l.cause = 0) →
     mayRequest s x = true → lineLanes x ln ≠ [] → holdsBack s x.asid (128 * ln) = false → s1.flawed = [] →
     (∀ n, x.kind = .lda n → (∀ l ∈ lineLanes x ln, loadWaits s o x.w x.asid x.kind l = false) →
       reachLine (arriveAt s x.asid (128 * ln)) x.asid (128 * ln) .rd = (s1, .ok l) →
       ∃ t z, exec (.lineFill o ln 0) s = .next t ∧ t.op o = some z ∧ z.lanes = satisfy n ln l.data (l.psn || l.pp) x.lanes ∧
         t.slines = s1.slines ∧ t.hbm = s1.hbm ∧ l1Find (t.core x.w.die x.w.core) x.asid ln = none) ∧
     (∀ sl, x.kind = .pf sl →
       (∀ k, reachLine (arriveAt s x.asid (128 * ln)) x.asid (128 * ln) .rd = (s1, .bad k) →
         exec (.lineFill o ln 0) s = .next (afterPart (setLanes s1 o (finLane ln 0)) o)) ∧
       (reachLine (arriveAt s x.asid (128 * ln)) x.asid (128 * ln) .rd = (s1, .ok l) →
         ∃ t, exec (.lineFill o ln 0) s = .next t ∧ t.slines = s1.slines ∧ t.hbm = s1.hbm ∧ (sl = true → t.cores = s1.cores) ∧
           (sl = false → atomicOut s1 x ln = false → l1Find (t.core x.w.die x.w.core) x.asid ln =
             some ⟨x.asid, ln, mergeOwn s1 x.w.die x.w.core x.asid ln l.data, l.sealed, l.psn || l.pp⟩)))) ∧
  (∀ (s : State) (o ln n : Nat) (x : Op) (sgn nc : Bool) (l0 : LaneA) (rest : List LaneA), s.op o = some x → x.kind = .load n sgn nc → x.space ≠ .glob →
     (x.twin = 2 → x.peer ≠ o) → (∀ l ∈ x.lanes, l.cause = 0) → mayRequest s x = true → lineLanes x ln = l0 :: rest →
     (∀ b cp off p, destOf s x l0 = some (b, cp, off) → s.place b cp = some p → p.saved = false → (x.space = .none → p.retired = false) → spadWaits s o x (l0 :: rest) = false →
       let r := spadRead s b cp (off / 128 * 128) 128
       ∃ t z, exec (.lineFill o ln 0) s = .next t ∧ t.op o = some z ∧ z.lanes = satisfy n ln r.1 r.2 x.lanes ∧
         t = { s with ops := t.ops, waves := t.waves } ∧ (x.twin = 0 → ValuesArrive s t o x z) ∧ TwinTakes s t o x z.lanes) ∧
     (x.space = .none → (destOf s x l0 = none ∨ ∃ b cp off, destOf s x l0 = some (b, cp, off) ∧ savedOut s b cp = false ∧ retired s b cp = true) →
       exec (.lineFill o ln 0) s = .next (afterPart (setLanes s o (finLane ln 0x107)) o))) ∧
  (∀ (s : State) (o ln n p : Nat) (x y : Op) (sgn nc : Bool) (l m : LaneA), s.op o = some x → x.kind = .load n sgn nc → x.space ≠ .glob →
     l ∈ lineLanes x ln → (p, y) ∈ s.ops → p < o → y.inRq = false → y.w.die = x.w.die → y.w.core = x.w.core →
     (isLoadKind y.kind = true ∨ isStoreKind y.kind = true) → m ∈ y.lanes → m.fin = false → m.cause = 0 → shareByte s x l y m = true →
     (∀ k ∈ (lineLanes x ln).head?, ∃ b cp off q, destOf s x k = some (b, cp, off) ∧ s.place b cp = some q ∧ q.retired = false) →
     exec (.lineFill o ln 0) s = .next s) ∧
  (∀ (s : State) (o ln ecc : Nat), ecc = 1 ∨ ecc = 2 →
     exec (.lineFill o ln ecc) s = andThen (exec (.lineFill o ln 0) { s with flaw := ecc }) (fun t => { t with flaw := s.flaw })) ∧
  (∀ (s s1 s2 : State) (o : Nat) (x : Op), s.op o = some x → x.told = false → x.inRq = false → (s.split ⟨x.w, x.k⟩).hold = .access o →
     let u : SplitRef := ⟨x.w, x.k⟩
     let sp := s.split u
     let bad := spread x.scalar x.e (x.lanes.filter (fun l => l.cause != 0))
     let fm := maskOf (fun i => bad.any (fun l => l.lane == i))
     let t := (mergeStatus s1 o x).updOp o (fun y => { y with e := y.e &&& ~~~fm, lanes := y.lanes.filter (fun l => l.cause == 0) })
     let t := t.updWave x.w (fun w => { w with pend := (w.pend.map (fun p =>
       if p.op = o ∧ p.due.isNone then { p with e := if x.scalar then 0 else p.e &&& ~~~fm } else p)).filter (fun p => p.e != 0) })
     ((∃ l ∈ x.lanes, l.chk = false ∧ l.fin = false ∧ l.cause = 0) → exec (.accessStatusReturn o) s = .next s) ∧
     ((∀ l ∈ x.lanes, (l.chk = true ∨ l.fin = true) ∧ l.cause = 0) → exec (.accessStatusReturn o) s = .next (sweep (completeAt (mergeStatus s o x) u) o)) ∧
     ((∀ l ∈ x.lanes, l.chk = true ∨ l.fin = true ∨ l.cause ≠ 0) → bad ≠ [] → parkLanes s u { sp with hold := .none } x.word true bad o = .yes s1 →
       (∃ n f, (tget Frag.fresh (s.coreOf x.w).frags n).fstate = 0 ∧ tget Frag.fresh (s1.coreOf x.w).frags n = f ∧ f.fstate = 1 ∧ f.cap = true ∧ f.mask = fm ∧
         f.lanes = bad ∧ f.pc = sp.pc ∧ f.hdr = sp.hdr ∧ f.rpc = sp.rpc ∧ f.permit = true) ∧
       (s1.split u).mask = sp.mask &&& ~~~fm ∧
       ((∃ l ∈ x.lanes, l.cause = 0) → sp.mask &&& ~~~fm ≠ 0 → exec (.accessStatusReturn o) s = .next (completeAt (sweep t o) u)) ∧
       ((∀ l ∈ x.lanes, l.cause ≠ 0) → o < s.nextId → ∃ y, exec (.accessStatusReturn o) s = .next y ∧ y.op o = none ∧
         (sp.mask &&& ~~~fm = 0 → y = tidy (endOp t o) x.w) ∧ (sp.mask &&& ~~~fm ≠ 0 → y = completeAt (endOp t o) u))) ∧
     ((∀ l ∈ x.lanes, l.chk = true ∨ l.fin = true ∨ l.cause ≠ 0) → bad ≠ [] → parkLanes s u { sp with hold := .none } x.word true bad o = .no s1 →
       parkLanes (takeOut s o x) u { sp with hold := .none } x.word true bad o = .no s2 → exec (.accessStatusReturn o) s = .next s2) ∧
     (takeOut s o x).op o = none) ∧
  (∀ (s : State) (o : Nat) (x : Op) (u : SplitRef) (tm : Nat),
     (s.op o = some x → x.told = true → x.inRq = false → x.performed = true → hasResult x.kind = true →
       (∀ b c, x.space ≠ .spad b c) → exec (.variableResultWrite o) s = .next (endOp (writeResult s o x) o)) ∧
     ((s.split u).hold = .backoff tm → tm ≤ s.cyc u.w.die → exec (.backoffRetry u) s = .next (s.updSplit u (fun x => { x with hold := .none }))) ∧
     ((s.split u).hold = .backoff tm → s.cyc u.w.die < tm → exec (.backoffRetry u) s = .next s))

/-- The ends of closes, opens and unseals: a close that nothing is outstanding for ends, at .blk also where what is outstanding are stores to global memory
that are in L1, a seal or unseal never being so; an open whose waits are finished, an atomic's old values written,
drops the non-sealed L1 lines of its context and ends; an unseal whose lanes are done drops the sealed L1 lines of its pages from every core, where no
die is fenced (R267, R279, R280, R302). A seal or unseal is performed at the page's home channel once no checked access of the page is out, which are performed
first where they can be (R298 in the reading of log entry 11, DEDUCED): SEAL becomes 1 or 0
in every slice line and cached translation of the page, and in its table word, where the entry is found; a store to a sealed line is then refused with 0x103 (R301, R302). Of a
compared one of a twin the matched leading one alone is performed (R353). -/
def Obligations.ClosesAndOpensEnd : Prop :=
  (∀ (s : State) (o : Nat) (x : Op) (l1 : Bool), s.op o = some x → x.inRq = false →
    (x.kind = .close → x.twin = 0 → (∀ p ∈ x.after, closedAt s x.reg p = true) → x.fin = false → exec (.closeComplete o) s = .next (endOp s o)) ∧
    (x.kind = .close → x.twin = 0 → (∃ p ∈ x.after, closedAt s x.reg p = false) → exec (.closeComplete o) s = .next s) ∧
    (∀ p y scp, s.op p = some y → closedAt s scp p = (y.performed || (decide (scp = 1) && decide (y.twin = 0) && decide (y.space = .glob) && y.told && accepted s y &&
      decide (y.kind ≠ .seal) && decide (y.kind ≠ .unseal)))) ∧
    (x.kind = .openDev l1 → mayRequest s x = true → (∀ p y opr n cas ret, p ∈ x.after → s.op p = some y → y.kind ≠ .atom opr n cas ret) →
      exec (.openBegin o) s = .next (endOp (if l1 then dropOpen s x.w.die x.w.core x.asid else s) o)) ∧
    (x.kind = .unseal → x.twin = 0 → x.fin = false → x.told = true → (∀ l ∈ x.lanes, l.fin = true ∧ l.cause = 0) → (∀ d, d < 18 → leveeUp s d = false) →
      ∃ t, exec (.unsealComplete o) s = .next t ∧ t.slines = s.slines ∧ t.hbm = s.hbm ∧ t.waves = s.waves ∧ t.op o = none ∧
        ∀ d c, d < 18 → (t.core d c) = { s.core d c with l1 := (s.core d c).l1.filter (fun l => !(l.asid == x.asid && l.sealed &&
          x.lanes.any (fun z => z.fin && vpnOf z.addr == vpnOf (l.va * 128)))) })) ∧
  (∀ (s : State) (o ln ch : Nat) (x : Op), s.op o = some x → x.kind = .seal ∨ x.kind = .unseal →
    let v := vpnOf (128 * ln)
    let p := accessesOf x.asid v
    let u := flushLanes s p
    let done := fun (l : LaneA) => if !l.fin && l.cause == 0 && vpnOf l.addr == v then { l with fin := true } else l
    (mayRequest s x = false ∨ lineLanes x ln = [] → exec (.homeSliceStore o ln) s = .next s) ∧
    (mayRequest s x = true → lineLanes x ln ≠ [] → stillOut u p = false → u.home x.asid (16384 * v) = some ch →
      exec (.homeSliceStore o ln) s = .next (afterPart (setLanes (putSeal u ch x.asid v (x.kind == .seal)) o done) o))) ∧
  (∀ (s : State) (ch asid vpn : Nat) (b : Bool),
    let t := putSeal s ch asid vpn b
    let fix := fun (w : W64) => if b then w ||| (1#64 <<< 60) else w &&& ~~~(1#64 <<< 60)
    (ch < 512 → s.inTransit asid vpn = none → ∀ e ∈ t.slines, e.1.1 = asid → vpnOf (e.1.2 * 128) = vpn → inWindow asid (e.1.2 * 128) = false → e.2.sealed = b) ∧
    (ch < 512 → s.inTransit asid vpn = none → ∀ e ∈ (t.chan ch).tlb, e.asid = asid → e.vpn = vpn → e.w0.getLsbD 60 = b) ∧
    (s.inTransit asid vpn = none → ∃ u, u.slines = s.slines.map (fun e =>
        if e.1.1 == asid && vpnOf (e.1.2 * 128) == vpn && !inWindow asid (e.1.2 * 128) then (e.1, { e.2 with sealed := b }) else e) ∧ u.hbm = s.hbm ∧
      ∀ r off w0 w1, walk u ch asid vpn = (r, some (off, w0, w1)) → t = (homeStore r 0 (windowVa ch off) (leBytes 8 (fix (BitVec.ofNat 64 w0)).toNat)).1)) ∧
  (∀ (s : State) (asid va ch : Nat) (l : SLine) (e : Trans), (l.w = true → l.sealed = true → lineCause l .wr = 0x103) ∧
    (va < 2 ^ 56 → inWindow asid va = false → s.inTransit asid (vpnOf va) = none → s.home asid va = some ch → tfind s.slines (asid, lineOf va) = some l →
      l.w = true → l.sealed = true → reachLine s asid va .wr = (s, .bad 0x103)) ∧
    (e.w0.getLsbD 60 = true → (lineOfTrans s e ch (lineOf va)).sealed = true))

/-- bar.init.lane, bar.init.byte and bar.init.chunk write a fresh slot of their kind with their operands, a BYTE slot keeping the credits an UNINIT slot
has; an initialisation of a slot with waiters, or more than eight producers, raises 0x303 (R228, R229, R233, R234), and one behind the wave's own
credits or arrivals to the slot waits at issue (R244). The completion check of a LANE
slot (R230): while fewer lanes have arrived than are expected nothing changes; when enough have, the phase bit turns over, COUNT is 0 and OVF tells
whether more arrived; no other slot of the core changes. -/
def Obligations.BarriersBeginAndComplete : Prop :=
  (∀ (s : State) (c : Cm) (cu : Cur) (w : Wave) (a b : SSrc),
     let x := ssrc s w a
     let y := ssrc s w b
     let busy := decide (waitersOf (s.advance cu.u 1) w.block w.copy x.v.toNat ≠ 0)
     GatedBar s (.barInitLane c a b) c cu w x.v (x.psn || y.psn) (slotBad s w x.v (fun _ => true) busy) (fun s _ =>
       s.setBar w.block w.copy x.v.toNat
         { Bar.fresh with kind := 1, wmask := y.v, exp := lanesIn s w.block w.copy (fun k => y.v.getLsbD k) }) ∧
     GatedBar s (.barInitByte c a b) c cu w x.v (x.psn || y.psn) (slotBad s w x.v (fun _ => true) (busy || decide (256 ≤ y.v.toNat))) (fun s _ =>
       let o := s.bar w.block w.copy x.v.toNat
       s.setBar w.block w.copy x.v.toNat { Bar.fresh with kind := 2, named := y.v.toNat, cnt := if o.kind = 0 then o.cnt else [] }) ∧
     GatedBar s (.barInitChunk c a) c cu w x.v x.psn (slotBad s w x.v (fun _ => true) busy) (fun s _ =>
       s.setBar w.block w.copy x.v.toNat { Bar.fresh with kind := 3 })) ∧
  (∀ (s : State) (b cp n : Nat) (p : Place), s.place b cp = some p → (s.bar b cp n).kind = 1 →
     ((s.bar b cp n).count < (s.bar b cp n).exp → laneCheck s b cp n = s) ∧
     ((s.bar b cp n).exp ≤ (s.bar b cp n).count →
       (laneCheck s b cp n).bar b cp n = { s.bar b cp n with
         ph := !(s.bar b cp n).ph, count := 0, ovf := (s.bar b cp n).ovf || decide ((s.bar b cp n).exp < (s.bar b cp n).count) } ∧
       ∀ k, k ≠ n → (laneCheck s b cp n).bar b cp k = s.bar b cp k))

/-- The other barrier instructions: arrivals, waits, expectations, withdrawals, reads and chunk maps, each with the slot kinds it takes and its effect
(R236 to R243); those on a slot of the own block wait at issue for the wave's credits on their way to it and for its arrivals there that wait for
stores, bar.wd for such arrivals at any slot, and the credit of a bar.arr.byte to a slot of its own block takes effect after them (R244). -/
def Obligations.BarrierOperations : Prop :=
  ∀ (s : State) (c : Cm) (cu : Cur) (w : Wave) (d : SReg) (pq : PReg) (a b e : SSrc) (m : SPair) (gl : Bool),
    let x := ssrc s w a
    let y := ssrc s w b
    let z := ssrc s w e
    let n := x.v.toNat
    let bar := fun s : State => s.bar w.block w.copy n
    let lane := fun k : Nat => k == 1
    let chunk := fun k : Nat => k == 3
    let all := fun _ : Nat => true
    let out := fun (s : State) (o : Nat) => (s.op o).any (fun q => q.space != .glob)
    let mk := spair s w m
    let rank := bits y.v.toNat 8 2
    GatedBar s (.barArrLane c d a) c cu w x.v x.psn (slotBad s w x.v lane (!(bar s).wmask.getLsbD w.waveId)) (fun s i =>
      arriveLanes (writeS s cu.u.w d.toNat ⟨if (bar s).ph then 1 else 0, false⟩ 4) w.block w.copy n (popcount (i.e &&& ~~~w.wdm))) ∧
    Gated s (.barArrByte c a b e) c cu w (x.psn || y.psn || z.psn)
      (slotBad s w x.v all (decide (bits y.v.toNat 3 5 ≠ 0 ∨ 1024 ≤ y.v.toNat ∨ (groupOf s w.block).2.1 ≤ rank))) 0x303 (fun s i =>
        if (match peerBlock s w.block rank with | some pb => retired s pb w.copy | none => true) then
          faultThen s i false (faultMask i.e 0x107) (fun s _ => s)
        else command s i (.byteCredit n rank (bits y.v.toNat 0 3) z.v.toNat) false []
          ((opsOf s w.uid isStoreKind).filter (out s) ++ opsOf s w.uid (fun k => match k with | .cmd (.byteCredit _ _ _ _) => true | _ => false)
            ++ (if peerBlock s w.block rank = some w.block then syncsAt s w n else []))
          none 0 (runByteCredit rank n (bits y.v.toNat 0 3) z.v.toNat)) ∧
    GatedBar s (.barWait c a b gl) c cu w x.v (x.psn || y.psn) (slotBad s w x.v (fun k => k == 1 || k == 2 || k == 4) (decide (2 ≤ y.v.toNat)))
      (fun s i => if (bar s).ph ≠ y.v.getLsbD 0 then settlePoint (if gl then openFor s i 4 [] else s) cu.u.w
                  else s.updSplit cu.u (fun z => { z with st := .waitBar n (y.v.getLsbD 0) gl false })) ∧
    GatedBar s (.barSync c a gl) c cu w x.v x.psn (slotBad s w x.v lane (!(bar s).wmask.getLsbD w.waveId)) (fun s i =>
      syncAfter s i (.barSync n 0 gl) (if gl then opsOf s w.uid isStoreKind else []) n gl false) ∧
    GatedBar s (.barExp c d a b e) c cu w x.v (x.psn || y.psn || z.psn) (slotBad s w x.v (fun k => k == 2) (decide (8 ≤ y.v.toNat))) (fun s _ =>
      byteCheck ((writeS s cu.u.w d.toNat ⟨if (bar s).ph then 1 else 0, false⟩ 4).setBar w.block w.copy n { bar s with
        expi := tset (bar s).expi y.v.toNat (bump (tget 0 (bar s).expi y.v.toNat) z.v.toNat)
        epost := Nat.lor (bar s).epost (2 ^ y.v.toNat) }) w.block w.copy n) ∧
    (Issues s (.barWd c) c cu w → (exSet s c cu w = 0 → Gives (.barWd c) s c cu.u []) ∧
      (exSet s c cu w ≠ 0 → syncsOut (s.advance cu.u 1) w all = true → exec (.barWd c) s = .next s) ∧
      (exSet s c cu w ≠ 0 → syncsOut (s.advance cu.u 1) w all = false → Completes (.barWd c) s c cu.u (withdraw (s.advance cu.u 1) cu.u.w (exSet s c cu w)))) ∧
    GatedBar s (.barRd c d a b) c cu w x.v (x.psn || y.psn) (slotBad s w x.v all false) (fun s _ =>
      writeS s cu.u.w d.toNat ⟨BitVec.ofNat 32 (barWord s w.block w.copy n y.v.toNat), false⟩ 4) ∧
    GatedBar s (.cmapWait c a m) c cu w x.v (x.psn || mk.2) (slotBad s w x.v chunk false) (fun s _ =>
      if (bar s).map &&& mk.1 = mk.1 then settlePoint s cu.u.w else s.updSplit cu.u (fun y => { y with st := .waitMap n mk.1 false })) ∧
    GatedBar s (.cmapTest c pq a m) c cu w x.v (x.psn || mk.2) (slotBad s w x.v chunk false) (fun s i =>
      writeP s cu.u.w pq i.e (fun _ => (decide ((bar s).map &&& mk.1 = mk.1), false)) 4) ∧
    GatedBar s (.cmapClr c a m) c cu w x.v (x.psn || mk.2) (slotBad s w x.v chunk false) (fun s _ =>
      s.setBar w.block w.copy n { bar s with map := (bar s).map &&& ~~~mk.1 }) ∧
    GatedBar s (.cbar c a gl) c cu w x.v x.psn (slotBad s w x.v (fun k => k == 0 || k == 4) false) (fun s i =>
      syncAfter s i (.cbar n gl 0) (if gl then opsOf s w.uid isStoreKind else (opsOf s w.uid isStoreKind).filter (out s)) n gl true)

/-- The ends of waits: a split whose phase ended, or whose map bits were set, resumes with its open; a sleeping split resumes at its cycle and checks the
clause waits again; a byte credit and a phase signal reach their slot, behind the earlier ones of one source and destination, unless the block is saved (R22, R199, R232, R235, R236,
R243, R244). A barrier or map wait that ends is a settle point (R45). -/
def Obligations.WaitsEnd : Prop :=
  ∀ (s : State) (u : SplitRef) (slot b cp n p k t m src : Nat) (tok o q : Bool) (mk : W64),
    let now := s.cyc u.w.die
    ((s.split u).st = .waitBar slot tok o true → exec (.barWake u) s = .next (resumeSplit s u o)) ∧
    ((s.split u).st = .waitMap slot mk true → exec (.barWake u) s = .next (resumeSplit s u false)) ∧
    ((s.split u).st = .waitBar slot tok o false → exec (.barWake u) s = .next s) ∧
    ((s.split u).st = .sleep t → t ≤ now →
      exec (.sleepExpiry u) s = .next (wakeSplit (s.updSplit u (fun x => { x with recheck := x.hdrw.isSome })) u)) ∧
    ((s.split u).st = .sleep t → now < t → exec (.sleepExpiry u) s = .next s) ∧
    (tfind s.msgs m = some (.credit b cp n p k src) → savedOut s b cp = false → msgFirst s m (.credit b cp n p k src) = true →
      exec (.byteCredit m) s = .next (creditBytes { s with msgs := tdel s.msgs m } b cp n p k)) ∧
    (tfind s.msgs m = some (.signal b cp n q src) → savedOut s b cp = false → msgFirst s m (.signal b cp n q src) = true →
      exec (.clusterSignal m) s = .next (peerSignal { s with msgs := tdel s.msgs m } b cp n q))

/-- cap.rd reads a word of the capacity record into D; ckacc folds each lane of E into the checksum pair and CKP in ascending order, and ckacc.clr clears
them; chk passes where the checksum is the expected one, else restarts the region, a twin wave with its block's other copy (R356), or raises 0x381; that a twin wave with RST = 1 and
RCNT = 8 aborts its kernel with reason 2 (R356, step 4) where R351 has trap 0x381 is log entry 84, the model's choice between the two;
memhint.compute opens a window of min(A, 1000) microseconds at each channel of the context, where none runs longer (R350, R351, R377, R379). rgn writes
whether the split holds every live lane, with an empty stack and WSM, to PQ; where it does, the region entry is recorded with the next RSEQ and the
wave's fragments, at once or in a twin wave once its compare entry is matched, unless SLACK stalls it (R348, R349, R354). -/
def Obligations.ChecksHintsAndRegions : Prop :=
  (∀ (s : State) (c : Cm) (cu : Cur) (w : Wave) (d : SReg) (a : SSrc) (v : VSrc) (p : SPair) (rst : Bool),
     let x := ssrc s w a
     let y := spair s w p
     let e := exSet s c cu w
     let r := (lanes e).foldl (fun ck l => ckFold ck (vsrc s w .int v 0 l)) (w.ck0, w.ck1, w.ckp)
     let same := !w.ckp && y.1 == w.ck1 ++ w.ck0
     Gated s (.capRd c d a) c cu w x.psn false 0 (fun s i => resultS s i d [⟨capWord s x.v.toNat, false⟩]) ∧
     (Issues s (.ckacc c v) c cu w → e ≠ 0 → EndsAs (.ckacc c v) s c cu.u { w with ck0 := r.1, ck1 := r.2.1, ckp := r.2.2 }) ∧
     (Issues s (.ckacc c v) c cu w → e = 0 → Gives (.ckacc c v) s c cu.u []) ∧
     (Issues s (.ckaccClr c) c cu w → e ≠ 0 → EndsAs (.ckaccClr c) s c cu.u { w with ck0 := 0, ck1 := 0, ckp := false }) ∧
     (Issues s (.ckaccClr c) c cu w → e = 0 → Gives (.ckaccClr c) s c cu.u []) ∧
     (Issues s (.chk c p rst) c cu w → (e = 0 ∨ (y.2 = false ∧ same = true)) → Gives (.chk c p rst) s c cu.u []) ∧
     Gated s (.chk c p rst) c cu w y.2 (!same && !(rst && (w.twin || decide (w.region.rcnt < 8)))) 0x381 (fun s i =>
       if same then s else if w.twin then twinRestart s w i.sp.pc.toNat else restartWave s cu.u.w) ∧
     Gated s (.memhintCompute c a) c cu w x.psn false 0 (fun s _ =>
       (s.ctx w.asid).chanset.foldl (fun s k => s.setChan k { s.chan k with
         hintTill := max (s.chan k).hintTill (s.now + 1100 * min x.v.toNat 1000) }) s)) ∧
  (∀ (s : State) (c : Cm) (cu : Cur) (w : Wave) (q : PReg), Issues s (.rgn c q) c cu w →
     let a := s.advance cu.u 1
     let is := issueOf s c cu w
     let n := wordAfter is.sp 1
     let ok := (is.sp.mask ||| w.exited ||| fragLanes (s.coreOf cu.u.w) w.uid) == 0xFFFFFFFF && w.stack.isEmpty && w.wsm == 0
     let entry : Region := ⟨n.1, if n.2 then n.1 else is.sp.hdr, is.sp.mask, w.ck0, w.ck1, w.ckp, w.rseq + 1, 0, fragsOf (s.coreOf cu.u.w) w.uid⟩
     (is.e = 0 → Gives (.rgn c q) s c cu.u []) ∧
     (is.e ≠ 0 → ok = false → Gives (.rgn c q) s c cu.u (predW s q is.e (fun _ => (false, false)) 2)) ∧
     (is.e ≠ 0 → ok = true → slackStall a is = true → exec (.rgn c q) s = .next s) ∧
     (is.e ≠ 0 → ok = true → compares is = false → EndsAs (.rgn c q) s c cu.u { w with
       pend := w.pend ++ predW s q is.e (fun _ => (true, false)) 2, rseq := w.rseq + 1, keyCnt := [], region := entry }) ∧
     (is.e ≠ 0 → ok = true → slackStall a is = false → compares is = true → ∃ t v, exec (.rgn c q) s = .next t ∧ t.wave cu.u.w = some v ∧
       v.rseq = w.rseq + 1 ∧ v.region = w.region ∧ v.keyCnt = [] ∧ ∃ o, v.pendRgn = w.pendRgn ++ [(o, entry)]))

/-- The events that move a split on: a settle release at its cycle makes the settled wave's split runnable; a split that its slice chooses, at a header or
inside a clause it resumes, enters it, and one whose clause waits, for the work outstanding as it entered, or whose mx.wait is satisfied goes on, a
settle point; a fetch fault parks the split that its slice issues from at the header or word that cannot be read; a replay opens its core for the context. Before its
time, none changes the machine (R36, R38, R39, R43, R45, R204, R220, R339). -/
def Obligations.SplitsMoveOn : Prop :=
  ∀ (s : State) (u : SplitRef) (w : Wave) (t : Nat) (cs : List Nat), s.wave u.w = some w →
    let now := s.cyc u.w.die
    let act := sliceAct s u.w.die u.w.core (sliceOfSlot u.w.slot)
    let chosen := act = .enter u
    let x := w.split u.k
    let h := x.hdrw.getD 0
    let f := fetchWord s w x.pc
    let g := fetchWord s w x.hdr
    let v := settleWave now w
    (x.st = .settle t → t ≤ now → exec (.settleRelease u) s =
      .next (tidy (arriveIf (s.setWave u.w (v.setSplit u.k { v.split u.k with st := .runnable, settle := none })) u) u.w)) ∧
    (x.st = .settle t → now < t → exec (.settleRelease u) s = .next s) ∧
    (chosen → exec (.clauseEntry u) s = .next (enterClause s u)) ∧
    (¬chosen → exec (.clauseEntry u) s = .next s) ∧
    (x.hold = .clause → clauseReady s u.w w x.cw h = true → exec (.clauseWaitRelease u) s = .next (releaseClause s u h)) ∧
    (x.hold = .batch cs → cs.all (mxFinished s) = true → exec (.clauseWaitRelease u) s = .next (tidy (goPast (settlePoint s u.w) u) u.w)) ∧
    (holdOver s u.w w x = false → exec (.clauseWaitRelease u) s = .next s) ∧
    (x.hold = .backoff t → t ≤ now → exec (.clauseWaitRelease u) s = .next (s.updSplit u (fun y => { y with hold := .none }))) ∧
    (act = .word u → f.2.2 ≠ 0 → exec (.codeFetchFault u) s = .next (fetchFault f.1 u x.pc f.2.2)) ∧
    (chosen → g.2.2 ≠ 0 → exec (.codeFetchFault u) s = .next (fetchFault g.1 u x.hdr g.2.2)) ∧
    ((act = .word u → f.2.2 = 0) → (chosen → g.2.2 = 0) → exec (.codeFetchFault u) s = .next s) ∧
    (x.hold = .replay → exec (.fragmentReplay u) s =
      .next ((dropOpen s u.w.die u.w.core w.asid).updSplit u (fun y => { y with hold := .none }))) ∧
    (x.hold ≠ .replay → exec (.fragmentReplay u) s = .next s)

/-- The events of a wait: a woken watch ends it with the woken value, a timeout and a poll read the word again at its home slice, and neither comes before
its cycle; in a twin wave two entries of one key with equal signatures leave the compare buffer and let the operation go on, unequal ones restart the
waves, and one whose statuses are not merged waits (R247, R248, R249, R353, R356). -/
def Obligations.WatchesAndTwins : Prop :=
  ∀ (s : State) (u : SplitRef) (va t nx o : Nat) (cond : WCond) (val v : W32) (til : Option Nat) (pl opn : Bool) (pq : PReg) (d : SReg) (e : Mask),
    let now := s.cyc u.w.die
    ((s.split u).st = .waitWatch va cond val til pl nx pq d e opn o (some v) →
      exec (.watchWake u) s = .next (endWait s u o pq d ⟨v, false⟩ true opn) ∧
      exec (.waitTimeout u) s = .next s ∧ exec (.watchPoll u) s = .next s) ∧
    ((s.split u).st = .waitWatch va cond val til pl nx pq d e opn o none → exec (.watchWake u) s = .next s) ∧
    ((s.split u).st = .waitWatch va cond val (some t) pl nx pq d e opn o none →
      (now < t → exec (.waitTimeout u) s = .next s) ∧
      (t ≤ now → exec (.waitTimeout u) s = .next (rereadWait s u va o e (fun s v => endWait s u o pq d v (wcond cond v.v val) opn)))) ∧
    ((s.split u).st = .waitWatch va cond val til true nx pq d e opn o none →
      (now < nx → exec (.watchPoll u) s = .next s) ∧
      (nx ≤ now → exec (.watchPoll u) s = .next (rereadWait s u va o e (fun s v =>
        if wcond cond v.v val then endWait s u o pq d v true opn
        else s.updSplit u (fun x => { x with st := .waitWatch va cond val til true (s.cyc u.w.die + 1024) pq d e opn o none }))))) ∧
    (∀ (x y : TwinE) (n : Nat), tfind s.twins o = some x → s.twins.find? (fun e => sameKey e.2 x && e.2.copy != x.copy) = some (n, y) →
      (x.sig = none ∨ y.sig = none → exec (.twinCompare o) s = .next s) ∧
      (x.sig ≠ none → x.sig = y.sig → exec (.twinCompare o) s = .next (releaseEntry { s with twins := tdel (tdel s.twins o) n }
        (if x.copy = 0 then x else y) (if x.copy = 0 then y else x))) ∧
      (∀ r w, x.sig ≠ none → y.sig ≠ none → x.sig ≠ y.sig → s.waves.find? (fun (z : WaveRef × Wave) => z.2.block == x.block && z.2.waveId == x.waveId) = some (r, w) →
        exec (.twinCompare o) s = .next (twinRestart s w x.va))) ∧
    (∀ x : TwinE, tfind s.twins o = some x → s.twins.find? (fun e => sameKey e.2 x && e.2.copy != x.copy) = none →
      exec (.twinCompare o) s = .next s)

/-- The copy commands: each stalls without a command credit or a free entry, as a ninth captured operation, behind a rec.fence of its split or of its wave
for its record, a cp.lin at a peer whose scratchpad is saved, and in an interlocked wave that reads scratchpad behind the wave's stores into it (R48, R147,
R311, R318), is checked, and where every check passes one copy joins the sluice's commands; no byte moves at the issue (R317, R320, R321, R322). The stalls
without a free entry, behind a rec.fence of the wave for its record, and at a saved peer are log entry 30 (DEDUCED). -/
def Obligations.CopiesAreAccepted : Prop :=
  ∀ (s : State) (c : Cm) (cu : Cur) (w : Wave) (rec crd msk : SReg) (spo slot len : SSrc) (dst src : CpEnd) (dir : LinDir),
    let run := fun (i : Instr) (cmpd tiled : Bool) (more : State → Issue → Bool) (chk : State → Issue → State × CpRes) (bl : State → Wave → List Nat) =>
      Sends s i c cu w 1 (fun s j => copyStall s j cmpd (if tiled then some (sreg64 s j.w rec).1.toNat else none) || more s j) (fun s j => copyGate (chk s j).1 j (chk s j).2 cmpd (bl s j.w))
    let lin := dir == .sg || dir == .gg
    run (.cpTile c rec crd spo slot) false true (fun _ _ => false) (fun s j => tileCheck s j .tile rec crd spo slot none) (fun s w => tileBlocks s w rec crd spo slot none) ∧
    run (.cpTilest c rec crd spo slot) true true spadStall (fun s j => tileCheck s j .tilest rec crd spo slot none) (fun s w => tileBlocks s w rec crd spo slot none) ∧
    run (.cpGat c rec crd spo slot msk) false true (fun _ _ => false) (fun s j => tileCheck s j .gat rec crd spo slot (some msk)) (fun s w => tileBlocks s w rec crd spo slot (some msk)) ∧
    run (.cpSca c rec crd spo slot msk) true true spadStall (fun s j => tileCheck s j .sca rec crd spo slot (some msk)) (fun s w => tileBlocks s w rec crd spo slot (some msk)) ∧
    run (.cpLin c dst src len slot dir) lin false
      (fun s j => ((match src with | .off _ => true | .glob _ => false) && spadStall s j) || atSaved s (linCheck s j dst src len slot dir)) (fun s j => (s, linCheck s j dst src len slot dir))
      (fun s w => [endBlock s w dst, endBlock s w src, (ssrc s w len).v.toNat, (ssrc s w slot).v.toNat]) ∧
    (∀ (s : State) (j : Issue) (accs : List CAcc) (nc total count tb n pb : Nat) (pc byte cmpd : Bool) (bl : List Nat),
      ∃ x, (copyGate s j (.ok accs nc total count pc tb n pb byte) cmpd bl).copies = s.copies ++ [(s.nextId, x)] ∧
        x.accs = accs ∧ x.fail = 0 ∧ x.told = [] ∧ (x.st = .queued ∨ x.st = .held ∧ j.w.twin = true) ∧
        (copyGate s j (.ok accs nc total count pc tb n pb byte) cmpd bl).hbm = s.hbm ∧
        (copyGate s j (.ok accs nc total count pc tb n pb byte) cmpd bl).slines = s.slines ∧
        (copyGate s j (.ok accs nc total count pc tb n pb byte) cmpd bl).cores = s.cores)

/-- cp.tile.then issues with its follow-on word, whose bounds and registers are checked with its own: it stalls where the word whose lanes it has would;
where the copy and the follow-on command pass, both are accepted, the follow-on gated on the copy, or one alone where the other's guard leaves no lane
(log entry 31: the model's reading), and the S bit of either word applies (R43).
rec.fence takes 0x104 for a poisoned operand and a command credit; once its close is done, an aligned one drops the record from every sluice but those of
fenced dies, and the lanes of a misaligned one fault with 0x105 (R311, R318, R324). Where a die is fenced as the word issues its split is held, and its lanes
fault with 0x106 if a die is fenced still; of a fence whose split has gone on each fenced die gives a record of that cause (R370; log entry 56, DEDUCED).
Where a fault at issue leaves a twin wave's rec.fence no lane, its entry is formed all the same (R353). That rec.fence stalls without a free entry, keeps
its credit until it is done and holds its split where misaligned, and the stalls of the copy that it shares, are log entry 30, and the order in which it
takes effect log entry 13 (both DEDUCED). -/
def Obligations.CopyPairsAndFences : Prop :=
  ∀ (s : State) (c : Cm) (cu : Cur) (w : Wave) (rec crd a : SReg) (spo slot : SSrc) (x : Instr) (o v : Nat) (y : Op),
    let b := s.advance cu.u 2
    let is := issueOf s c cu w
    let e2 := guardSet b is.w (followCm x c) is.sp.mask
    let k := tileCheck b is .tile rec crd spo slot none
    let f := followOf b is.w x
    let va := sreg64 (s.advance cu.u 1) is.w a
    let stall := decide (is.e ≠ 0) && copyStall b is false (some (sreg64 b is.w rec).1.toNat) || decide (e2 ≠ 0) && followStall b is f
    let settled := fun (t : State) => applySettle t cu.u (followCm x c)
    let pass := Issues s (.cpTileThen c rec crd spo slot) c cu w ∧ decode is.word1 none = .ok x ∧ boundsBad b is.w (refsOf x) = false ∧
      hazard b is.w (followCm x c) (refsOf x) = false
    (pass → stall = true → exec (.cpTileThen c rec crd spo slot) s = .next s) ∧
    (pass → is.e = 0 → e2 = 0 → Completes (.cpTileThen c rec crd spo slot) s c cu.u (settled b)) ∧
    (pass → is.e = 0 → e2 ≠ 0 → stall = false → followBad b is f = none →
      Completes (.cpTileThen c rec crd spo slot) s c cu.u (settled (acceptFollow b is f false (is.sp.pc + 8) is.word1))) ∧
    (∀ accs nc total count pc tb n pb byte, pass → is.e ≠ 0 → e2 = 0 → stall = false → k.2 = .ok accs nc total count pc tb n pb byte →
      Completes (.cpTileThen c rec crd spo slot) s c cu.u (settled (acceptCopy k.1 is accs nc total count pc tb n pb byte false [] none))) ∧
    (∀ accs nc total count pc tb n pb byte, pass → is.e ≠ 0 → e2 ≠ 0 → stall = false → k.2 = .ok accs nc total count pc tb n pb byte → followBad k.1 is f = none →
      Completes (.cpTileThen c rec crd spo slot) s c cu.u
        (settled (acceptCopy (acceptFollow k.1 is f true (is.sp.pc + 8) is.word1) is accs nc total count pc tb n pb byte false [] (some k.1.nextId)))) ∧
    (Issues s (.cpTileThen c rec crd spo slot) c cu w → boundsBad b is.w (refsOf x) = true → decode is.word1 none = .ok x →
      Completes (.cpTileThen c rec crd spo slot) s c cu.u (trapNext b is 0x003)) ∧
    Sends s (.recFence c a) c cu w 1 (fun s j => engStall s j true || !sluiceRoom s j.u.w.die j.u.w.core) (fun s j =>
      if va.2 then faultEntry s j false (faultMask j.e 0x104) true [va.1.toNat]
      else command (if va.1.toNat % 64 = 0 ∧ fencedDies s = [] then s else s.updSplit cu.u (fun x => { is.sp with st := x.st, last := x.last, hold := .op s.nextId })) j
        (.recFence va.1.toNat) true [va.1.toNat] (cmdAfter s j) none 0 (runRecFence va.1.toNat)) ∧
    (s.op o = some y → y.kind = .cmd (.recFence v) → accepted s y = true → y.inRq = false → y.twin = 0 → y.fin = false →
      let u : SplitRef := ⟨y.w, y.k⟩
      let t := { s with recs := s.recs.map (fun r => (r.1, if leveeUp s r.1.1 then r.2 else r.2.filter (fun e => !(e.1 == y.asid && e.2.1 == v)))) }
      (v % 64 = 0 → (s.split u).hold ≠ .op o → exec (.closeComplete o) s = .next (endOp ((fencedDies s).foldl (fun s _ => recordOp s y o 2 0x106 v) t) o)) ∧
      (v % 64 = 0 → (s.split u).hold = .op o → fencedDies s = [] → exec (.closeComplete o) s = .next (tidy (goPast (endOp t o) u) u.w)) ∧
      (v % 64 = 0 → (s.split u).hold = .op o → fencedDies s ≠ [] → exec (.closeComplete o) s = .next (fenceFault t o y 0x106)) ∧
      (v % 64 ≠ 0 → (s.split u).hold = .op o → exec (.closeComplete o) s = .next (fenceFault s o y 0x105)) ∧
      (v % 64 ≠ 0 → (s.split u).hold ≠ .op o → exec (.closeComplete o) s = .next (endOp s o)))

/-- The events of a copy: it starts where the sluice has a place and takes it next; an access is made once, its read and its write in one step (log entry 29:
the model's choice), with its cause where it has one; a chunk's event follows its last byte, and a released copy goes on. At the end COUNT takes the bytes moved, or bit 31 and the cause, in a BYTE or CHUNK slot, and
the events left follow: a credit of each chunk's bytes or its map bit for every chunk without one, or the one event of a copy without chunks; then its
follow-on command is handed on and the copy is DONE (R311, R320, R322, R323, R324, R325); that a failed copy too reports at COPY_COMPLETE is log entry 31,
the model's reading. -/
def Obligations.CopiesRun : Prop :=
  ∀ (s : State) (cp n : Nat) (c : Copy), tfind s.copies cp = some c →
    let set := fun (s : State) (f : Copy → Copy) => { s with copies := tupd s.copies cp f }
    let free := decide ((s.copies.filter (fun (x : Nat × Copy) => x.2.die == c.die && x.2.cluster == c.cluster && x.2.st == .active)).length < 4)
    let landed := c.accs.all (fun (a : CAcc) => a.chunk != n || a.fin)
    (c.st = .queued → free = true → nextQueued s c = some cp → sluiceCopies s c (fun x => x.st == .stalled && x.released && copyHere s x) = [] →
      exec (.copyStart cp) s = .next { set s (fun x => { x with st := .active }) with sluiceRr := tset s.sluiceRr (c.die, c.cluster) (c.w.core % 4) }) ∧
    (c.st ≠ .queued ∨ free = false → exec (.copyStart cp) s = .next s) ∧
    (c.st = .stalled → c.released = true → free = true → copyHere s c = true →
      exec (.copyRelease cp) s = .next (set s (fun x => { x with st := .active, stallVa := [], released := false }))) ∧
    (c.st ≠ .stalled ∨ c.released = false → exec (.copyRelease cp) s = .next s) ∧
    (∀ a, c.accs[n]? = some a → accReady s c a = true →
      let r := accRead s c a
      let y := accWrite r.1 c a r.2.1
      let accs := lset c.accs n { a with fin := true }
      (r.2.2.1 ≠ 0 → exec (.copyAccessReply cp n) s = .next (accCause r.1 cp c r.2.2.1 r.2.2.2)) ∧
      (r.2.2.1 = 0 → y.2.1 ≠ 0 → exec (.copyAccessReply cp n) s = .next (accCause y.1 cp c y.2.1 y.2.2)) ∧
      (r.2.2.1 = 0 → y.2.1 = 0 → exec (.copyAccessReply cp n) s = .next (set (clearCovered y.1 c accs a) (fun x => { x with accs := accs })))) ∧
    (∀ a, c.accs[n]? = some a → a.fin = true → exec (.copyAccessReply cp n) s = .next s) ∧
    ((c.st = .active ∨ c.st = .stalled) → c.fail = 0 → c.perChunk = true → n ∉ c.told → c.told.length + 1 < c.nchunk → n < c.nchunk →
      copyHere s c = true → landed = true →
      exec (.chunkLand cp n) s = .next (set (landEvent s c n) (fun x => { x with told := n :: x.told }))) ∧
    (landed = false ∨ n ∈ c.told → exec (.chunkLand cp n) s = .next s) ∧
    (let x := s.bar c.tblock c.tcopy c.slot
     let put := fun (y : Bar) => s.setBar c.tblock c.tcopy c.slot y
     let s1 := if retired s c.tblock c.tcopy then s
       else if x.kind = 2 ∨ x.kind = 3 then put { x with count := if c.fail = 0 then c.okCount else 0x80000000 + c.fail }
       else if x.kind = 0 then s else put { x with ovf := true }
     let event := fun (s : State) (bytes bit : Nat) =>
       if c.byte then creditBytes s c.tblock c.tcopy c.slot c.pb bytes else setChunk s c.tblock c.tcopy c.slot bit
     let s2 := if c.perChunk then ((List.range c.nchunk).filter (fun j => !c.told.contains j)).foldl (fun s j => event s (min 512 (c.total - 512 * j)) (c.pb + j)) s1
       else event s1 c.total c.pb
     let s3 := match c.follow with
       | some o => { s2 with mxs := tupd s2.mxs o (fun (x : MxCmd) => { x with gated := false }) }
       | none => s2
     (c.st = .active ∨ (c.st = .stalled ∧ c.fail ≠ 0)) → copyHere s c = true →
     (c.fail ≠ 0 ∨ ((∀ a ∈ c.accs, a.fin = true) ∧ (c.perChunk = false ∨ c.nchunk ≤ c.told.length + 1))) →
     (∀ x ∈ s.copies, x.2.peer ≠ some cp) → exec (.copyComplete cp) s = .next (set s3 (fun x => { x with st := .done }))) ∧
    (c.fail = 0 → (∃ a ∈ c.accs, a.fin = false) → exec (.copyComplete cp) s = .next s)

/-- fdl checks a format descriptor and writes it into FD[n] 2 cycles later, and stalls behind a phase close of its lanes (R283, R328, R329, R346); mx, mx.ldb and mx.st stall as a ninth captured operation or
unfinished command, and in an interlocked wave behind the operations that R48 names; they take their checks' trap or fault, and else are accepted
without changing a tile; a load names its macros' format, tag and owner at issue (R331, R334, R341, R344). -/
def Obligations.MatrixCommandsIssue : Prop :=
  ∀ (s : State) (c : Cm) (cu : Cur) (w : Wave) (n : BitVec 3) (p : SPair) (t : BitVec 4) (m0 m : BitVec 3) (mc : BitVec 2) (a q : SSrc) (sco : Option SSrc)
    (tag : BitVec 16) (tc z : Bool) (cv : MxCv) (rnd : Rnd),
    let adv := s.advance cu.u 1
    let fd := fun (k : BitVec 3) => readFd adv w k.toNat
    let stall := fun (s : State) (i : Issue) => fenced s i || decide (8 ≤ (captured s i.w.uid).length) || decide (8 ≤ mxCount s i.w.uid)
    let desc := spair s w p
    let x := ssrc s w a
    let y := ssrc s w q
    let o := match sco with | some v => ssrc s w v | none => Val.zero
    let nb := 2 ^ mc.toNat
    let b1 := mxBad adv w cu.u.w t.toNat (fd n) x m0.toNat nb tag tc z
    let b2 := ldbBad adv w m.toNat (fd n) x
    let load := MxKind.ldb m.toNat (fd n) x.v.toNat tag
    let b3 : Option MxBad :=
      if tilesOf s w ≤ t.toNat then some (.trap 0x201)
      else if x.psn || y.psn || o.psn then some (.fault 0x104)
      else if x.v.toNat % 16 ≠ 0 ∨ y.v.toNat % 16 ≠ 0 ∨ o.v.toNat % 4 ≠ 0 then some (.fault 0x105)
      else if spadSize s w < x.v.toNat + 15 * y.v.toNat + stRow cv ∨ (sco.isSome ∧ spadSize s w < o.v.toNat + 64) then some (.fault 0x102)
      else none
    GatedBy s (.fdl c n p) c cu w (closeHolds s c cu w) desc.2 (fdBad desc.1) 0x202 (fun s _ => writeFd s cu.u.w n.toNat desc.1 2) ∧
    (Issues s (.fdl c n p) c cu w → exSet s c cu w ≠ 0 → closeHolds s c cu w = false → desc.2 = false → fdBad desc.1 = false → Gives (.fdl c n p) s c cu.u
      [due s (.fd n.toNat) 3 [(0, ⟨desc.1.extractLsb' 0 32, false⟩), (1, ⟨desc.1.extractLsb' 32 32, false⟩)] 2]) ∧
    Sends s (.mx c t n a m0 mc tag tc z) c cu w 1 (fun s i => stall s i || spadStall s i || tileStall s i t.toNat) (fun s i => match b1 with
      | some (.trap k) => trapIs s i k 0
      | some (.fault k) => faultThen s i false (faultMask i.e k) (fun s _ => s)
      | none => acceptMx s i (.mx t.toNat (fd n) x.v.toNat m0.toNat nb z) false i.sp.pc i.word) ∧
    Sends s (.mxLdb c m n a tag) c cu w 1 (fun s i => stall s i || spadStall s i || macroStall s i load) (fun s i => match b2 with
      | some (.trap k) => trapIs s i k 0
      | some (.fault k) => faultThen s i false (faultMask i.e k) (fun s _ => s)
      | none => acceptMx s i load false i.sp.pc i.word) ∧
    (∀ (s : State) (i : Issue) (pc : Addr) (word : W64) (g : Bool) (j : Nat), j ∈ macrosOf load →
      issued (acceptMx s i load g pc word) i.u.w j = (fdFmt (fd n), tag, i.w.block)) ∧
    Sends s (.mxSt c t a q sco cv rnd) c cu w 1 (fun s i => stall s i || tileStall s i t.toNat) (fun s i => match b3 with
      | some (.trap k) => trapIs s i k 0
      | some (.fault k) => faultThen s i false (faultMask i.e k) (fun s _ => s)
      | none => acceptMx s i (.st t.toNat x.v.toNat y.v.toNat o.v.toNat sco.isSome cv rnd) false i.sp.pc i.word)

/-- mx.zero, mx.rd and mx.wr stall behind a phase close of their lanes (R283); they trap on a tile the block does not have and, the last two, on a row of 16 or more; they wait for the tile's commands at the
array, mx.rd only in an interlocked wave and for its own (R48); it reads the row into two vector registers six cycles later, mx.wr writes lanes of E of it, and mx.zero makes the tile zero and valid (R342,
R343). -/
def Obligations.TileAccess : Prop :=
  ∀ (s : State) (c : Cm) (cu : Cur) (w : Wave) (t : BitVec 4) (d v : VDst) (r : SSrc),
    let x := ssrc s w r
    let e := exSet s c cu w
    let k := s.tile w.block w.copy t.toNat
    let cell := fun (col : Nat) => (⟨tget 0 k.acc (64 * x.v.toNat + col), k.psn⟩ : Val)
    let vs := fun (s : State) => (lanes e).flatMap (fun l => [(l, readV s w (effV s w v) l), (32 + l, readV s w (effV s w v + 1) l)])
    let free := e ≠ 0 ∧ closeHolds s c cu w = false
    (∀ i ∈ [(.mxZero c t : Instr), .mxRd c d t r, .mxWr c t r v], Issues s i c cu w →
      (e = 0 → Gives i s c cu.u []) ∧
      (e ≠ 0 → closeHolds s c cu w = true → exec i s = .next s) ∧
      (free → tilesOf s w ≤ t.toNat → Completes i s c cu.u (trapIs (s.advance cu.u 1) (issueOf s c cu w) 0x201 0))) ∧
    (∀ i ∈ [(.mxRd c d t r : Instr), .mxWr c t r v], Issues s i c cu w → free → t.toNat < tilesOf s w →
      (x.psn = true → Completes i s c cu.u (faultThen (s.advance cu.u 1) (issueOf s c cu w) false (faultMask e 0x104) (fun s _ => s))) ∧
      (x.psn = false → 16 ≤ x.v.toNat → Completes i s c cu.u (trapIs (s.advance cu.u 1) (issueOf s c cu w) 0x201 0))) ∧
    (free → t.toNat < tilesOf s w → Issues s (.mxZero c t) c cu w →
      (mxAtArray s w.block w.copy t.toNat = true → exec (.mxZero c t) s = .next s) ∧
      (mxAtArray s w.block w.copy t.toNat = false →
        Completes (.mxZero c t) s c cu.u ((s.advance cu.u 1).setTile w.block w.copy t.toNat ⟨[], true, false, false⟩))) ∧
    (free → t.toNat < tilesOf s w → x.psn = false → x.v.toNat < 16 → Issues s (.mxRd c d t r) c cu w →
      (tileStall s (issueOf s c cu w) t.toNat = true → exec (.mxRd c d t r) s = .next s) ∧
      (tileStall s (issueOf s c cu w) t.toNat = false →
        Gives (.mxRd c d t r) s c cu.u (vecW s (effV s w d) e cell 6 ++ vecW s (effV s w d + 1) e (fun l => cell (32 + l)) 6))) ∧
    (free → t.toNat < tilesOf s w → x.psn = false → x.v.toNat < 16 → Issues s (.mxWr c t r v) c cu w →
      (mxAtArray s w.block w.copy t.toNat = true → exec (.mxWr c t r v) s = .next s) ∧
      (mxAtArray s w.block w.copy t.toNat = false →
        Completes (.mxWr c t r v) s c cu.u ((s.advance cu.u 1).setTile w.block w.copy t.toNat
          { acc := (vs s).foldl (fun m p => tset m (64 * x.v.toNat + p.1) p.2.v) k.acc, valid := true, dirty := true, psn := k.psn || (vs s).any (fun p => p.2.psn) })))

/-- mx.batch, mx.wait and mx.stat stall behind a phase close of their lanes (R283). mx.batch writes BC, closes the open batch and adds 1 to BC modulo 32, and stalls while the next number's batch runs; mx.wait holds the split
until its batch and every one closed before it have finished, and has no effect for a batch that is not closed or has finished; that it holds the split at its
own word, to look again when a command finishes, is log entry 32 (its last sentence), the model's choice; mx.stat traps for a tile the block does not have and else writes the status word (R339, R345). -/
def Obligations.MatrixBatches : Prop :=
  ∀ (s : State) (c : Cm) (cu : Cur) (w : Wave) (d : SReg) (n : BitVec 5) (sel : BitVec 8),
    let e := exSet s c cu w
    let free := e ≠ 0 ∧ closeHolds s c cu w = false
    (∀ i ∈ [(.mxBatch c d : Instr), .mxWait c n, .mxStat c d sel], Issues s i c cu w →
      (e = 0 → Gives i s c cu.u []) ∧ (e ≠ 0 → closeHolds s c cu w = true → exec i s = .next s)) ∧
    (Issues s (.mxBatch c d) c cu w → free → batchCmds s w ((w.bc + 1) % 32) ≠ [] → exec (.mxBatch c d) s = .next s) ∧
    (Issues s (.mxBatch c d) c cu w → free → batchCmds s w ((w.bc + 1) % 32) = [] → EndsAs (.mxBatch c d) s c cu.u { w with
      pend := w.pend ++ scaW s d.toNat e ⟨BitVec.ofNat 32 w.bc, false⟩ 2
      batches := w.batches.filter (fun (b : Batch) => !b.cmds.all (mxFinished s)) ++ [⟨w.bc, w.openBatch⟩], openBatch := [], bc := (w.bc + 1) % 32 }) ∧
    (Issues s (.mxWait c n) c cu w → free → batchCmds s w n.toNat = [] → Gives (.mxWait c n) s c cu.u []) ∧
    (Issues s (.mxWait c n) c cu w → free → batchCmds s w n.toNat ≠ [] →
      Completes (.mxWait c n) s c cu.u ((s.advance cu.u 1).updSplit cu.u (fun _ =>
        { w.split cu.u.k with hold := .batch (batchCmds s w n.toNat), last := s.cyc cu.u.w.die + 1 }))) ∧
    ((∀ b ∈ w.batches, b.num ≠ n.toNat) → batchCmds s w n.toNat = []) ∧
    (∀ pre b post, w.batches = pre ++ b :: post → b.num = n.toNat → (∀ b ∈ pre, b.num ≠ n.toNat) →
      batchCmds s w n.toNat = if b.cmds.all (mxFinished s) then [] else ((pre ++ [b]).flatMap (·.cmds)).filter (fun c => !mxFinished s c)) ∧
    (Issues s (.mxStat c d sel) c cu w → free → (16 ≤ sel.toNat ∨ sel.toNat < tilesOf s w) →
      Gives (.mxStat c d sel) s c cu.u (scaW s d.toNat e ⟨BitVec.ofNat 32 (mxStatVal s w cu.u.w sel.toNat), false⟩ 2)) ∧
    (Issues s (.mxStat c d sel) c cu w → free → sel.toNat < 16 → tilesOf s w ≤ sel.toNat →
      Completes (.mxStat c d sel) s c cu.u (trapIs (s.advance cu.u 1) (issueOf s c cu w) 0x201 0))

/-- The commands at the array: an mx starts after the earlier ones it depends on; its shadow then holds, for each row and column, the products of A and B
block by block on the committed value or on +0 (R95, R335, R341), and it changes no tile until it commits, at its pass count and ten cycles more; then
its tile holds the shadow, valid and dirty; a load makes its macros unreadable at its start, which is not before the earlier commands that use them, and
they hold B when it completes; a store writes the tile's rows and scale words to scratchpad, every other byte of which stays, and ends with its tile
clean where nothing was committed since it read the tile and the tile holds what it read; that DIRTY is kept where the tile differs from that, after an mx.wr,
though Table 16.4 names a commit alone, is log entry 74, the model's choice; none runs before its cycle, nor commits where its block is saved (R331, R334, R335, R344, Tables
3.11, 16.3). That the shadow is formed whole from A as read at the start or, by units, before it, and that B is read at any time up to the completion, are the
model's choices (log entry 32); R338 has A and B read after the start. -/
def Obligations.MatrixCommandsRun : Prop :=
  ∀ (s : State) (o : Nat) (x : MxCmd), tfind s.mxs o = some x →
    let now := s.cyc x.w.die
    (∀ t fd spa m0 nb z, x.kind = .mx t fd spa m0 nb z →
      (mxMayStart s o x = true → ∃ a y, exec (.mxStart o) s = .next a ∧ a = { s with mxs := a.mxs } ∧ tfind a.mxs o = some y ∧ y.st = .started ∧ y.startAt = now ∧
        (∀ i j, i < 16 → j < 64 → tget 0 y.shadow (64 * i + j) =
          BitVec.ofNat 32 (mxElem (if z then 0 else (tget 0 (s.tile x.block x.bcopy t).acc (64 * i + j)).toNat) j
            ((List.range nb).map (fun kb => ((aBlock x.units s x.block x.bcopy fd spa i kb).1, ((s.coreOf x.w).macro8 (m0 + blockMacros fd * kb)).b))))) ∧
        (y.psn = true ↔ (∃ i kb, i < 16 ∧ kb < nb ∧ (aBlock x.units s x.block x.bcopy fd spa i kb).2 = true) ∨
          ∃ kb, kb < nb ∧ ((s.coreOf x.w).macro8 (m0 + blockMacros fd * kb)).psn = true)) ∧
      (mxMayStart s o x = false → exec (.mxStart o) s = .next s) ∧
      (x.st = .started → savedOut s x.block x.bcopy = false → x.startAt + 4 * passes (fdFmt fd) + 10 ≤ now → exec (.mxCommit o) s = .next
        (mxFinish (noteCommit (s.setTile x.block x.bcopy t ⟨x.shadow, true, true, (s.tile x.block x.bcopy t).psn || x.psn⟩) x.block x.bcopy t) o)) ∧
      (now < x.startAt + 4 * passes (fdFmt fd) + 10 ∨ savedOut s x.block x.bcopy = true → exec (.mxCommit o) s = .next s)) ∧
    (∀ m fd p tag, x.kind = .ldb m fd p tag →
      let r := loadB x.units s x.block x.bcopy fd p
      let ms := (List.range (blockMacros fd)).map (· + m)
      let setAll := fun (f : Macro → Macro) => ms.foldl (fun (s : State) (n : Nat) => setMacro s x.w.die x.w.core n (f ((s.coreOf x.w).macro8 n))) s
      let free := ∀ y ∈ mxBefore s o x, shares (macrosOf y.2.kind) ms = false ∨ (isMx y.2.kind = true ∧ y.2.st = .started ∧ y.2.startAt + mxBusy y.2 ≤ now)
      (x.st = .waiting → x.gated = false → savedOut s x.block x.bcopy = false → free →
        exec (.mxLdbStart o) s = .next { setAll (fun _ => ⟨1, fdFmt fd, tag, x.block, Macro.fresh.b, false⟩) with
          mxs := tset s.mxs o { x with st := .started, startAt := now } }) ∧
      (x.st ≠ .waiting ∨ x.gated = true ∨ ¬free → exec (.mxLdbStart o) s = .next s) ∧
      (x.st = .started → x.startAt + 16 * blockMacros fd ≤ now →
        exec (.mxLdbComplete o) s = .next (mxFinish (setAll (fun y => { y with st := 2, b := r.1, psn := r.2 })) o)) ∧
      (x.st ≠ .started ∨ now < x.startAt + 16 * blockMacros fd → exec (.mxLdbComplete o) s = .next s)) ∧
    (∀ t spd str sco sc cv rnd, x.kind = .st t spd str sco sc cv rnd →
      let cyc := match cv with | .f32 => 16 | .bf16 => 8 | .f16 => 8 | .e4m3 => 6
      let rows := (List.range 16).map (fun i => stRowBytes cv rnd sc ((List.range 64).map (fun j => (tget 0 (stTile s x t).acc (64 * i + j)).toNat)))
      let written := (stCells rows spd str sco sc).filter (fun (y : Nat × Byte) => (tfind x.units (y.1 / 8 * 8)).isNone)
      (savedOut s x.block x.bcopy = true ∨ now < x.startAt + cyc → exec (.mxStFinish o) s = .next s) ∧
      (savedOut s x.block x.bcopy = false → x.startAt + cyc ≤ now → ∃ t', exec (.mxStFinish o) s = .next t' ∧ tfind t'.mxs o = none ∧
        t'.hbm = s.hbm ∧ t'.slines = s.slines ∧
        ((s.place x.block x.bcopy).isSome = true → ∀ off, (spadRead t' x.block x.bcopy off 1).1 = [(tfind written off).getD ((spadRead s x.block x.bcopy off 1).1.headD 0)]) ∧ ((tileAt s x.block x.bcopy t).isSome = true → (t'.tile x.block x.bcopy t) = { s.tile x.block x.bcopy t with dirty :=
          (s.tile x.block x.bcopy t).dirty && (x.late || decide ((stTile s x t).acc ≠ (s.tile x.block x.bcopy t).acc)) })))

/-- The frag, klaunch, qctl and psysw words send their command with the values their operands have at issue: frag.resume, klaunch, qctl and psysw close
first, a compared one stalls behind SLACK (R354), every one takes effect in issue order, and its status arrives in D (R164, R170, R173, R179, R222, R225). That
the order holds for qctl and psysw too, and across the kinds of command, is log entry 13 (DEDUCED); that a poisoned operand of frag, qctl and psysw counts
as its bits is the model's choice (log entry 22). -/
def Obligations.CommandsAreSent : Prop :=
  ∀ (s : State) (c : Cm) (cu : Cur) (w : Wave) (d : SReg) (p : SPair) (a b : SSrc) (sel : FragSel),
    let h := (spair s w p).1
    let x := ssrc s w a
    let y := ssrc s w b
    let mine := fun (s : State) => opsOf s w.uid (fun k => match k with | .cmd c => c != .exit | _ => false)
    let send := fun (i : Instr) (cmd : Cmd) (cmpd close : Bool) (bl : List Nat) (n : Nat) (run : State → Nat → State) =>
      Sends s i c cu w 1 (fun s j => cmpd && slackStall s j) (fun s j => command s j cmd cmpd bl (if close then cmdAfter s j else mine s) (some d) n run)
    let var := match sel with | .parked => 0 | .resumable => 1 | .any => 2
    let frag := fun (i : Instr) (k : Cmd) (cmpd close : Bool) (bl : List Nat) (n : Nat) => send i k cmpd close bl n (runFrag k)
    let queue := fun (i : Instr) (k : Nat) => send i (.qctl k d x.v h) true true [x.v.toNat, h.toNat] 1 (runQctl k d x.v h)
    let ctx := fun (i : Instr) (k : Nat) => send i (.psysw k d (x.v.toNat % 4096) h) true true [x.v.toNat, h.toNat] 1 (runPsysw k d (x.v.toNat % 4096) h)
    frag (.fragList c d p sel) (.fragList d h var) false false [] 2 ∧
    frag (.fragRead c d p a) (.fragRead d h x.v) false false [] 2 ∧
    frag (.fragResume c d p) (.fragResume d h) true true [h.toNat] 1 ∧
    frag (.fragKill c d p) (.fragKill d h) true false [h.toNat] 1 ∧
    frag (.fragPatch c d p a b) (.fragPatch d h x.v y.v) true false [h.toNat, x.v.toNat, y.v.toNat] 1 ∧
    queue (.qctlOpen c d a p) 1 ∧ queue (.qctlPause c d a p) 2 ∧ queue (.qctlResume c d a p) 3 ∧ queue (.qctlDrain c d a p) 4 ∧ queue (.qctlFlush c d a p) 5 ∧
    ctx (.psyswCreate c d a p) 1 ∧ ctx (.psyswPreempt c d a p) 2 ∧ ctx (.psyswRestore c d a p) 3 ∧ ctx (.psyswDestroy c d a p) 4 ∧ ctx (.psyswSetdl c d a p) 5

/-- What a command answers: a qctl or psysw of a queue or context that is absent, busy or without a row for it answers 3, 2 or 1 and changes nothing else;
klaunch turns a record away with 4, 3, 2 or 1 and appends nothing; a fragment handle that is malformed or of another context answers 1 or 2 (R164,
R173, R179, R224). That a bad argument is answered before busy, and that FLUSH is accepted while a queue is busy, are the model's choices (log entry 40). -/
def Obligations.CommandStatuses : Prop :=
  ∀ (s : State) (o k : Nat) (d : SReg) (q : W32) (arg h : W64) (asid : Nat) (bytes : List Byte) (l : Launch),
    let row := queueRow (s.queue q.toNat).st k
    (1024 ≤ q.toNat → runQctl k d q arg s o = giveStatus s o d [3]) ∧
    (q.toNat < 1024 → k ≠ 1 → arg ≠ 0 → runQctl k d q arg s o = giveStatus s o d [1]) ∧
    (q.toNat < 1024 → (k = 1 ∨ arg = 0) → (s.queue q.toNat).busy = true → k ≠ 5 → runQctl k d q arg s o = giveStatus s o d [2]) ∧
    (q.toNat < 1024 → (k = 1 ∨ arg = 0) → ((s.queue q.toNat).busy = false ∨ k = 5) → row = false → runQctl k d q arg s o = giveStatus s o d [1]) ∧
    (q.toNat < 1024 → (k = 1 ∨ arg = 0) → ((s.queue q.toNat).busy = false ∨ k = 5) → row = true →
      runQctl k d q arg s o = giveStatus (queueCmd s q.toNat k arg.toNat) o d [0]) ∧
    runPsysw k d 0 arg s o = giveStatus s o d [3] ∧
    (asid ≠ 0 → k ≠ 1 → arg ≠ 0 → runPsysw k d asid arg s o = giveStatus s o d [1]) ∧
    (asid ≠ 0 → (k = 1 ∨ arg = 0) → (s.ctx asid).busy = true → runPsysw k d asid arg s o = giveStatus s o d [2]) ∧
    (asid ≠ 0 → (k = 1 ∨ arg = 0) → (s.ctx asid).busy = false → ctxRow (s.ctx asid).st k = false → runPsysw k d asid arg s o = giveStatus s o d [1]) ∧
    (asid ≠ 0 → (k = 1 ∨ arg = 0) → (s.ctx asid).busy = false → ctxRow (s.ctx asid).st k = true →
      runPsysw k d asid arg s o = giveStatus (ctxCmd s asid k arg.toNat) o d [0]) ∧
    tryLaunch s asid bytes true = (s, 4) ∧
    (parseLaunch bytes = none → tryLaunch s asid bytes false = (s, 3)) ∧
    (parseLaunch bytes = some l → ((s.queue l.queue).asid ≠ asid ∨ ((s.queue l.queue).st ≠ .opened ∧ (s.queue l.queue).st ≠ .paused)) → tryLaunch s asid bytes false = (s, 2)) ∧
    (parseLaunch bytes = some l → (s.queue l.queue).asid = asid → ((s.queue l.queue).st = .opened ∨ (s.queue l.queue).st = .paused) →
      2 ^ (s.queue l.queue).qlog2 ≤ (s.queue l.queue).pend.length → tryLaunch s asid bytes false = (s, 1)) ∧
    ((bits h.toNat 44 20 ≠ 0 ∨ 15 < hDie h ∨ 39 < hCore h) → (fragEffect s asid (.fragResume d h)) = (s, 1, 0) ∧ (fragEffect s asid (.fragKill d h)) = (s, 1, 0)) ∧
    (bits h.toNat 44 20 = 0 → hDie h ≤ 15 → hCore h ≤ 39 → asid ≠ 0 → hAsid h ≠ asid →
      (fragEffect s asid (.fragResume d h)) = (s, 2, 0) ∧ (fragEffect s asid (.fragKill d h)) = (s, 2, 0))

/-- klaunch holds its split at the word with the record's address, and its lanes fault with 0x104 where that is poisoned; pg.inval takes 0x104 for a
poisoned operand and else is sent after its close, drops the covered pages and records, and answers its status; that the accesses of those pages that
have passed their checks are performed first is log entry 11, the order in which the command takes effect entry 13, and that a fenced die's sluices keep their
records entry 56 (each DEDUCED, the model's reading); where such a fault leaves no lane the entry of a twin wave is formed all the same (R353); when it completes, a stalled copy is
released once each page it stands at has been covered (R179, R298, R303, R304, Table 15.5). -/
def Obligations.LaunchAndInvalidate : Prop :=
  ∀ (s : State) (c : Cm) (cu : Cur) (w : Wave) (d : SReg) (r : SReg) (p : SPair) (b : SSrc) (o var asid : Nat) (va : W64) (x : Op),
    let e := exSet s c cu w
    let a := s.advance cu.u 1
    let is := issueOf s c cu w
    let y := ssrc s w b
    let h := spair s w p
    let pg := fun (i : Instr) (var : Nat) (asid : Val) (va : W64 × Bool) (bl : List Nat) =>
      Sends s i c cu w 1 slackStall (fun s j =>
        if asid.psn || va.2 then faultEntry s j false (faultMask j.e 0x104) true bl
        else command s j (.pgInval var d asid.v.toNat va.1) true bl (cmdAfter s j) (some d) 1 (runPgInval var d asid.v.toNat va.1))
    (Issues s (.klaunch c d r) c cu w → e = 0 → Gives (.klaunch c d r) s c cu.u []) ∧
    (Issues s (.klaunch c d r) c cu w → e ≠ 0 → cmdStall a is true = true → exec (.klaunch c d r) s = .next s) ∧
    (Issues s (.klaunch c d r) c cu w → e ≠ 0 → cmdStall a is true = false →
      let l := match is.cap with
        | some cp => cp.lanes.headD (mkLane 0 noData noData noData)
        | none => mkLane ((lanes e).headD 0) ((sreg64 s w r).1.toNat, (sreg64 s w r).2) noData noData
      (l.apsn = true → Completes (.klaunch c d r) s c cu.u (faultEntry a is true (spread true e [{ l with fin := false, cause := 0x104 }]) true [l.addr])) ∧
      (l.apsn = false → Completes (.klaunch c d r) s c cu.u (startKlaunch a is d { l with fin := false, cause := 0 }))) ∧
    pg (.pgInvalPage c d p b) 0 y h [h.1.toNat, y.v.toNat] ∧
    pg (.pgInvalAsid c d b) 1 y (0, false) [y.v.toNat] ∧
    pg (.pgInvalAll c d) 2 Val.zero (0, false) [] ∧
    (s.op o = some x → x.kind = .cmd (.pgInval var d asid va) → x.left = true → x.twin ≠ 3 →
      exec (.pgInvalComplete o) s = .next (giveStatus { s with copies := s.copies.map (fun (c : Nat × Copy) =>
        let l := c.2.stallVa.map (fun a => (a.1, a.2 || pgCovers var asid va c.2.asid (vpnOf a.1)))
        if c.2.st == .stalled then (c.1, { c.2 with stallVa := l, released := l.all (fun a => a.2) }) else c) } o d [0])) ∧
    (s.op o = some x → x.left = false → exec (.pgInvalComplete o) s = .next s) ∧
    (¬(var ≠ 2 ∧ 4095 < asid) → ¬(var = 0 ∧ 2 ^ 56 ≤ va.toNat) →
      let f := flushPages s (pgCovers var asid va)
      let u := leavePages s (pgCovers var asid va)
      (stillOut f (ofPages (pgCovers var asid va)) = true → runPgInval var d asid va s o = f) ∧
      (stillOut f (ofPages (pgCovers var asid va)) = false → runPgInval var d asid va s o = { u with recs := u.recs.map (fun (r : (Nat × Nat) × List (Nat × Nat × List Byte)) =>
        (r.1, if leveeUp u r.1.1 then r.2 else r.2.filter (fun e => !pgCovers var asid va e.1 (vpnOf e.2.1)))) }.updOp o (fun x => { x with left := true }))) ∧
    ((var ≠ 2 ∧ 4095 < asid) ∨ (var = 0 ∧ 2 ^ 56 ≤ va.toNat) → runPgInval var d asid va s o = giveStatus s o d [1])

/-- The end of a wave, of a block and of a kernel: a wave leaves its slot once its close is accepted and nothing of it is left; a block that is done has
its checked requests of peers performed, waits where one cannot be yet, frees its shares and adds 1 to its kernel's counter; a kernel at its last block, or aborted, waits for what
left its cores, then writes its job record, then its signal word, and then makes the host delivery, which is sent on an ACTIVE port, held on a port
that is DOWN, skipped with a record where the endpoint or the window does not fit, dropped after one second, and ends with the
peer's acknowledgement; that this is one passed frame of the connection's port is the model's choice (log entry 47); that a done block first has its
peers' checked requests performed and waits where one cannot be is log entry 11 (DEDUCED), that a wave's exit waits for its engine commands log entry 44
(DESIGN CHOICE), and that one with a replay queue left by its handler never ends log entry 79 (DESIGN CHOICE) (R180, R181, R184, R218, R367, Table 8.2). -/
def Obligations.KernelsEnd : Prop :=
  ∀ (s : State) (r : WaveRef) (w : Wave) (k b o : Nat) (x : Kern) (y : Block) (z : Op),
    let send := fun (P : Queue → Conn → Prop) => ∃ n q c, endpointOf s x.l.hqpn = some (n, q) ∧ tfind s.conns x.l.hqpn = some c ∧ q.asid = x.asid ∧ x.l.hoff + 4 ≤ c.winLen ∧ P q c
    let flushed := (List.range y.places.length).foldl (fun s j => flushPeer s b j) s
    let freed := y.places.foldl (fun s p => freeShare s p x.l) flushed
    (s.wave r = some w → w.exitOp = some o → s.op o = some z → accepted s z = true → w.rq = [] →
      opsOf s w.uid (fun k => isCapturedKind k || (match k with | .cmd c => c != .exit | _ => false)) = [] →
      (∀ t ∈ s.twins, t.2.block ≠ w.block ∨ t.2.copy ≠ w.copy ∨ t.2.waveId ≠ w.waveId) →
      exec (.exitCloseComplete r) s = .next (ctxIdle (removeWave s r w) w.asid)) ∧
    (s.wave r = some w → w.exitOp = none ∨ w.rq ≠ [] → exec (.exitCloseComplete r) s = .next s) ∧
    (s.wave r = some w → w.exitOp = some o → s.op o = some z → accepted s z = false → exec (.exitCloseComplete r) s = .next s) ∧
    (tfind s.blocks b = some y → blockDone s b y = true → peerOut flushed b = true → exec (.blockRetire b) s = .next flushed) ∧
    (tfind s.blocks b = some y → blockDone s b y = true → peerOut flushed b = false → flushed.kern y.kernel = some x →
      let t := countRetired (emptyMacros { freed with
        blocks := tset freed.blocks b { y with places := y.places.map (fun p => { p with retired := true }) }
        copies := freed.copies.filter (fun (c : Nat × Copy) => c.2.block != b) } b) y.kernel
      exec (.blockRetire b) s = .next (ctxIdle t x.asid)) ∧
    (tfind s.blocks b = some y → blockDone s b y = false → exec (.blockRetire b) s = .next s) ∧
    (s.kern k = some x → kernelQuiet s k = false → exec (.kernelSignalPerformed k) s = .next s) ∧
    (s.kern k = some x → x.phase = 1 → (x.st = .completing ∨ x.st = .aborted) → kernelQuiet s k = true →
      (x.l.hqpn = 0 → exec (.kernelSignalPerformed k) s = .next (finishKernel (writeSignal (writeJob s x) x) k)) ∧
      (x.l.hqpn ≠ 0 → exec (.kernelSignalPerformed k) s = .next ((writeSignal (writeJob s x) x).updKern k (fun y => { y with phase := 2 })))) ∧
    (s.kern k = some x → x.phase ≠ 1 → exec (.kernelSignalPerformed k) s = .next s) ∧
    (s.kern k = some x → x.phase = 2 →
      (send (fun _ c => s.port c.port = .active) → ∃ c, tfind s.conns x.l.hqpn = some c ∧ exec (.hostCompletionSend k) s = .next
        (({ s with conns := tset s.conns x.l.hqpn { c with sent := (c.rkey, (c.winVa + x.l.hoff) % 2 ^ 64, x.word) :: c.sent } }).updKern k (fun y => { y with phase := 4, sendAt := none }))) ∧
      (send (fun _ c => s.port c.port = .training) → exec (.hostCompletionSend k) s = .next s) ∧
      (send (fun _ c => s.port c.port = .down) → exec (.hostCompletionSend k) s = .next (s.updKern k (fun y => { y with sendAt := if y.sendAt.isSome then y.sendAt else some s.now }))) ∧
      ((endpointOf s x.l.hqpn = none ∨ tfind s.conns x.l.hqpn = none) → exec (.hostCompletionSend k) s = .next (skipSend s k x 0x106)) ∧
      (∀ n q c, endpointOf s x.l.hqpn = some (n, q) → tfind s.conns x.l.hqpn = some c →
        (q.asid ≠ x.asid → exec (.hostCompletionSend k) s = .next (skipSend s k x 0x106)) ∧
        (q.asid = x.asid → c.winLen < x.l.hoff + 4 → exec (.hostCompletionSend k) s = .next (skipSend s k x 0x102)))) ∧
    (∀ c, s.kern k = some x → tfind s.conns x.l.hqpn = some c →
      (x.phase = 4 → framesIn s c.port 1 = true → exec (.hostCompletionAck k) s = .next (finishKernel (takeFrames s c.port 1) k)) ∧
      (x.phase ≠ 4 ∨ framesIn s c.port 1 = false → exec (.hostCompletionAck k) s = .next s)) ∧
    (∀ t c, s.kern k = some x → x.sendAt = some t → tfind s.conns x.l.hqpn = some c →
      (s.port c.port = .down → (x.phase = 2 ∨ x.phase = 4) → t + 1100000000 < s.now → exec (.hostSendTimeout k) s = .next (skipSend s k x 0x106)) ∧
      (s.now ≤ t + 1100000000 ∨ s.port c.port ≠ .down → exec (.hostSendTimeout k) s = .next s))

/-- The queue engine: a launch message is dropped and acknowledged where its queue has no endpoint, left where its frames have not come in on an ACTIVE port or
it is not its connection's next message, and else taken, or answered without a launch where its header, its payload, its record, its queue or its state is wrong, or with reply 4 where the
queue is full; a dependence is met by a wake or a due read; counts are written while they change; a DRAINING queue closes
when it is empty and its kernels have finished; the next kernel is chosen by priority and round-robin, and starts or is aborted with reason 5 where it
fits no empty cluster; the next group goes to the first kernel in that order that can be placed, which is log entry 42's choice among those that can; the packets, PSNs and frames of
a message are log entry 47's; that a CLOSED queue's counts are written no more, though they changed, is log entry 66, the model's choice (R166, R167, R169, R171, R172, R177, R189, R366). -/
def Obligations.QueueEngineActs : Prop :=
  ∀ (s : State) (q k p d pn : Nat) (m : List Byte) (psn : Bool) (l : Launch) (x : Kern),
    let y := s.queue q
    let n := packets m.length
    let hdr := m.length = 136 ∧ recWord m 0 = 0x4C01000000000000
    let takes := (y.st = .opened ∨ y.st = .paused) ∧ l.queue = q
    (y.msg = false ∨ y.st = .closed →
      ((∀ p, p < 2 → framesIn s p n = false) → exec (.launchMessage q ⟨pn, m⟩ psn) s = .next s) ∧
      ((∃ p, p < 2 ∧ framesIn s p n = true) → ∃ p, p < 2 ∧ framesIn s p n = true ∧
        exec (.launchMessage q ⟨pn, m⟩ psn) s = .next { reject (takeFrames s p n) q with acks := (p, q, pn) :: (reject (takeFrames s p n) q).acks })) ∧
    (y.msg = true → y.st ≠ .closed → peerOp s y.qpn pn n = none → exec (.launchMessage q ⟨pn, m⟩ psn) s = .next s) ∧
    (∀ z p, y.msg = true → y.st ≠ .closed → peerOp s y.qpn pn n = some (z, p) →
      let t := takeFrames s p n
      let drop := peerDone (reject t q) y.qpn n []
      (¬hdr ∨ psn = true ∨ parseLaunch (m.drop 8) = none → exec (.launchMessage q ⟨pn, m⟩ psn) s = .next drop) ∧
      (hdr → psn = false → parseLaunch (m.drop 8) = some l →
        (¬takes → exec (.launchMessage q ⟨pn, m⟩ psn) s = .next drop) ∧
        (takes → 2 ^ y.qlog2 ≤ y.pend.length → exec (.launchMessage q ⟨pn, m⟩ psn) s = .next (reply t y.qpn 4 [])) ∧
        (takes → y.pend.length < 2 ^ y.qlog2 → exec (.launchMessage q ⟨pn, m⟩ psn) s = .next (peerDone (appendLaunch t y.asid l) y.qpn n [])))) ∧
    (∀ z, y.deps[d]? = some z →
      (z.woken = true → (pendingHead s q).isSome = true → exec (.dependenceWake q d) s = .next (newHead (updDep s q d (fun y => { y with met := true, woken := false })) q)) ∧
      (z.woken = false → exec (.dependenceWake q d) s = .next s)) ∧
    (pendingHead s q = none → exec (.dependencePoll q) s = .next s) ∧
    (pendingHead s q = some (k, x) →
      let due := fun (s : State) (i : Nat) => (s.queue q).deps[i]?.any (fun y => !y.met && !y.armed && !y.woken && decide (y.next ≤ s.now))
      exec (.dependencePoll q) s = .next (newHead ((x.l.deps.mapIdx (fun i d => (i, d))).foldl (fun s d => if due s d.1 then evalDep s q x.asid d.1 d.2 false else s) s) q)) ∧
    (y.stale = true → y.st ≠ .closed → exec (.queueStatusRefresh q) s = .next (queueCounts s q)) ∧
    (y.stale = false ∨ y.st = .closed → exec (.queueStatusRefresh q) s = .next s) ∧
    (y.st = .draining → y.pend = [] → (∀ k ∈ s.kerns, k.2.l.queue = q → k.2.finished = true) →
      exec (.queueDrainComplete q) s = .next (closeQueue (s.setQueue q { y with result := 0 }) q)) ∧
    (y.st ≠ .draining ∨ y.pend ≠ [] → exec (.queueDrainComplete q) s = .next s) ∧
    (selectable s = [] → exec .kernelSelect s = .next s) ∧
    (firstBy s.selRr (selectable s) = some (q, k, p) → s.kern k = some x →
      let t := (selectable s).foldl (fun (s : State) (x : Nat × Nat × Nat) => if x.2.1 = k then s else s.updKern x.2.1 (fun y => { y with selPassed := y.selPassed + 1 }))
        { s with selRr := tset s.selRr p q }
      (fitsEmpty x.l = true → exec .kernelSelect s = .next (newHead ((leaveQueue t q k).updKern k (fun y => { y with st := .dispatching, tstart := t.ns, selPassed := 0 })) q)) ∧
      (fitsEmpty x.l = false → exec .kernelSelect s = .next (newHead (abortKernel t k 5 0) q))) ∧
    (dispatchable s = [] ∨ schedulerUp s = false → exec .groupHandout s = .next s) ∧
    (schedulerUp s = true → handFirst s (dispatchable s).length (dispatchable s) = none → exec .groupHandout s = .next s) ∧
    (∀ t, schedulerUp s = true → handFirst s (dispatchable s).length (dispatchable s) = some (t, q, k, p) → exec .groupHandout s = .next ((dispatchable s).foldl
      (fun (t : State) (x : Nat × Nat × Nat) => if x.2.1 = k then t else t.updKern x.2.1 (fun y => { y with passed := y.passed + 1 })) { t with outRr := tset t.outRr p q }))

/-- A context being pre-empted: a block at rest, or drained on a core whose deadline has passed, is saved once its peers' checked requests are performed and
no QUEUED or ACTIVE copy is at it (for peers log entries 30 and 11, DEDUCED); such a forced block's unmatched twin entries and its accesses at saved peers are taken out once its waves have stopped, and
its mx abandoned as it is saved; an expired deadline stops the context's waves
on its core, counts no more, and is noted where a block is unsaved; the context is SAVED once every block is saved, its stores are performed and its records written, or DEAD with its
blocks discarded where an image cannot be written; a DRAINING context whose work has ended aborts the launches its queues have taken meanwhile, and
with none left it retires the context's lines and is FREE with every field as at reset, its key too, but its last command: no line of its ASID is left in a slice
or, but for fenced dies, in an L1 or a sluice (log entry 56); where no die is fenced a keyed context's lines go as they are and an unkeyed one's are written
back, and else nothing is changed by it; before that none of these changes the machine, but for the peers' checked requests that are performed (R144, R154, R155, R156,
R167, Table 6.2). -/
def Obligations.ContextsEnd : Prop :=
  ∀ (s : State) (asid b : Nat) (x : Block) (k : Kern),
    let c := s.ctx asid
    let gone := s.waves.any (fun (w : WaveRef × Wave) => w.2.asid == asid)
    let open' := s.blocks.any (fun (b : Nat × Block) => (s.kern b.2.kernel).any (fun k => k.asid == asid) && b.2.places.any (fun p => !p.retired && !p.saved))
    let stores := s.ops.any (fun (o : Nat × Op) => o.2.asid == asid && !o.2.inRq && !o.2.performed && isStoreKind o.2.kind)
    let told := s.recq.any (fun r => r.asid == asid)
    let t := { s with cores := s.cores.map (fun (c : (Nat × Nat) × Core) => (c.1, { c.2 with deadlines := tdel c.2.deadlines asid })) }
    (tfind s.blocks b = some x → s.kern x.kernel = some k → (s.ctx k.asid).st = .preempting → (∀ p ∈ x.places, p.retired = false ∧ p.saved = false) →
      let v := (List.range x.places.length).foldl (fun s j => flushPeer s b j) s
      let u := startForced v b
      let stopped := (blockWaves v b).all (fun w => w.2.stopped)
      let forced := x.places.all (fun p => expired v p.die p.core k.asid)
      (peersDone v b = false → exec (.blockRestSave b) s = .next v) ∧
      (peersDone v b = true → blockAtRest v b = true → blockWaves v b ≠ [] → exec (.blockRestSave b) s = .next (saveBlock v k.asid b x k.l)) ∧
      (peersDone v b = true → (blockAtRest v b = false ∨ blockWaves v b = []) → forced = true → stopped = true → entriesLone v b = true →
        exec (.blockRestSave b) s = .next (if blockDrained u b then saveBlock (abandonBlockMx u b) k.asid b x k.l else u)) ∧
      ((blockAtRest v b = false ∨ blockWaves v b = []) → (forced = false ∨ stopped = false ∨ entriesLone v b = false) → exec (.blockRestSave b) s = .next v)) ∧
    (tfind s.blocks b = some x → s.kern x.kernel = some k → (s.ctx k.asid).st ≠ .preempting → exec (.blockRestSave b) s = .next s) ∧
    (c.st = .preempting → exec (.preemptDeadlineExpiry asid) s = .next ((s.cores.filter (fun (c : (Nat × Nat) × Core) => (tfind c.2.deadlines asid).any (fun t => decide (t ≤ s.cyc c.1.1)))).foldl
      (fun (s : State) (c : (Nat × Nat) × Core) =>
        let k := s.core c.1.1 c.1.2
        let s := if unsavedOn s c.1.1 c.1.2 asid then s.setCtx asid { s.ctx asid with forced := (s.ctx asid).forced ++ [c.1] } else s
        let s := s.setCore c.1.1 c.1.2 { k with deadlines := tdel k.deadlines asid }
        (s.waves.filter (fun (w : WaveRef × Wave) => w.2.asid == asid && w.1.die == c.1.1 && w.1.core == c.1.2)).foldl (fun s w => stopWave s w.1 w.2) s) s)) ∧
    (c.st ≠ .preempting → exec (.preemptDeadlineExpiry asid) s = .next s ∧ exec (.contextSaved asid) s = .next s) ∧
    (c.st = .preempting → gone = false → open' = false → stores = false → told = false →
      ((writeImages t asid).2 = 0 → exec (.contextSaved asid) s = .next (ctxDone (writeImages t asid).1 asid .saved 0)) ∧
      ((writeImages t asid).2 ≠ 0 → exec (.contextSaved asid) s = .next (ctxDone (discardBlocks (writeImages t asid).1 asid) asid .dead 3))) ∧
    (gone = true ∨ open' = true ∨ stores = true ∨ told = true → exec (.contextSaved asid) s = .next s) ∧
    (c.st ≠ .draining ∨ gone = true → exec (.contextDrainComplete asid) s = .next s) ∧
    (c.st = .draining → gone = false → (∀ o ∈ s.ops, o.2.asid = asid → o.2.performed = true) → (∀ o ∈ s.copies, o.2.asid = asid → o.2.st = .done ∨ o.2.st = .dropped) →
      (∀ o ∈ s.kerns, o.2.asid = asid → o.2.phase = 3 ∧ o.2.st ≠ .pending ∧ o.2.st ≠ .ready) → told = false →
      exec (.contextDrainComplete asid) s = .next (freeCtx (retireAsid s asid) asid) ∧ (freeCtx (retireAsid s asid) asid).ctx asid = { Ctx.fresh with lastCmd := 4 }) ∧
    (let a := retireAsid s asid
     (∀ d n, leveeUp s d = false → ∀ l ∈ (a.core d n).l1, l.asid ≠ asid) ∧ (∀ e ∈ a.slines, e.1.1 ≠ asid) ∧
     (∀ r ∈ a.recs, leveeUp s r.1.1 = false → ∀ e ∈ r.2, e.1 ≠ asid) ∧
     (fencedDies s = [] → c.keyed = true → a = { s with slines := s.slines.filter (fun e => e.1.1 != asid), cores := a.cores, recs := a.recs }) ∧
     (fencedDies s = [] → c.keyed = false → a = { evictWhere s (fun n _ _ => n == asid) with cores := a.cores, recs := a.recs })) ∧
    (c.st = .draining → gone = false → (∀ o ∈ s.ops, o.2.asid = asid → o.2.performed = true) → (∀ o ∈ s.copies, o.2.asid = asid → o.2.st = .done ∨ o.2.st = .dropped) →
      (∀ o ∈ s.kerns, o.2.asid = asid → o.2.phase = 3 ∨ o.2.st = .pending ∨ o.2.st = .ready) → told = false → ctxPending s asid ≠ [] →
      exec (.contextDrainComplete asid) s = .next ((ctxPending s asid).foldl (fun s k => abortKernel s k 4 0) s))

/-- A link of the package: once in 1 ms its eye is measured, and a low one steps its rate down or, at the lowest, leaves a record; its return clears the busy state; a failed lane takes a free
spare, or the link goes DOWN; an exhausted retry takes an ACTIVE or STEPPED link DOWN; a training that ends has stepped the rate down from 32 GT/s, each
step a change of the capacity record, and makes the link ACTIVE at 32 GT/s, STEPPED below, or DOWN (R357 to R362, Table 18.1). That GEN counts each rate step
once is log entry 39, the model's reading; that a link that does not exist faults by name is log entry 52, the model's choice. -/
def Obligations.LinksChange : Prop :=
  ∀ (s : State) (l : LinkRef) (low tx : Bool) (rate : Option LinkRate),
    let x := s.link l
    let up := x.st = .active ∨ x.st = .stepped
    let early := x.eyeAt.any (fun t => decide (s.now < t + 1100000))
    let m := setLink s l { x with eyeAt := some s.now }
    (linkOk l = false → ∀ i ∈ [(.eyeMeasure l low : Instr), .linkReturn l, .laneFail l tx, .flitRetryExhausted l, .linkTrainDone l rate], exec i s = .fault (.noSuchUnit l.chiplet)) ∧
    (linkOk l = true →
      (early = true → exec (.eyeMeasure l low) s = .next s) ∧
      (early = false → (¬up ∨ low = false) → exec (.eyeMeasure l low) s = .next m) ∧
      (early = false → up → low = true → (∀ r, stepDown x.rate = some r → exec (.eyeMeasure l low) s = .next (setLink m l { m.link l with st := .stepped, rate := r, busy := true })) ∧
        (x.rate = .g8 → exec (.eyeMeasure l low) s = .next (linkReport m l))) ∧
      exec (.linkReturn l) s = .next (setLink s l { x with busy := false }) ∧
      (¬up → x.st ≠ .training → exec (.laneFail l tx) s = .next s) ∧
      (up ∨ x.st = .training → (if tx then x.spareTx else x.spareRx) = 0 → exec (.laneFail l tx) s = .next (linkDown s l)) ∧
      (up ∨ x.st = .training → (if tx then x.spareTx else x.spareRx) ≠ 0 → exec (.laneFail l tx) s = .next (setLink s l { x with
        spareTx := if tx then x.spareTx - 1 else x.spareTx, spareRx := if tx then x.spareRx else x.spareRx - 1, busy := x.st == .active || x.st == .stepped })) ∧
      (up → exec (.flitRetryExhausted l) s = .next (linkDown s l)) ∧
      (¬up → exec (.flitRetryExhausted l) s = .next s) ∧
      (x.st ≠ .training → exec (.linkTrainDone l rate) s = .next s) ∧
      (x.st = .training → exec (.linkTrainDone l none) s = .next (linkDown (stepTo s l none 4) l) ∧
        ∀ r, let t := stepTo s l (some r) 4
          exec (.linkTrainDone l (some r)) s = .next (setLink t l { t.link l with st := if r = .g32 then .active else .stepped }) ∧
          (x.rate = .g32 → (t.link l).rate = r ∧ (t.link l).st = .training ∧
            t.gen = s.gen + (match r with | .g32 => 0 | .g24 => 1 | .g16 => 2 | .g12 => 3 | .g8 => 4))))

/-- Ports and peers: a port goes DOWN or ACTIVE; an ACTIVE one takes a frame with a valid SecTAG once its secure channel is established and drops any
other, but an EAPOL frame, which may establish the channel (log entry 47: the model's choice); an endpoint without a connection accepts one with the
window of its private data; a WRITE, READ or atomic next in PSN order whose frames have come in is performed at its bytes and answered with its data
and the next PSN, or answered with the code of its cause and recorded; a compare that fails writes nothing; an operation out of order, or whose frames have not come in, does nothing; an
invalid request is answered, in its connection or outside any, and leaves the rest as it was (R363 to R366, Table 18.2). The packets of 4096 bytes, the frames and the PSNs that an operation or a
connect request takes are log entry 47's, and that a port number above 1 faults by name is log entry 52's: the model's choices. -/
def Obligations.PortsAndPeers : Prop :=
  ∀ (s : State) (port qpn psn n p : Nat) (q : Queue) (va v cmp : W64) (data priv : List Byte) (sec eapol : Bool),
    let asid := q.asid
    let up := tget false s.secured port
    let f := fun (a n : Nat) => if priv.length < 16 then 0 else leVal ((priv.drop a).take n)
    (2 ≤ port → ∀ i ∈ [(.ethFrameReceive port sec eapol : Instr), .ethPortDown port, .ethPortActive port, .roceConnectRequest port qpn psn priv], exec i s = .fault (.noSuchUnit port)) ∧
    (port < 2 → exec (.ethPortDown port) s = .next (portDown s port)) ∧
    (port < 2 → s.port port ≠ .active → exec (.ethFrameReceive port sec eapol) s = .next s) ∧
    (port < 2 → eapol = false → (sec = false ∨ up = false) → exec (.ethFrameReceive port sec eapol) s = .next s) ∧
    (port < 2 → s.port port = .active → eapol = false → sec = true → up = true →
      exec (.ethFrameReceive port sec eapol) s = .next { s with frames := tset s.frames port (tget 0 s.frames port + 1) }) ∧
    (port < 2 → s.port port = .active → eapol = true → ∃ b, (up = true → b = true) ∧ exec (.ethFrameReceive port sec eapol) s = .next { s with secured := tset s.secured port b }) ∧
    (port < 2 → (port = 0 ∨ (s.die 0x31).st = .active) → ∃ t, exec (.ethPortActive port) s = .next t ∧ t.ports = tset s.ports port .active ∧ (∀ k, s.kern k = none → t.kern k = none) ∧
      t = { s with ports := t.ports, kerns := t.kerns }) ∧
    ((s.die 0x31).st ≠ .active → exec (.ethPortActive 1) s = .next s) ∧
    (port < 2 → framesIn s port 1 = true → (endpointOf s qpn).isSome = true → tfind s.conns qpn = none → exec (.roceConnectRequest port qpn psn priv) s =
      .next { takeFrames s port 1 with conns := s.conns ++ [(qpn, ⟨qpn, port, f 0 8, f 8 4, f 12 4, psn % 2 ^ 24, [], []⟩)] }) ∧
    (port < 2 → framesIn s port 1 = false → exec (.roceConnectRequest port qpn psn priv) s = .next s) ∧
    (port < 2 → framesIn s port 1 = true → (endpointOf s qpn = none ∨ (tfind s.conns qpn).isSome = true) →
      exec (.roceConnectRequest port qpn psn priv) s = .next (takeFrames s port 1)) ∧
    (peerOp s qpn psn (packets data.length) = none → exec (.rdmaWrite qpn psn va data) s = .next s) ∧
    (peerOp s qpn psn 1 = none → ∀ i ∈ [(.rdmaRead qpn psn va n : Instr), .fetchAndAdd qpn psn va v, .compareAndSwap qpn psn va cmp v], exec i s = .next s) ∧
    (peerOp s qpn psn (packets data.length) = some (q, p) →
      let w := devWrite (takeFrames s p (packets data.length)) asid va.toNat data
      (w.2.1 = 0 → exec (.rdmaWrite qpn psn va data) s = .next (peerDone w.1 qpn (packets data.length) [])) ∧
      (w.2.1 ≠ 0 → exec (.rdmaWrite qpn psn va data) s = .next (peerFail w.1 qpn asid w.2.1 w.2.2))) ∧
    (peerOp s qpn psn 1 = some (q, p) →
      let u := takeFrames s p 1
      let r := devRead u asid va.toNat n
      (r.2.2.1 = 0 → exec (.rdmaRead qpn psn va n) s = .next (peerDone r.1 qpn (packets n) r.2.1)) ∧
      (r.2.2.1 ≠ 0 → exec (.rdmaRead qpn psn va n) s = .next (peerFail r.1 qpn asid r.2.2.1 r.2.2.2)) ∧
      (2 ^ 56 ≤ va.toNat → ∀ i ∈ [(.fetchAndAdd qpn psn va v : Instr), .compareAndSwap qpn psn va cmp v], exec i s = .next (peerFail u qpn asid 0x102 va.toNat)) ∧
      (va.toNat < 2 ^ 56 → va.toNat % 8 ≠ 0 → ∀ i ∈ [(.fetchAndAdd qpn psn va v : Instr), .compareAndSwap qpn psn va cmp v], exec i s = .next (peerFail u qpn asid 0x105 va.toNat)) ∧
      (∀ t x, va.toNat < 2 ^ 56 → va.toNat % 8 = 0 → reachLine (arriveAt u asid va.toNat) asid va.toNat .wr = (t, .ok x) → x.psn = false → x.pp = false →
        let old := leVal ((x.data.drop (va.toNat % 128)).take 8)
        exec (.fetchAndAdd qpn psn va v) s = .next (peerDone (putLine t asid va.toNat x (leBytes 8 ((old + v.toNat) % 2 ^ 64))) qpn 1 (leBytes 8 old)) ∧
        exec (.compareAndSwap qpn psn va cmp v) s =
          .next (peerDone (if old = cmp.toNat then putLine t asid va.toNat x (leBytes 8 v.toNat) else t) qpn 1 (leBytes 8 old)))) ∧
    ((∀ c, tfind s.conns qpn = some c → framesIn s c.port 1 = false) → (∀ p, p < 2 → framesIn s p 1 = false) → exec (.invalidRequestOp qpn) s = .next s) ∧
    ((∀ c, tfind s.conns qpn = some c → framesIn s c.port 1 = false) → (∃ p, p < 2 ∧ framesIn s p 1 = true) →
      ∃ p, p < 2 ∧ framesIn s p 1 = true ∧ exec (.invalidRequestOp qpn) s = .next { takeFrames s p 1 with naks := (p, qpn) :: s.naks }) ∧
    (∀ c, tfind s.conns qpn = some c →
      (framesIn s c.port 1 = true → exec (.invalidRequestOp qpn) s =
        .next { takeFrames s c.port 1 with conns := tupd s.conns qpn (fun (c : Conn) => { c with replies := (1, []) :: c.replies }) }))

/-- A request of the management block: one that fails the checks completes with RESULT 2; FENCE, RESET, POWEROFF, ADMIT, TAKEOVER, RETIRE, GETKEY and
READMIT act where the target's state allows and else complete with RESULT 1, as a RESET or POWEROFF does that was submitted before the die's FENCE was
complete (R397; log entry 55: that R397's words for RESET hold for POWEROFF too is the model's reading); without a request pending, or with one in progress,
nothing happens (R368 to R375, R380, R392, Table 19.2). A GETKEY whose answer cannot be written completes with RESULT 2 and a record: log entry 38, the
model's choice. -/
def Obligations.ManagementRequests : Prop :=
  ∀ (s s0 : State) (d : List Byte) (va k : Nat),
    let seq := bits (recWord d 1) 0 32
    let t := { s0 with mgmtPend := false }
    let n := targetOf t d
    let u := bits (recWord d 1) 48 8
    let lid := bits (recWord d 1) 40 8
    let ch := recWord d 2
    let st := (t.die n).st
    let key := devWrite t 0 ch devicePoint
    let cmd := fun (k : Nat) => match k with
      | 1 => some (.fence : Instr) | 2 => some .reset | 3 => some .poweroff | 4 => some .admitDie | 5 => some .takeover | 6 => some .retire | 7 => some .getkey | 8 => some .readmit | _ => none
    (∀ i, cmd k = some i → (s.mgmtPend = false ∨ s.mgmtBusy.isSome = true) → exec i s = .next s) ∧
    (s.mgmtPend = true → s.mgmtBusy = none → devRead s 0 Config.mgmtVa 64 = (s0, d, 0, va) →
      (∀ i, cmd k = some i → bits (recWord d 1) 56 8 = k → reqBad t d = true → exec i s = .next (finishReq t k seq 2)) ∧
      (∀ i, cmd k = some i → 1 < k → bits (recWord d 1) 56 8 ≠ k → exec i s = .next s) ∧
      (bits (recWord d 1) 56 8 = k → reqBad t d = false →
        (k = 1 → fenceOk t n = true → exec .fence s = .next (enterFencing (busyReq t 1 n seq) n false)) ∧
        (k = 1 → fenceOk t n = false → exec .fence s = .next (finishReq t 1 seq 1)) ∧
        (k = 2 → st = .quiesced → t.mgmtEarly ≠ some n → exec .reset s = .next ((busyReq (clearDie t n) 2 n seq).setDie n { t.die n with st := .reset })) ∧
        (k = 2 → (st ≠ .quiesced ∨ t.mgmtEarly = some n) → exec .reset s = .next (finishReq t 2 seq 1)) ∧
        (k = 3 → st = .quiesced → t.mgmtEarly ≠ some n →
          let u := if isCache n = true then (channelsOf n).foldl flushChan t else t
          exec .poweroff s = .next (finishReq (u.setDie n { (u.die n).setMhz u.now 0 with st := .off, grant := 0 }) 3 seq 0)) ∧
        (k = 3 → (st ≠ .quiesced ∨ t.mgmtEarly = some n) → exec .poweroff s = .next (finishReq t 3 seq 1)) ∧
        (k = 4 → (st = .off ∨ st = .failed) → exec .admitDie s = .next (toAdmitting (busyReq t 4 n seq) n)) ∧
        (k = 4 → st ≠ .off → st ≠ .failed → exec .admitDie s = .next (finishReq t 4 seq 1)) ∧
        (k = 5 → t.holder lid = none → exec .takeover s = .next (finishReq t 5 seq 1)) ∧
        (∀ o, k = 5 → t.holder lid = some o →
          ((t.die u).st = .spareOff → ((t.die o).st = .failed ∨ (t.die o).st = .off) →
            let r := t.setDie o { t.die o with lid := none }
            exec .takeover s = .next (capChange (toAdmitting (busyReq (r.setDie u { r.die u with lid := some lid }) 5 u seq) u))) ∧
          ((t.die u).st ≠ .spareOff ∨ ((t.die o).st ≠ .failed ∧ (t.die o).st ≠ .off) → exec .takeover s = .next (finishReq t 5 seq 1))) ∧
        (∀ r, k = 6 → startRetire t ch (recWord d 3) = some r → exec .retire s = .next (busyReq r 6 ch seq)) ∧
        (k = 6 → startRetire t ch (recWord d 3) = none → exec .retire s = .next (finishReq t 6 seq 1)) ∧
        (k = 7 → key.2.1 = 0 → exec .getkey s = .next (finishReq key.1 7 seq 0)) ∧
        (k = 7 → key.2.1 ≠ 0 → exec .getkey s = .next (finishReq (record key.1 0 2 key.2.1 0 0 key.2.2 (whoNone key.1)) 7 seq 2)) ∧
        (k = 8 → ((t.chan ch).st ≠ .retired ∨ (t.die (cacheDieOf ch)).st ≠ .active) → exec .readmit s = .next (finishReq t 8 seq 1)) ∧
        (k = 8 → (t.chan ch).st = .retired → (t.die (cacheDieOf ch)).st = .active →
          exec .readmit s = .next (finishReq (readmitChan t ch).1 8 seq (if (readmitChan t ch).2 then 0 else 4)))))

/-- Chiplets and channels: an error fences an ACTIVE chiplet; a FENCING one whose operations are performed is QUIESCED, or FAILED with a record after an
error; a reset one begins ADMITTING with links training from 32 GT/s; admission ends ACTIVE where the test passed and every router has a trained
module, else FAILED; a reset of the package keeps HBM outside the translation tables; an ACTIVE channel with more than 64 errors of one row in an hour
begins retiring; the migration engine takes the lowest page left through the four steps of R373, the second and third behind the checked requests of the page (R298 in
the reading of log entry 11, DEDUCED), pauses or stops at the first or third of them, or ends the retirement (R8, R369 to R375, R392). The model's choices: an admitted die's CLKMHZ (log entry 48),
HBM over a package reset (19, its reading), the one-by-one page move with its halts, which leave a page at BP in transit (28), and the faults by name (52). -/
def Obligations.ChipletsAndChannels : Prop :=
  ∀ (s : State) (n ch : Nat) (pass : Bool) (unit : IoUnit),
    let x := s.die ch
    let training := (modulesOf ch).any (fun l => (s.link l).st == .training)
    let q := quiesceLinks s ch
    let q := { q with ops := q.ops.filter (fun (o : Nat × Op) => !ofDie q ch o.2) }
    (isChiplet ch = false → ∀ i ∈ [(.fencingQuiesced ch : Instr), .dieResetComplete ch, .dieAdmitResult ch pass], exec i s = .fault (.noSuchUnit ch)) ∧
    (18 ≤ n → exec (.dieErrorFence n) s = .fault (.noSuchUnit n)) ∧ (4 ≤ n → exec (.cacheDieFault n) s = .fault (.noSuchUnit (0x20 + n)) ∧ exec (.pageMove n) s = .fault (.noSuchUnit (0x20 + n))) ∧
    (Config.nChan ≤ n → exec (.channelAutoRetire n) s = .fault (.noSuchUnit n)) ∧
    (n < 18 → (s.die n).st = .active → exec (.dieErrorFence n) s = .next (enterFencing s n true)) ∧ (n < 18 → (s.die n).st ≠ .active → exec (.dieErrorFence n) s = .next s) ∧
    ((s.die 0x31).st = .active → exec .ioDie1Fault s = .next (enterFencing s 0x31 true)) ∧ ((s.die 0x31).st ≠ .active → exec .ioDie1Fault s = .next s) ∧
    (isChiplet ch = true →
      (x.st ≠ .fencing ∨ dieQuiet s ch = false → exec (.fencingQuiesced ch) s = .next s) ∧
      (x.st = .fencing → dieQuiet s ch = true → (q.die ch).err = false →
        exec (.fencingQuiesced ch) s = .next (mgmtFor (capChange (q.setDie ch { q.die ch with st := .quiesced })) [1] ch 0)) ∧
      (x.st = .fencing → dieQuiet s ch = true → (q.die ch).err = true →
        let r := capChange (q.setDie ch { q.die ch with st := .failed })
        exec (.fencingQuiesced ch) s = .next (mgmtFor (record r 0 2 0x106 0 0 (ch * 256) (whoNone r)) [1] ch 0)) ∧
      (x.st = .reset → exec (.dieResetComplete ch) s = .next (toAdmitting s ch)) ∧ (x.st ≠ .reset → exec (.dieResetComplete ch) s = .next s) ∧
      (x.st ≠ .admitting ∨ training = true → exec (.dieAdmitResult ch pass) s = .next s) ∧
      (x.st = .admitting → training = false → (pass && routersUp s ch) = false →
        exec (.dieAdmitResult ch pass) s = .next (mgmtFor (s.setDie ch { x with st := .failed }) [2, 4, 5] ch 4)) ∧
      (x.st = .admitting → training = false → pass = true → routersUp s ch = true → ch ≠ 0x31 → x.lid = none →
        exec (.dieAdmitResult ch pass) s = .next (mgmtFor (capChange (s.setDie ch { x with st := .active })) [2, 4, 5] ch 0)) ∧
      (x.st = .admitting → training = false → pass = true → routersUp s ch = true → ch = 0x31 → x.lid = none →
        exec (.dieAdmitResult ch pass) s = .next (mgmtFor (capChange (setPort (s.setDie ch { x with st := .active }) 1 .training)) [2, 4, 5] ch 0)) ∧
      (∀ lid, x.st = .admitting → training = false → pass = true → routersUp s ch = true → ch ≠ 0x31 → x.lid = some lid →
        exec (.dieAdmitResult ch pass) s = .next (mgmtFor (capChange { s.setDie ch { x with st := .active } with capMhz := tset s.capMhz lid 1100 }) [2, 4, 5] ch 0))) ∧
    (∃ t, exec .coldReset s = .next t ∧ t = { State.reset with tick := s.tick, agenda := s.agenda, nextId := s.nextId, hbm := t.hbm, hpsn := t.hpsn } ∧
      (hbmWf s.hbm = true → ∀ a, 2 ^ 22 ≤ a % 2 ^ 31 → hbmGet t.hbm a = hbmGet s.hbm a)) ∧
    exec (.ioDie0UnitFault unit) s = .next (match unit with
      | .scheduler => { s with schedMirror := true } | .arbiter => { s with arbMirror := true } | .port => portDown s 0 | .queueEngine => packageReset s | .root => packageReset s) ∧
    (n < 512 → exec (.channelAutoRetire n) s = .next (if (s.chan n).st = .active ∧ ∃ e ∈ (s.chan n).corr, 64 < rowErrors s n e.1 then enterRetiring s n none else s)) ∧
    (n < 4 → (s.die (0x20 + n)).st ≠ .active → exec (.cacheDieFault n) s = .next s) ∧
    (n < 4 → (s.die (0x20 + n)).st = .active →
      let r := ((channelsOf (0x20 + n)).filter (fun c => (s.chan c).st == .active)).foldl (fun s c => enterRetiring s c none) s
      let r := r.setDie (0x20 + n) { r.die (0x20 + n) with err := true }
      exec (.cacheDieFault n) s = .next (if allRetired r (0x20 + n) then fenceForError r (0x20 + n) else r)) ∧
    (n < 4 → engineOf s n = none → exec (.pageMove n) s = .next s) ∧
    (∀ c, n < 4 → engineOf s n = some c →
      let t := { s with engines := tset s.engines n c }
      (∀ p, (t.chan c).transit = some p →
        (p.step = 1 → exec (.pageMove n) s = .next (takeFrame t n c p)) ∧ 
        (p.step = 2 ∨ p.step = 3 → let here := fun (a v : Nat) => decide ((a, v) = pageOf p.w0)
          let f := flushPages t here
          exec (.pageMove n) s = .next (if stillOut f (ofPages here) then f else if p.step = 2 then copyPage f c p else placePage f n c p)) ∧
        (3 < p.step → exec (.pageMove n) s = .next (passPage t c p))) ∧
      (∀ r, (t.chan c).transit = none → nextPage t c = (r, none) → let f := flushPages r (pagesAt r c)
        exec (.pageMove n) s = .next (if stillOut f (ofPages (pagesAt f c)) then f else channelRetired f c false)) ∧
      (∀ r e, (t.chan c).transit = none → nextPage t c = (r, some e) → exec (.pageMove n) s = .next (takeFrame r n c ⟨e.1, e.2.1, e.2.2, 1, 0, 0⟩))) ∧
    (∀ (p : Transit) (va i f cause : Nat) (r : State),
      let pg := pageOf p.w0
      let d := s.stripe pg.1 (stripeIdx pg.1 pg.2)
      let pool := poolNext va (s.chan ch).taken d (Config.chanFrames * Config.nChan) 0 s
      ((s.chan ch).pool = none → takeFrame s n ch p = haltEngine s n ch 3) ∧
      ((s.chan ch).pool = some va →
        (pool = (r, .word i f) → takeFrame s n ch p = r.setChan ch { r.chan ch with taken := i :: (r.chan ch).taken, bp := some pg, transit := some { p with step := 2, dest := d, frame := f } }) ∧
        (pool = (r, .empty) → takeFrame s n ch p = haltEngine r n ch 3) ∧
        (pool = (r, .bad cause i) → takeFrame s n ch p = haltEngine (record r 0 2 cause 0 0 i (whoNone r)) n ch 2)) ∧
      haltEngine s n ch cause = mgmtFor { s.setChan ch { s.chan ch with transit := (s.chan ch).transit.map (fun t => { t with step := 1 }), halt := cause } with
        engines := tdel s.engines n } [6] ch cause ∧
      (let u := copyFrame s pg.1 pg.2 ch (bits p.w1 0 17) p.dest p.frame
       copyPage s ch p = u.setChan ch { u.chan ch with transit := some { p with step := 3 } }) ∧
      (freeEntryAt s p.dest pg.1 pg.2 = (r, none) → placePage s n ch p = haltEngine (copyFrame r pg.1 pg.2 p.dest p.frame ch (bits p.w1 0 17)) n ch 2) ∧
      (∀ off, freeEntryAt s p.dest pg.1 pg.2 = (r, some off) →
        let u := (homeStore r 0 (windowVa p.dest off) (leBytes 8 p.w0 ++ leBytes 8 (p.w1 - bits p.w1 0 17 + p.frame))).1
        let u := (homeStore u 0 (windowVa ch p.off) (leBytes 8 (p.w0 - 2 ^ 63))).1
        let drop := fun (s : State) (c : Nat) => s.setChan c { s.chan c with tlb := (s.chan c).tlb.filter (fun t => !(t.asid == pg.1 && t.vpn == pg.2)) }
        placePage s n ch p = moveWatches (setTransit (drop (drop u ch) p.dest) ch { p with step := 4 }) pg.1 pg.2 p.dest) ∧
      passPage s ch p = s.setChan ch { s.chan ch with transit := none, conflict := [], bp := some (pg.1, pg.2 + 1) })

/-- Budget and clocks: the capacity signal is written with the latest GEN at most once in 100 µs; once in a millisecond CLKMHZ takes each die's mean clock, and GEN rises where a word
changes; grants come every
8 µs, none below 150 A and together within 16000 A, a die being admitted included, and in proportion to demand where no share falls below 150 A (R378, R24); the standby takes over after 16; a die steps its clock down by 25 MHz above its grant and up by 25 MHz at nine tenths of it or less, never
below 400 or above 1100; a refresh is banked in a window and deferred outside (R376, R378, R379). Demand and draw are inputs (log entry 14). The model's choices of
log entry 48: the mean is floored, it is taken since the die's admission where that is later, raises lie 8 µs apart, and the signal waits 100 µs from the last
change as from the last write; and a unit that does not exist faults by name by log entry 52's. -/
def Obligations.BudgetKeepsTime : Prop :=
  ∀ (s : State) (ch draw : Nat) (demand : List Nat),
    let x := s.die ch
    let live := (s.ctxs.filter (fun (x : Nat × Ctx) => x.2.st != .free && x.2.st != .building)).map (·.1)
    let early := decide (s.now < s.capAt + 110000) || s.capSentAt.any (fun t => decide (s.now < t + 110000))
    let set := fun (mhz raise : Nat) => s.setDie ch { x with mhz := mhz, stepAt := s.now, raiseAt := raise, acc := x.acc + x.mhz * (s.now - x.since), since := s.now }
    (s.capPending = false ∨ early = true → exec .capsigWrite s = .next s) ∧
    (s.capPending = true → early = false → exec .capsigWrite s = .next (live.foldl signalCtx { s with capPending := false, capSentAt := some s.now })) ∧
    (s.now < s.clkAt + 1100000 → exec .clkmhzRefresh s = .next s) ∧
    (s.clkAt + 1100000 ≤ s.now →
      let held := fun (lid d : Nat) => lid < 16 ∧ s.holder lid = some d ∧ inService s d = true ∧ (s.die d).refAt < s.now
      ∃ t, exec .clkmhzRefresh s = .next t ∧ t.clkAt = s.now ∧
        (∀ lid d, held lid d → tget 1100 t.capMhz lid = ((s.die d).ticksAt s.now - (s.die d).accRef) / (s.now - (s.die d).refAt) ∧
          (t.die d).refAt = s.now ∧ (t.die d).accRef = (s.die d).ticksAt s.now) ∧
        (∀ lid, (∀ d, ¬held lid d) → tget 1100 t.capMhz lid = tget 1100 s.capMhz lid) ∧
        ((∃ lid d, held lid d ∧ meanMhz s d ≠ tget 1100 s.capMhz lid) → t.gen = s.gen + 1 ∧ t.capPending = true ∧ t.capAt = s.now) ∧
        ((∀ lid d, held lid d → meanMhz s d = tget 1100 s.capMhz lid) → t.gen = s.gen ∧ t.capPending = s.capPending ∧ t.capAt = s.capAt)) ∧
    (s.now < s.grantAt + 8800 ∨ arbiterUp s = false → exec (.arbiterGrant demand) s = .next s) ∧
    (s.grantAt + 8800 ≤ s.now → arbiterUp s = true → ∃ t, exec (.arbiterGrant demand) s = .next t ∧ t.grantAt = s.now ∧
      (∀ n ∈ railDies, onRail s n = true → 150 ≤ (t.die n).grant) ∧ ((railDies.filter (onRail s)).map (fun n => (t.die n).grant)).sum ≤ 16000 ∧
      let d := fun n : Nat => demand.getD (railDies.idxOf n) 0
      let total := ((railDies.filter (onRail s)).map d).sum
      (0 < total → (∀ n ∈ railDies, onRail s n = true → 150 * total ≤ 16000 * d n) → ∀ n ∈ railDies, onRail s n = true → (t.die n).grant = 16000 * d n / total)) ∧
    (s.grantAt + 17600 ≤ s.now → (s.die 0x31).st = .active → exec .arbiterTakeover s = .next { s with arbMirror := true }) ∧
    (s.now < s.grantAt + 17600 ∨ (s.die 0x31).st ≠ .active → exec .arbiterTakeover s = .next s) ∧
    (isCompute ch = false → isCache ch = false → exec (.clockStep ch draw) s = .fault (.noSuchUnit ch)) ∧
    (isCompute ch = true ∨ isCache ch = true →
      (s.cyc ch = (x.acc + x.mhz * (s.now - x.since)) / 1100) ∧
      (x.st ≠ .active ∨ s.now < x.stepAt + 1100 → exec (.clockStep ch draw) s = .next s) ∧
      (x.st = .active → x.stepAt + 1100 ≤ s.now →
        (x.grant < draw → exec (.clockStep ch draw) s = .next (set (max 400 (x.mhz - 25)) x.raiseAt)) ∧
        (10 * draw ≤ 9 * x.grant → x.raiseAt + 8800 ≤ s.now → exec (.clockStep ch draw) s = .next (set (min 1100 (x.mhz + 25)) s.now)) ∧
        (draw ≤ x.grant → (9 * x.grant < 10 * draw ∨ s.now < x.raiseAt + 8800) → exec (.clockStep ch draw) s = .next (set x.mhz x.raiseAt)))) ∧
    (512 ≤ ch → exec (.hbmRefresh ch) s = .fault (.noSuchUnit ch)) ∧
    (ch < 512 → s.now < (s.chan ch).hintTill → exec (.hbmRefresh ch) s = .next (s.setChan ch { s.chan ch with banked := min 8 ((s.chan ch).banked + 1) })) ∧
    (ch < 512 → (s.chan ch).hintTill ≤ s.now → exec (.hbmRefresh ch) s = .next (s.setChan ch { s.chan ch with banked := (s.chan ch).banked - 1 }))
end

