-- ==== Sys2Proof/Laws/State.lean ====
section
/-! SUPPORT. One lemma per field of the state per update of it, true by unfolding: no later proof unfolds a record update. -/

namespace Sys2Proof.Machine

/-! ### `State.setCore` changes `cores` only -/

@[simp] theorem State.setCore_now (s : State) (d c : Nat) (x : Core) : (s.setCore d c x).now = s.now := rfl
@[simp] theorem State.setCore_rows (s : State) (d c : Nat) (x : Core) : (s.setCore d c x).rows = s.rows := rfl
@[simp] theorem State.setCore_tick (s : State) (d c : Nat) (x : Core) : (s.setCore d c x).tick = s.tick := rfl
@[simp] theorem State.setCore_agenda (s : State) (d c : Nat) (x : Core) : (s.setCore d c x).agenda = s.agenda := rfl
@[simp] theorem State.setCore_cur (s : State) (d c : Nat) (x : Core) : (s.setCore d c x).cur = s.cur := rfl
@[simp] theorem State.setCore_walkBad (s : State) (d c : Nat) (x : Core) : (s.setCore d c x).walkBad = s.walkBad := rfl
@[simp] theorem State.setCore_flaw (s : State) (d c : Nat) (x : Core) : (s.setCore d c x).flaw = s.flaw := rfl
@[simp] theorem State.setCore_flawed (s : State) (d c : Nat) (x : Core) : (s.setCore d c x).flawed = s.flawed := rfl
@[simp] theorem State.setCore_pins (s : State) (d c : Nat) (x : Core) : (s.setCore d c x).pins = s.pins := rfl
@[simp] theorem State.setCore_recq (s : State) (d c : Nat) (x : Core) : (s.setCore d c x).recq = s.recq := rfl
@[simp] theorem State.setCore_heldBack (s : State) (d c : Nat) (x : Core) : (s.setCore d c x).heldBack = s.heldBack := rfl
@[simp] theorem State.setCore_acks (s : State) (d c : Nat) (x : Core) : (s.setCore d c x).acks = s.acks := rfl
@[simp] theorem State.setCore_naks (s : State) (d c : Nat) (x : Core) : (s.setCore d c x).naks = s.naks := rfl
@[simp] theorem State.setCore_freed (s : State) (d c : Nat) (x : Core) : (s.setCore d c x).freed = s.freed := rfl
@[simp] theorem State.setCore_nextId (s : State) (d c : Nat) (x : Core) : (s.setCore d c x).nextId = s.nextId := rfl
@[simp] theorem State.setCore_waves (s : State) (d c : Nat) (x : Core) : (s.setCore d c x).waves = s.waves := rfl
@[simp] theorem State.setCore_blocks (s : State) (d c : Nat) (x : Core) : (s.setCore d c x).blocks = s.blocks := rfl
@[simp] theorem State.setCore_kerns (s : State) (d c : Nat) (x : Core) : (s.setCore d c x).kerns = s.kerns := rfl
@[simp] theorem State.setCore_queues (s : State) (d c : Nat) (x : Core) : (s.setCore d c x).queues = s.queues := rfl
@[simp] theorem State.setCore_ctxs (s : State) (d c : Nat) (x : Core) : (s.setCore d c x).ctxs = s.ctxs := rfl
@[simp] theorem State.setCore_dies (s : State) (d c : Nat) (x : Core) : (s.setCore d c x).dies = s.dies := rfl
@[simp] theorem State.setCore_disps (s : State) (d c : Nat) (x : Core) : (s.setCore d c x).disps = s.disps := rfl
@[simp] theorem State.setCore_ops (s : State) (d c : Nat) (x : Core) : (s.setCore d c x).ops = s.ops := rfl
@[simp] theorem State.setCore_copies (s : State) (d c : Nat) (x : Core) : (s.setCore d c x).copies = s.copies := rfl
@[simp] theorem State.setCore_mxs (s : State) (d c : Nat) (x : Core) : (s.setCore d c x).mxs = s.mxs := rfl
@[simp] theorem State.setCore_twins (s : State) (d c : Nat) (x : Core) : (s.setCore d c x).twins = s.twins := rfl
@[simp] theorem State.setCore_recs (s : State) (d c : Nat) (x : Core) : (s.setCore d c x).recs = s.recs := rfl
@[simp] theorem State.setCore_sluiceRr (s : State) (d c : Nat) (x : Core) : (s.setCore d c x).sluiceRr = s.sluiceRr := rfl
@[simp] theorem State.setCore_msgs (s : State) (d c : Nat) (x : Core) : (s.setCore d c x).msgs = s.msgs := rfl
@[simp] theorem State.setCore_watches (s : State) (d c : Nat) (x : Core) : (s.setCore d c x).watches = s.watches := rfl
@[simp] theorem State.setCore_slines (s : State) (d c : Nat) (x : Core) : (s.setCore d c x).slines = s.slines := rfl
@[simp] theorem State.setCore_hbm (s : State) (d c : Nat) (x : Core) : (s.setCore d c x).hbm = s.hbm := rfl
@[simp] theorem State.setCore_hpsn (s : State) (d c : Nat) (x : Core) : (s.setCore d c x).hpsn = s.hpsn := rfl
@[simp] theorem State.setCore_chans (s : State) (d c : Nat) (x : Core) : (s.setCore d c x).chans = s.chans := rfl
@[simp] theorem State.setCore_links (s : State) (d c : Nat) (x : Core) : (s.setCore d c x).links = s.links := rfl
@[simp] theorem State.setCore_ports (s : State) (d c : Nat) (x : Core) : (s.setCore d c x).ports = s.ports := rfl
@[simp] theorem State.setCore_secured (s : State) (d c : Nat) (x : Core) : (s.setCore d c x).secured = s.secured := rfl
@[simp] theorem State.setCore_frames (s : State) (d c : Nat) (x : Core) : (s.setCore d c x).frames = s.frames := rfl
@[simp] theorem State.setCore_conns (s : State) (d c : Nat) (x : Core) : (s.setCore d c x).conns = s.conns := rfl
@[simp] theorem State.setCore_selRr (s : State) (d c : Nat) (x : Core) : (s.setCore d c x).selRr = s.selRr := rfl
@[simp] theorem State.setCore_outRr (s : State) (d c : Nat) (x : Core) : (s.setCore d c x).outRr = s.outRr := rfl
@[simp] theorem State.setCore_gen (s : State) (d c : Nat) (x : Core) : (s.setCore d c x).gen = s.gen := rfl
@[simp] theorem State.setCore_capMhz (s : State) (d c : Nat) (x : Core) : (s.setCore d c x).capMhz = s.capMhz := rfl
@[simp] theorem State.setCore_capPending (s : State) (d c : Nat) (x : Core) : (s.setCore d c x).capPending = s.capPending := rfl
@[simp] theorem State.setCore_capSentAt (s : State) (d c : Nat) (x : Core) : (s.setCore d c x).capSentAt = s.capSentAt := rfl
@[simp] theorem State.setCore_capAt (s : State) (d c : Nat) (x : Core) : (s.setCore d c x).capAt = s.capAt := rfl
@[simp] theorem State.setCore_clkAt (s : State) (d c : Nat) (x : Core) : (s.setCore d c x).clkAt = s.clkAt := rfl
@[simp] theorem State.setCore_doneSeq (s : State) (d c : Nat) (x : Core) : (s.setCore d c x).doneSeq = s.doneSeq := rfl
@[simp] theorem State.setCore_mgmtResult (s : State) (d c : Nat) (x : Core) : (s.setCore d c x).mgmtResult = s.mgmtResult := rfl
@[simp] theorem State.setCore_mgmtLast (s : State) (d c : Nat) (x : Core) : (s.setCore d c x).mgmtLast = s.mgmtLast := rfl
@[simp] theorem State.setCore_mgmtPend (s : State) (d c : Nat) (x : Core) : (s.setCore d c x).mgmtPend = s.mgmtPend := rfl
@[simp] theorem State.setCore_mgmtBusy (s : State) (d c : Nat) (x : Core) : (s.setCore d c x).mgmtBusy = s.mgmtBusy := rfl
@[simp] theorem State.setCore_mgmtEarly (s : State) (d c : Nat) (x : Core) : (s.setCore d c x).mgmtEarly = s.mgmtEarly := rfl
@[simp] theorem State.setCore_schedMirror (s : State) (d c : Nat) (x : Core) : (s.setCore d c x).schedMirror = s.schedMirror := rfl
@[simp] theorem State.setCore_arbMirror (s : State) (d c : Nat) (x : Core) : (s.setCore d c x).arbMirror = s.arbMirror := rfl
@[simp] theorem State.setCore_grantAt (s : State) (d c : Nat) (x : Core) : (s.setCore d c x).grantAt = s.grantAt := rfl
@[simp] theorem State.setCore_engines (s : State) (d c : Nat) (x : Core) : (s.setCore d c x).engines = s.engines := rfl

/-! ### `State.setWave` changes `waves` only -/

@[simp] theorem State.setWave_now (s : State) (r : WaveRef) (w : Wave) : (s.setWave r w).now = s.now := rfl
@[simp] theorem State.setWave_rows (s : State) (r : WaveRef) (w : Wave) : (s.setWave r w).rows = s.rows := rfl
@[simp] theorem State.setWave_tick (s : State) (r : WaveRef) (w : Wave) : (s.setWave r w).tick = s.tick := rfl
@[simp] theorem State.setWave_agenda (s : State) (r : WaveRef) (w : Wave) : (s.setWave r w).agenda = s.agenda := rfl
@[simp] theorem State.setWave_cur (s : State) (r : WaveRef) (w : Wave) : (s.setWave r w).cur = s.cur := rfl
@[simp] theorem State.setWave_walkBad (s : State) (r : WaveRef) (w : Wave) : (s.setWave r w).walkBad = s.walkBad := rfl
@[simp] theorem State.setWave_flaw (s : State) (r : WaveRef) (w : Wave) : (s.setWave r w).flaw = s.flaw := rfl
@[simp] theorem State.setWave_flawed (s : State) (r : WaveRef) (w : Wave) : (s.setWave r w).flawed = s.flawed := rfl
@[simp] theorem State.setWave_pins (s : State) (r : WaveRef) (w : Wave) : (s.setWave r w).pins = s.pins := rfl
@[simp] theorem State.setWave_recq (s : State) (r : WaveRef) (w : Wave) : (s.setWave r w).recq = s.recq := rfl
@[simp] theorem State.setWave_heldBack (s : State) (r : WaveRef) (w : Wave) : (s.setWave r w).heldBack = s.heldBack := rfl
@[simp] theorem State.setWave_acks (s : State) (r : WaveRef) (w : Wave) : (s.setWave r w).acks = s.acks := rfl
@[simp] theorem State.setWave_naks (s : State) (r : WaveRef) (w : Wave) : (s.setWave r w).naks = s.naks := rfl
@[simp] theorem State.setWave_freed (s : State) (r : WaveRef) (w : Wave) : (s.setWave r w).freed = s.freed := rfl
@[simp] theorem State.setWave_nextId (s : State) (r : WaveRef) (w : Wave) : (s.setWave r w).nextId = s.nextId := rfl
@[simp] theorem State.setWave_blocks (s : State) (r : WaveRef) (w : Wave) : (s.setWave r w).blocks = s.blocks := rfl
@[simp] theorem State.setWave_kerns (s : State) (r : WaveRef) (w : Wave) : (s.setWave r w).kerns = s.kerns := rfl
@[simp] theorem State.setWave_queues (s : State) (r : WaveRef) (w : Wave) : (s.setWave r w).queues = s.queues := rfl
@[simp] theorem State.setWave_ctxs (s : State) (r : WaveRef) (w : Wave) : (s.setWave r w).ctxs = s.ctxs := rfl
@[simp] theorem State.setWave_cores (s : State) (r : WaveRef) (w : Wave) : (s.setWave r w).cores = s.cores := rfl
@[simp] theorem State.setWave_dies (s : State) (r : WaveRef) (w : Wave) : (s.setWave r w).dies = s.dies := rfl
@[simp] theorem State.setWave_disps (s : State) (r : WaveRef) (w : Wave) : (s.setWave r w).disps = s.disps := rfl
@[simp] theorem State.setWave_ops (s : State) (r : WaveRef) (w : Wave) : (s.setWave r w).ops = s.ops := rfl
@[simp] theorem State.setWave_copies (s : State) (r : WaveRef) (w : Wave) : (s.setWave r w).copies = s.copies := rfl
@[simp] theorem State.setWave_mxs (s : State) (r : WaveRef) (w : Wave) : (s.setWave r w).mxs = s.mxs := rfl
@[simp] theorem State.setWave_twins (s : State) (r : WaveRef) (w : Wave) : (s.setWave r w).twins = s.twins := rfl
@[simp] theorem State.setWave_recs (s : State) (r : WaveRef) (w : Wave) : (s.setWave r w).recs = s.recs := rfl
@[simp] theorem State.setWave_sluiceRr (s : State) (r : WaveRef) (w : Wave) : (s.setWave r w).sluiceRr = s.sluiceRr := rfl
@[simp] theorem State.setWave_msgs (s : State) (r : WaveRef) (w : Wave) : (s.setWave r w).msgs = s.msgs := rfl
@[simp] theorem State.setWave_watches (s : State) (r : WaveRef) (w : Wave) : (s.setWave r w).watches = s.watches := rfl
@[simp] theorem State.setWave_slines (s : State) (r : WaveRef) (w : Wave) : (s.setWave r w).slines = s.slines := rfl
@[simp] theorem State.setWave_hbm (s : State) (r : WaveRef) (w : Wave) : (s.setWave r w).hbm = s.hbm := rfl
@[simp] theorem State.setWave_hpsn (s : State) (r : WaveRef) (w : Wave) : (s.setWave r w).hpsn = s.hpsn := rfl
@[simp] theorem State.setWave_chans (s : State) (r : WaveRef) (w : Wave) : (s.setWave r w).chans = s.chans := rfl
@[simp] theorem State.setWave_links (s : State) (r : WaveRef) (w : Wave) : (s.setWave r w).links = s.links := rfl
@[simp] theorem State.setWave_ports (s : State) (r : WaveRef) (w : Wave) : (s.setWave r w).ports = s.ports := rfl
@[simp] theorem State.setWave_secured (s : State) (r : WaveRef) (w : Wave) : (s.setWave r w).secured = s.secured := rfl
@[simp] theorem State.setWave_frames (s : State) (r : WaveRef) (w : Wave) : (s.setWave r w).frames = s.frames := rfl
@[simp] theorem State.setWave_conns (s : State) (r : WaveRef) (w : Wave) : (s.setWave r w).conns = s.conns := rfl
@[simp] theorem State.setWave_selRr (s : State) (r : WaveRef) (w : Wave) : (s.setWave r w).selRr = s.selRr := rfl
@[simp] theorem State.setWave_outRr (s : State) (r : WaveRef) (w : Wave) : (s.setWave r w).outRr = s.outRr := rfl
@[simp] theorem State.setWave_gen (s : State) (r : WaveRef) (w : Wave) : (s.setWave r w).gen = s.gen := rfl
@[simp] theorem State.setWave_capMhz (s : State) (r : WaveRef) (w : Wave) : (s.setWave r w).capMhz = s.capMhz := rfl
@[simp] theorem State.setWave_capPending (s : State) (r : WaveRef) (w : Wave) : (s.setWave r w).capPending = s.capPending := rfl
@[simp] theorem State.setWave_capSentAt (s : State) (r : WaveRef) (w : Wave) : (s.setWave r w).capSentAt = s.capSentAt := rfl
@[simp] theorem State.setWave_capAt (s : State) (r : WaveRef) (w : Wave) : (s.setWave r w).capAt = s.capAt := rfl
@[simp] theorem State.setWave_clkAt (s : State) (r : WaveRef) (w : Wave) : (s.setWave r w).clkAt = s.clkAt := rfl
@[simp] theorem State.setWave_doneSeq (s : State) (r : WaveRef) (w : Wave) : (s.setWave r w).doneSeq = s.doneSeq := rfl
@[simp] theorem State.setWave_mgmtResult (s : State) (r : WaveRef) (w : Wave) : (s.setWave r w).mgmtResult = s.mgmtResult := rfl
@[simp] theorem State.setWave_mgmtLast (s : State) (r : WaveRef) (w : Wave) : (s.setWave r w).mgmtLast = s.mgmtLast := rfl
@[simp] theorem State.setWave_mgmtPend (s : State) (r : WaveRef) (w : Wave) : (s.setWave r w).mgmtPend = s.mgmtPend := rfl
@[simp] theorem State.setWave_mgmtBusy (s : State) (r : WaveRef) (w : Wave) : (s.setWave r w).mgmtBusy = s.mgmtBusy := rfl
@[simp] theorem State.setWave_mgmtEarly (s : State) (r : WaveRef) (w : Wave) : (s.setWave r w).mgmtEarly = s.mgmtEarly := rfl
@[simp] theorem State.setWave_schedMirror (s : State) (r : WaveRef) (w : Wave) : (s.setWave r w).schedMirror = s.schedMirror := rfl
@[simp] theorem State.setWave_arbMirror (s : State) (r : WaveRef) (w : Wave) : (s.setWave r w).arbMirror = s.arbMirror := rfl
@[simp] theorem State.setWave_grantAt (s : State) (r : WaveRef) (w : Wave) : (s.setWave r w).grantAt = s.grantAt := rfl
@[simp] theorem State.setWave_engines (s : State) (r : WaveRef) (w : Wave) : (s.setWave r w).engines = s.engines := rfl

/-! ### `State.updWave` changes `waves` only -/

@[simp] theorem State.updWave_now (s : State) (r : WaveRef) (f : Wave → Wave) : (s.updWave r f).now = s.now := rfl
@[simp] theorem State.updWave_rows (s : State) (r : WaveRef) (f : Wave → Wave) : (s.updWave r f).rows = s.rows := rfl
@[simp] theorem State.updWave_tick (s : State) (r : WaveRef) (f : Wave → Wave) : (s.updWave r f).tick = s.tick := rfl
@[simp] theorem State.updWave_agenda (s : State) (r : WaveRef) (f : Wave → Wave) : (s.updWave r f).agenda = s.agenda := rfl
@[simp] theorem State.updWave_cur (s : State) (r : WaveRef) (f : Wave → Wave) : (s.updWave r f).cur = s.cur := rfl
@[simp] theorem State.updWave_walkBad (s : State) (r : WaveRef) (f : Wave → Wave) : (s.updWave r f).walkBad = s.walkBad := rfl
@[simp] theorem State.updWave_flaw (s : State) (r : WaveRef) (f : Wave → Wave) : (s.updWave r f).flaw = s.flaw := rfl
@[simp] theorem State.updWave_flawed (s : State) (r : WaveRef) (f : Wave → Wave) : (s.updWave r f).flawed = s.flawed := rfl
@[simp] theorem State.updWave_pins (s : State) (r : WaveRef) (f : Wave → Wave) : (s.updWave r f).pins = s.pins := rfl
@[simp] theorem State.updWave_recq (s : State) (r : WaveRef) (f : Wave → Wave) : (s.updWave r f).recq = s.recq := rfl
@[simp] theorem State.updWave_heldBack (s : State) (r : WaveRef) (f : Wave → Wave) : (s.updWave r f).heldBack = s.heldBack := rfl
@[simp] theorem State.updWave_acks (s : State) (r : WaveRef) (f : Wave → Wave) : (s.updWave r f).acks = s.acks := rfl
@[simp] theorem State.updWave_naks (s : State) (r : WaveRef) (f : Wave → Wave) : (s.updWave r f).naks = s.naks := rfl
@[simp] theorem State.updWave_freed (s : State) (r : WaveRef) (f : Wave → Wave) : (s.updWave r f).freed = s.freed := rfl
@[simp] theorem State.updWave_nextId (s : State) (r : WaveRef) (f : Wave → Wave) : (s.updWave r f).nextId = s.nextId := rfl
@[simp] theorem State.updWave_blocks (s : State) (r : WaveRef) (f : Wave → Wave) : (s.updWave r f).blocks = s.blocks := rfl
@[simp] theorem State.updWave_kerns (s : State) (r : WaveRef) (f : Wave → Wave) : (s.updWave r f).kerns = s.kerns := rfl
@[simp] theorem State.updWave_queues (s : State) (r : WaveRef) (f : Wave → Wave) : (s.updWave r f).queues = s.queues := rfl
@[simp] theorem State.updWave_ctxs (s : State) (r : WaveRef) (f : Wave → Wave) : (s.updWave r f).ctxs = s.ctxs := rfl
@[simp] theorem State.updWave_cores (s : State) (r : WaveRef) (f : Wave → Wave) : (s.updWave r f).cores = s.cores := rfl
@[simp] theorem State.updWave_dies (s : State) (r : WaveRef) (f : Wave → Wave) : (s.updWave r f).dies = s.dies := rfl
@[simp] theorem State.updWave_disps (s : State) (r : WaveRef) (f : Wave → Wave) : (s.updWave r f).disps = s.disps := rfl
@[simp] theorem State.updWave_ops (s : State) (r : WaveRef) (f : Wave → Wave) : (s.updWave r f).ops = s.ops := rfl
@[simp] theorem State.updWave_copies (s : State) (r : WaveRef) (f : Wave → Wave) : (s.updWave r f).copies = s.copies := rfl
@[simp] theorem State.updWave_mxs (s : State) (r : WaveRef) (f : Wave → Wave) : (s.updWave r f).mxs = s.mxs := rfl
@[simp] theorem State.updWave_twins (s : State) (r : WaveRef) (f : Wave → Wave) : (s.updWave r f).twins = s.twins := rfl
@[simp] theorem State.updWave_recs (s : State) (r : WaveRef) (f : Wave → Wave) : (s.updWave r f).recs = s.recs := rfl
@[simp] theorem State.updWave_sluiceRr (s : State) (r : WaveRef) (f : Wave → Wave) : (s.updWave r f).sluiceRr = s.sluiceRr := rfl
@[simp] theorem State.updWave_msgs (s : State) (r : WaveRef) (f : Wave → Wave) : (s.updWave r f).msgs = s.msgs := rfl
@[simp] theorem State.updWave_watches (s : State) (r : WaveRef) (f : Wave → Wave) : (s.updWave r f).watches = s.watches := rfl
@[simp] theorem State.updWave_slines (s : State) (r : WaveRef) (f : Wave → Wave) : (s.updWave r f).slines = s.slines := rfl
@[simp] theorem State.updWave_hbm (s : State) (r : WaveRef) (f : Wave → Wave) : (s.updWave r f).hbm = s.hbm := rfl
@[simp] theorem State.updWave_hpsn (s : State) (r : WaveRef) (f : Wave → Wave) : (s.updWave r f).hpsn = s.hpsn := rfl
@[simp] theorem State.updWave_chans (s : State) (r : WaveRef) (f : Wave → Wave) : (s.updWave r f).chans = s.chans := rfl
@[simp] theorem State.updWave_links (s : State) (r : WaveRef) (f : Wave → Wave) : (s.updWave r f).links = s.links := rfl
@[simp] theorem State.updWave_ports (s : State) (r : WaveRef) (f : Wave → Wave) : (s.updWave r f).ports = s.ports := rfl
@[simp] theorem State.updWave_secured (s : State) (r : WaveRef) (f : Wave → Wave) : (s.updWave r f).secured = s.secured := rfl
@[simp] theorem State.updWave_frames (s : State) (r : WaveRef) (f : Wave → Wave) : (s.updWave r f).frames = s.frames := rfl
@[simp] theorem State.updWave_conns (s : State) (r : WaveRef) (f : Wave → Wave) : (s.updWave r f).conns = s.conns := rfl
@[simp] theorem State.updWave_selRr (s : State) (r : WaveRef) (f : Wave → Wave) : (s.updWave r f).selRr = s.selRr := rfl
@[simp] theorem State.updWave_outRr (s : State) (r : WaveRef) (f : Wave → Wave) : (s.updWave r f).outRr = s.outRr := rfl
@[simp] theorem State.updWave_gen (s : State) (r : WaveRef) (f : Wave → Wave) : (s.updWave r f).gen = s.gen := rfl
@[simp] theorem State.updWave_capMhz (s : State) (r : WaveRef) (f : Wave → Wave) : (s.updWave r f).capMhz = s.capMhz := rfl
@[simp] theorem State.updWave_capPending (s : State) (r : WaveRef) (f : Wave → Wave) : (s.updWave r f).capPending = s.capPending := rfl
@[simp] theorem State.updWave_capSentAt (s : State) (r : WaveRef) (f : Wave → Wave) : (s.updWave r f).capSentAt = s.capSentAt := rfl
@[simp] theorem State.updWave_capAt (s : State) (r : WaveRef) (f : Wave → Wave) : (s.updWave r f).capAt = s.capAt := rfl
@[simp] theorem State.updWave_clkAt (s : State) (r : WaveRef) (f : Wave → Wave) : (s.updWave r f).clkAt = s.clkAt := rfl
@[simp] theorem State.updWave_doneSeq (s : State) (r : WaveRef) (f : Wave → Wave) : (s.updWave r f).doneSeq = s.doneSeq := rfl
@[simp] theorem State.updWave_mgmtResult (s : State) (r : WaveRef) (f : Wave → Wave) : (s.updWave r f).mgmtResult = s.mgmtResult := rfl
@[simp] theorem State.updWave_mgmtLast (s : State) (r : WaveRef) (f : Wave → Wave) : (s.updWave r f).mgmtLast = s.mgmtLast := rfl
@[simp] theorem State.updWave_mgmtPend (s : State) (r : WaveRef) (f : Wave → Wave) : (s.updWave r f).mgmtPend = s.mgmtPend := rfl
@[simp] theorem State.updWave_mgmtBusy (s : State) (r : WaveRef) (f : Wave → Wave) : (s.updWave r f).mgmtBusy = s.mgmtBusy := rfl
@[simp] theorem State.updWave_mgmtEarly (s : State) (r : WaveRef) (f : Wave → Wave) : (s.updWave r f).mgmtEarly = s.mgmtEarly := rfl
@[simp] theorem State.updWave_schedMirror (s : State) (r : WaveRef) (f : Wave → Wave) : (s.updWave r f).schedMirror = s.schedMirror := rfl
@[simp] theorem State.updWave_arbMirror (s : State) (r : WaveRef) (f : Wave → Wave) : (s.updWave r f).arbMirror = s.arbMirror := rfl
@[simp] theorem State.updWave_grantAt (s : State) (r : WaveRef) (f : Wave → Wave) : (s.updWave r f).grantAt = s.grantAt := rfl
@[simp] theorem State.updWave_engines (s : State) (r : WaveRef) (f : Wave → Wave) : (s.updWave r f).engines = s.engines := rfl

/-! ### `State.updSplit` changes `waves` only -/

@[simp] theorem State.updSplit_now (s : State) (u : SplitRef) (f : Split → Split) : (s.updSplit u f).now = s.now := rfl
@[simp] theorem State.updSplit_rows (s : State) (u : SplitRef) (f : Split → Split) : (s.updSplit u f).rows = s.rows := rfl
@[simp] theorem State.updSplit_tick (s : State) (u : SplitRef) (f : Split → Split) : (s.updSplit u f).tick = s.tick := rfl
@[simp] theorem State.updSplit_agenda (s : State) (u : SplitRef) (f : Split → Split) : (s.updSplit u f).agenda = s.agenda := rfl
@[simp] theorem State.updSplit_cur (s : State) (u : SplitRef) (f : Split → Split) : (s.updSplit u f).cur = s.cur := rfl
@[simp] theorem State.updSplit_walkBad (s : State) (u : SplitRef) (f : Split → Split) : (s.updSplit u f).walkBad = s.walkBad := rfl
@[simp] theorem State.updSplit_flaw (s : State) (u : SplitRef) (f : Split → Split) : (s.updSplit u f).flaw = s.flaw := rfl
@[simp] theorem State.updSplit_flawed (s : State) (u : SplitRef) (f : Split → Split) : (s.updSplit u f).flawed = s.flawed := rfl
@[simp] theorem State.updSplit_pins (s : State) (u : SplitRef) (f : Split → Split) : (s.updSplit u f).pins = s.pins := rfl
@[simp] theorem State.updSplit_recq (s : State) (u : SplitRef) (f : Split → Split) : (s.updSplit u f).recq = s.recq := rfl
@[simp] theorem State.updSplit_heldBack (s : State) (u : SplitRef) (f : Split → Split) : (s.updSplit u f).heldBack = s.heldBack := rfl
@[simp] theorem State.updSplit_acks (s : State) (u : SplitRef) (f : Split → Split) : (s.updSplit u f).acks = s.acks := rfl
@[simp] theorem State.updSplit_naks (s : State) (u : SplitRef) (f : Split → Split) : (s.updSplit u f).naks = s.naks := rfl
@[simp] theorem State.updSplit_freed (s : State) (u : SplitRef) (f : Split → Split) : (s.updSplit u f).freed = s.freed := rfl
@[simp] theorem State.updSplit_nextId (s : State) (u : SplitRef) (f : Split → Split) : (s.updSplit u f).nextId = s.nextId := rfl
@[simp] theorem State.updSplit_blocks (s : State) (u : SplitRef) (f : Split → Split) : (s.updSplit u f).blocks = s.blocks := rfl
@[simp] theorem State.updSplit_kerns (s : State) (u : SplitRef) (f : Split → Split) : (s.updSplit u f).kerns = s.kerns := rfl
@[simp] theorem State.updSplit_queues (s : State) (u : SplitRef) (f : Split → Split) : (s.updSplit u f).queues = s.queues := rfl
@[simp] theorem State.updSplit_ctxs (s : State) (u : SplitRef) (f : Split → Split) : (s.updSplit u f).ctxs = s.ctxs := rfl
@[simp] theorem State.updSplit_cores (s : State) (u : SplitRef) (f : Split → Split) : (s.updSplit u f).cores = s.cores := rfl
@[simp] theorem State.updSplit_dies (s : State) (u : SplitRef) (f : Split → Split) : (s.updSplit u f).dies = s.dies := rfl
@[simp] theorem State.updSplit_disps (s : State) (u : SplitRef) (f : Split → Split) : (s.updSplit u f).disps = s.disps := rfl
@[simp] theorem State.updSplit_ops (s : State) (u : SplitRef) (f : Split → Split) : (s.updSplit u f).ops = s.ops := rfl
@[simp] theorem State.updSplit_copies (s : State) (u : SplitRef) (f : Split → Split) : (s.updSplit u f).copies = s.copies := rfl
@[simp] theorem State.updSplit_mxs (s : State) (u : SplitRef) (f : Split → Split) : (s.updSplit u f).mxs = s.mxs := rfl
@[simp] theorem State.updSplit_twins (s : State) (u : SplitRef) (f : Split → Split) : (s.updSplit u f).twins = s.twins := rfl
@[simp] theorem State.updSplit_recs (s : State) (u : SplitRef) (f : Split → Split) : (s.updSplit u f).recs = s.recs := rfl
@[simp] theorem State.updSplit_sluiceRr (s : State) (u : SplitRef) (f : Split → Split) : (s.updSplit u f).sluiceRr = s.sluiceRr := rfl
@[simp] theorem State.updSplit_msgs (s : State) (u : SplitRef) (f : Split → Split) : (s.updSplit u f).msgs = s.msgs := rfl
@[simp] theorem State.updSplit_watches (s : State) (u : SplitRef) (f : Split → Split) : (s.updSplit u f).watches = s.watches := rfl
@[simp] theorem State.updSplit_slines (s : State) (u : SplitRef) (f : Split → Split) : (s.updSplit u f).slines = s.slines := rfl
@[simp] theorem State.updSplit_hbm (s : State) (u : SplitRef) (f : Split → Split) : (s.updSplit u f).hbm = s.hbm := rfl
@[simp] theorem State.updSplit_hpsn (s : State) (u : SplitRef) (f : Split → Split) : (s.updSplit u f).hpsn = s.hpsn := rfl
@[simp] theorem State.updSplit_chans (s : State) (u : SplitRef) (f : Split → Split) : (s.updSplit u f).chans = s.chans := rfl
@[simp] theorem State.updSplit_links (s : State) (u : SplitRef) (f : Split → Split) : (s.updSplit u f).links = s.links := rfl
@[simp] theorem State.updSplit_ports (s : State) (u : SplitRef) (f : Split → Split) : (s.updSplit u f).ports = s.ports := rfl
@[simp] theorem State.updSplit_secured (s : State) (u : SplitRef) (f : Split → Split) : (s.updSplit u f).secured = s.secured := rfl
@[simp] theorem State.updSplit_frames (s : State) (u : SplitRef) (f : Split → Split) : (s.updSplit u f).frames = s.frames := rfl
@[simp] theorem State.updSplit_conns (s : State) (u : SplitRef) (f : Split → Split) : (s.updSplit u f).conns = s.conns := rfl
@[simp] theorem State.updSplit_selRr (s : State) (u : SplitRef) (f : Split → Split) : (s.updSplit u f).selRr = s.selRr := rfl
@[simp] theorem State.updSplit_outRr (s : State) (u : SplitRef) (f : Split → Split) : (s.updSplit u f).outRr = s.outRr := rfl
@[simp] theorem State.updSplit_gen (s : State) (u : SplitRef) (f : Split → Split) : (s.updSplit u f).gen = s.gen := rfl
@[simp] theorem State.updSplit_capMhz (s : State) (u : SplitRef) (f : Split → Split) : (s.updSplit u f).capMhz = s.capMhz := rfl
@[simp] theorem State.updSplit_capPending (s : State) (u : SplitRef) (f : Split → Split) : (s.updSplit u f).capPending = s.capPending := rfl
@[simp] theorem State.updSplit_capSentAt (s : State) (u : SplitRef) (f : Split → Split) : (s.updSplit u f).capSentAt = s.capSentAt := rfl
@[simp] theorem State.updSplit_capAt (s : State) (u : SplitRef) (f : Split → Split) : (s.updSplit u f).capAt = s.capAt := rfl
@[simp] theorem State.updSplit_clkAt (s : State) (u : SplitRef) (f : Split → Split) : (s.updSplit u f).clkAt = s.clkAt := rfl
@[simp] theorem State.updSplit_doneSeq (s : State) (u : SplitRef) (f : Split → Split) : (s.updSplit u f).doneSeq = s.doneSeq := rfl
@[simp] theorem State.updSplit_mgmtResult (s : State) (u : SplitRef) (f : Split → Split) : (s.updSplit u f).mgmtResult = s.mgmtResult := rfl
@[simp] theorem State.updSplit_mgmtLast (s : State) (u : SplitRef) (f : Split → Split) : (s.updSplit u f).mgmtLast = s.mgmtLast := rfl
@[simp] theorem State.updSplit_mgmtPend (s : State) (u : SplitRef) (f : Split → Split) : (s.updSplit u f).mgmtPend = s.mgmtPend := rfl
@[simp] theorem State.updSplit_mgmtBusy (s : State) (u : SplitRef) (f : Split → Split) : (s.updSplit u f).mgmtBusy = s.mgmtBusy := rfl
@[simp] theorem State.updSplit_mgmtEarly (s : State) (u : SplitRef) (f : Split → Split) : (s.updSplit u f).mgmtEarly = s.mgmtEarly := rfl
@[simp] theorem State.updSplit_schedMirror (s : State) (u : SplitRef) (f : Split → Split) : (s.updSplit u f).schedMirror = s.schedMirror := rfl
@[simp] theorem State.updSplit_arbMirror (s : State) (u : SplitRef) (f : Split → Split) : (s.updSplit u f).arbMirror = s.arbMirror := rfl
@[simp] theorem State.updSplit_grantAt (s : State) (u : SplitRef) (f : Split → Split) : (s.updSplit u f).grantAt = s.grantAt := rfl
@[simp] theorem State.updSplit_engines (s : State) (u : SplitRef) (f : Split → Split) : (s.updSplit u f).engines = s.engines := rfl

/-! ### `State.addPend` changes `waves` only -/

@[simp] theorem State.addPend_now (s : State) (r : WaveRef) (p : Pend) : (s.addPend r p).now = s.now := rfl
@[simp] theorem State.addPend_rows (s : State) (r : WaveRef) (p : Pend) : (s.addPend r p).rows = s.rows := rfl
@[simp] theorem State.addPend_tick (s : State) (r : WaveRef) (p : Pend) : (s.addPend r p).tick = s.tick := rfl
@[simp] theorem State.addPend_agenda (s : State) (r : WaveRef) (p : Pend) : (s.addPend r p).agenda = s.agenda := rfl
@[simp] theorem State.addPend_cur (s : State) (r : WaveRef) (p : Pend) : (s.addPend r p).cur = s.cur := rfl
@[simp] theorem State.addPend_walkBad (s : State) (r : WaveRef) (p : Pend) : (s.addPend r p).walkBad = s.walkBad := rfl
@[simp] theorem State.addPend_flaw (s : State) (r : WaveRef) (p : Pend) : (s.addPend r p).flaw = s.flaw := rfl
@[simp] theorem State.addPend_flawed (s : State) (r : WaveRef) (p : Pend) : (s.addPend r p).flawed = s.flawed := rfl
@[simp] theorem State.addPend_pins (s : State) (r : WaveRef) (p : Pend) : (s.addPend r p).pins = s.pins := rfl
@[simp] theorem State.addPend_recq (s : State) (r : WaveRef) (p : Pend) : (s.addPend r p).recq = s.recq := rfl
@[simp] theorem State.addPend_heldBack (s : State) (r : WaveRef) (p : Pend) : (s.addPend r p).heldBack = s.heldBack := rfl
@[simp] theorem State.addPend_acks (s : State) (r : WaveRef) (p : Pend) : (s.addPend r p).acks = s.acks := rfl
@[simp] theorem State.addPend_naks (s : State) (r : WaveRef) (p : Pend) : (s.addPend r p).naks = s.naks := rfl
@[simp] theorem State.addPend_freed (s : State) (r : WaveRef) (p : Pend) : (s.addPend r p).freed = s.freed := rfl
@[simp] theorem State.addPend_nextId (s : State) (r : WaveRef) (p : Pend) : (s.addPend r p).nextId = s.nextId := rfl
@[simp] theorem State.addPend_blocks (s : State) (r : WaveRef) (p : Pend) : (s.addPend r p).blocks = s.blocks := rfl
@[simp] theorem State.addPend_kerns (s : State) (r : WaveRef) (p : Pend) : (s.addPend r p).kerns = s.kerns := rfl
@[simp] theorem State.addPend_queues (s : State) (r : WaveRef) (p : Pend) : (s.addPend r p).queues = s.queues := rfl
@[simp] theorem State.addPend_ctxs (s : State) (r : WaveRef) (p : Pend) : (s.addPend r p).ctxs = s.ctxs := rfl
@[simp] theorem State.addPend_cores (s : State) (r : WaveRef) (p : Pend) : (s.addPend r p).cores = s.cores := rfl
@[simp] theorem State.addPend_dies (s : State) (r : WaveRef) (p : Pend) : (s.addPend r p).dies = s.dies := rfl
@[simp] theorem State.addPend_disps (s : State) (r : WaveRef) (p : Pend) : (s.addPend r p).disps = s.disps := rfl
@[simp] theorem State.addPend_ops (s : State) (r : WaveRef) (p : Pend) : (s.addPend r p).ops = s.ops := rfl
@[simp] theorem State.addPend_copies (s : State) (r : WaveRef) (p : Pend) : (s.addPend r p).copies = s.copies := rfl
@[simp] theorem State.addPend_mxs (s : State) (r : WaveRef) (p : Pend) : (s.addPend r p).mxs = s.mxs := rfl
@[simp] theorem State.addPend_twins (s : State) (r : WaveRef) (p : Pend) : (s.addPend r p).twins = s.twins := rfl
@[simp] theorem State.addPend_recs (s : State) (r : WaveRef) (p : Pend) : (s.addPend r p).recs = s.recs := rfl
@[simp] theorem State.addPend_sluiceRr (s : State) (r : WaveRef) (p : Pend) : (s.addPend r p).sluiceRr = s.sluiceRr := rfl
@[simp] theorem State.addPend_msgs (s : State) (r : WaveRef) (p : Pend) : (s.addPend r p).msgs = s.msgs := rfl
@[simp] theorem State.addPend_watches (s : State) (r : WaveRef) (p : Pend) : (s.addPend r p).watches = s.watches := rfl
@[simp] theorem State.addPend_slines (s : State) (r : WaveRef) (p : Pend) : (s.addPend r p).slines = s.slines := rfl
@[simp] theorem State.addPend_hbm (s : State) (r : WaveRef) (p : Pend) : (s.addPend r p).hbm = s.hbm := rfl
@[simp] theorem State.addPend_hpsn (s : State) (r : WaveRef) (p : Pend) : (s.addPend r p).hpsn = s.hpsn := rfl
@[simp] theorem State.addPend_chans (s : State) (r : WaveRef) (p : Pend) : (s.addPend r p).chans = s.chans := rfl
@[simp] theorem State.addPend_links (s : State) (r : WaveRef) (p : Pend) : (s.addPend r p).links = s.links := rfl
@[simp] theorem State.addPend_ports (s : State) (r : WaveRef) (p : Pend) : (s.addPend r p).ports = s.ports := rfl
@[simp] theorem State.addPend_secured (s : State) (r : WaveRef) (p : Pend) : (s.addPend r p).secured = s.secured := rfl
@[simp] theorem State.addPend_frames (s : State) (r : WaveRef) (p : Pend) : (s.addPend r p).frames = s.frames := rfl
@[simp] theorem State.addPend_conns (s : State) (r : WaveRef) (p : Pend) : (s.addPend r p).conns = s.conns := rfl
@[simp] theorem State.addPend_selRr (s : State) (r : WaveRef) (p : Pend) : (s.addPend r p).selRr = s.selRr := rfl
@[simp] theorem State.addPend_outRr (s : State) (r : WaveRef) (p : Pend) : (s.addPend r p).outRr = s.outRr := rfl
@[simp] theorem State.addPend_gen (s : State) (r : WaveRef) (p : Pend) : (s.addPend r p).gen = s.gen := rfl
@[simp] theorem State.addPend_capMhz (s : State) (r : WaveRef) (p : Pend) : (s.addPend r p).capMhz = s.capMhz := rfl
@[simp] theorem State.addPend_capPending (s : State) (r : WaveRef) (p : Pend) : (s.addPend r p).capPending = s.capPending := rfl
@[simp] theorem State.addPend_capSentAt (s : State) (r : WaveRef) (p : Pend) : (s.addPend r p).capSentAt = s.capSentAt := rfl
@[simp] theorem State.addPend_capAt (s : State) (r : WaveRef) (p : Pend) : (s.addPend r p).capAt = s.capAt := rfl
@[simp] theorem State.addPend_clkAt (s : State) (r : WaveRef) (p : Pend) : (s.addPend r p).clkAt = s.clkAt := rfl
@[simp] theorem State.addPend_doneSeq (s : State) (r : WaveRef) (p : Pend) : (s.addPend r p).doneSeq = s.doneSeq := rfl
@[simp] theorem State.addPend_mgmtResult (s : State) (r : WaveRef) (p : Pend) : (s.addPend r p).mgmtResult = s.mgmtResult := rfl
@[simp] theorem State.addPend_mgmtLast (s : State) (r : WaveRef) (p : Pend) : (s.addPend r p).mgmtLast = s.mgmtLast := rfl
@[simp] theorem State.addPend_mgmtPend (s : State) (r : WaveRef) (p : Pend) : (s.addPend r p).mgmtPend = s.mgmtPend := rfl
@[simp] theorem State.addPend_mgmtBusy (s : State) (r : WaveRef) (p : Pend) : (s.addPend r p).mgmtBusy = s.mgmtBusy := rfl
@[simp] theorem State.addPend_mgmtEarly (s : State) (r : WaveRef) (p : Pend) : (s.addPend r p).mgmtEarly = s.mgmtEarly := rfl
@[simp] theorem State.addPend_schedMirror (s : State) (r : WaveRef) (p : Pend) : (s.addPend r p).schedMirror = s.schedMirror := rfl
@[simp] theorem State.addPend_arbMirror (s : State) (r : WaveRef) (p : Pend) : (s.addPend r p).arbMirror = s.arbMirror := rfl
@[simp] theorem State.addPend_grantAt (s : State) (r : WaveRef) (p : Pend) : (s.addPend r p).grantAt = s.grantAt := rfl
@[simp] theorem State.addPend_engines (s : State) (r : WaveRef) (p : Pend) : (s.addPend r p).engines = s.engines := rfl

/-! ### `State.advance` changes `waves` only -/

@[simp] theorem State.advance_now (s : State) (u : SplitRef) (n : Nat) : (s.advance u n).now = s.now := rfl
@[simp] theorem State.advance_rows (s : State) (u : SplitRef) (n : Nat) : (s.advance u n).rows = s.rows := rfl
@[simp] theorem State.advance_tick (s : State) (u : SplitRef) (n : Nat) : (s.advance u n).tick = s.tick := rfl
@[simp] theorem State.advance_agenda (s : State) (u : SplitRef) (n : Nat) : (s.advance u n).agenda = s.agenda := rfl
@[simp] theorem State.advance_cur (s : State) (u : SplitRef) (n : Nat) : (s.advance u n).cur = s.cur := rfl
@[simp] theorem State.advance_walkBad (s : State) (u : SplitRef) (n : Nat) : (s.advance u n).walkBad = s.walkBad := rfl
@[simp] theorem State.advance_flaw (s : State) (u : SplitRef) (n : Nat) : (s.advance u n).flaw = s.flaw := rfl
@[simp] theorem State.advance_flawed (s : State) (u : SplitRef) (n : Nat) : (s.advance u n).flawed = s.flawed := rfl
@[simp] theorem State.advance_pins (s : State) (u : SplitRef) (n : Nat) : (s.advance u n).pins = s.pins := rfl
@[simp] theorem State.advance_recq (s : State) (u : SplitRef) (n : Nat) : (s.advance u n).recq = s.recq := rfl
@[simp] theorem State.advance_heldBack (s : State) (u : SplitRef) (n : Nat) : (s.advance u n).heldBack = s.heldBack := rfl
@[simp] theorem State.advance_acks (s : State) (u : SplitRef) (n : Nat) : (s.advance u n).acks = s.acks := rfl
@[simp] theorem State.advance_naks (s : State) (u : SplitRef) (n : Nat) : (s.advance u n).naks = s.naks := rfl
@[simp] theorem State.advance_freed (s : State) (u : SplitRef) (n : Nat) : (s.advance u n).freed = s.freed := rfl
@[simp] theorem State.advance_nextId (s : State) (u : SplitRef) (n : Nat) : (s.advance u n).nextId = s.nextId := rfl
@[simp] theorem State.advance_blocks (s : State) (u : SplitRef) (n : Nat) : (s.advance u n).blocks = s.blocks := rfl
@[simp] theorem State.advance_kerns (s : State) (u : SplitRef) (n : Nat) : (s.advance u n).kerns = s.kerns := rfl
@[simp] theorem State.advance_queues (s : State) (u : SplitRef) (n : Nat) : (s.advance u n).queues = s.queues := rfl
@[simp] theorem State.advance_ctxs (s : State) (u : SplitRef) (n : Nat) : (s.advance u n).ctxs = s.ctxs := rfl
@[simp] theorem State.advance_cores (s : State) (u : SplitRef) (n : Nat) : (s.advance u n).cores = s.cores := rfl
@[simp] theorem State.advance_dies (s : State) (u : SplitRef) (n : Nat) : (s.advance u n).dies = s.dies := rfl
@[simp] theorem State.advance_disps (s : State) (u : SplitRef) (n : Nat) : (s.advance u n).disps = s.disps := rfl
@[simp] theorem State.advance_ops (s : State) (u : SplitRef) (n : Nat) : (s.advance u n).ops = s.ops := rfl
@[simp] theorem State.advance_copies (s : State) (u : SplitRef) (n : Nat) : (s.advance u n).copies = s.copies := rfl
@[simp] theorem State.advance_mxs (s : State) (u : SplitRef) (n : Nat) : (s.advance u n).mxs = s.mxs := rfl
@[simp] theorem State.advance_twins (s : State) (u : SplitRef) (n : Nat) : (s.advance u n).twins = s.twins := rfl
@[simp] theorem State.advance_recs (s : State) (u : SplitRef) (n : Nat) : (s.advance u n).recs = s.recs := rfl
@[simp] theorem State.advance_sluiceRr (s : State) (u : SplitRef) (n : Nat) : (s.advance u n).sluiceRr = s.sluiceRr := rfl
@[simp] theorem State.advance_msgs (s : State) (u : SplitRef) (n : Nat) : (s.advance u n).msgs = s.msgs := rfl
@[simp] theorem State.advance_watches (s : State) (u : SplitRef) (n : Nat) : (s.advance u n).watches = s.watches := rfl
@[simp] theorem State.advance_slines (s : State) (u : SplitRef) (n : Nat) : (s.advance u n).slines = s.slines := rfl
@[simp] theorem State.advance_hbm (s : State) (u : SplitRef) (n : Nat) : (s.advance u n).hbm = s.hbm := rfl
@[simp] theorem State.advance_hpsn (s : State) (u : SplitRef) (n : Nat) : (s.advance u n).hpsn = s.hpsn := rfl
@[simp] theorem State.advance_chans (s : State) (u : SplitRef) (n : Nat) : (s.advance u n).chans = s.chans := rfl
@[simp] theorem State.advance_links (s : State) (u : SplitRef) (n : Nat) : (s.advance u n).links = s.links := rfl
@[simp] theorem State.advance_ports (s : State) (u : SplitRef) (n : Nat) : (s.advance u n).ports = s.ports := rfl
@[simp] theorem State.advance_secured (s : State) (u : SplitRef) (n : Nat) : (s.advance u n).secured = s.secured := rfl
@[simp] theorem State.advance_frames (s : State) (u : SplitRef) (n : Nat) : (s.advance u n).frames = s.frames := rfl
@[simp] theorem State.advance_conns (s : State) (u : SplitRef) (n : Nat) : (s.advance u n).conns = s.conns := rfl
@[simp] theorem State.advance_selRr (s : State) (u : SplitRef) (n : Nat) : (s.advance u n).selRr = s.selRr := rfl
@[simp] theorem State.advance_outRr (s : State) (u : SplitRef) (n : Nat) : (s.advance u n).outRr = s.outRr := rfl
@[simp] theorem State.advance_gen (s : State) (u : SplitRef) (n : Nat) : (s.advance u n).gen = s.gen := rfl
@[simp] theorem State.advance_capMhz (s : State) (u : SplitRef) (n : Nat) : (s.advance u n).capMhz = s.capMhz := rfl
@[simp] theorem State.advance_capPending (s : State) (u : SplitRef) (n : Nat) : (s.advance u n).capPending = s.capPending := rfl
@[simp] theorem State.advance_capSentAt (s : State) (u : SplitRef) (n : Nat) : (s.advance u n).capSentAt = s.capSentAt := rfl
@[simp] theorem State.advance_capAt (s : State) (u : SplitRef) (n : Nat) : (s.advance u n).capAt = s.capAt := rfl
@[simp] theorem State.advance_clkAt (s : State) (u : SplitRef) (n : Nat) : (s.advance u n).clkAt = s.clkAt := rfl
@[simp] theorem State.advance_doneSeq (s : State) (u : SplitRef) (n : Nat) : (s.advance u n).doneSeq = s.doneSeq := rfl
@[simp] theorem State.advance_mgmtResult (s : State) (u : SplitRef) (n : Nat) : (s.advance u n).mgmtResult = s.mgmtResult := rfl
@[simp] theorem State.advance_mgmtLast (s : State) (u : SplitRef) (n : Nat) : (s.advance u n).mgmtLast = s.mgmtLast := rfl
@[simp] theorem State.advance_mgmtPend (s : State) (u : SplitRef) (n : Nat) : (s.advance u n).mgmtPend = s.mgmtPend := rfl
@[simp] theorem State.advance_mgmtBusy (s : State) (u : SplitRef) (n : Nat) : (s.advance u n).mgmtBusy = s.mgmtBusy := rfl
@[simp] theorem State.advance_mgmtEarly (s : State) (u : SplitRef) (n : Nat) : (s.advance u n).mgmtEarly = s.mgmtEarly := rfl
@[simp] theorem State.advance_schedMirror (s : State) (u : SplitRef) (n : Nat) : (s.advance u n).schedMirror = s.schedMirror := rfl
@[simp] theorem State.advance_arbMirror (s : State) (u : SplitRef) (n : Nat) : (s.advance u n).arbMirror = s.arbMirror := rfl
@[simp] theorem State.advance_grantAt (s : State) (u : SplitRef) (n : Nat) : (s.advance u n).grantAt = s.grantAt := rfl
@[simp] theorem State.advance_engines (s : State) (u : SplitRef) (n : Nat) : (s.advance u n).engines = s.engines := rfl

/-! ### `State.setQueue` changes `queues` only -/

@[simp] theorem State.setQueue_now (s : State) (q : Nat) (x : Queue) : (s.setQueue q x).now = s.now := rfl
@[simp] theorem State.setQueue_rows (s : State) (q : Nat) (x : Queue) : (s.setQueue q x).rows = s.rows := rfl
@[simp] theorem State.setQueue_tick (s : State) (q : Nat) (x : Queue) : (s.setQueue q x).tick = s.tick := rfl
@[simp] theorem State.setQueue_agenda (s : State) (q : Nat) (x : Queue) : (s.setQueue q x).agenda = s.agenda := rfl
@[simp] theorem State.setQueue_cur (s : State) (q : Nat) (x : Queue) : (s.setQueue q x).cur = s.cur := rfl
@[simp] theorem State.setQueue_walkBad (s : State) (q : Nat) (x : Queue) : (s.setQueue q x).walkBad = s.walkBad := rfl
@[simp] theorem State.setQueue_flaw (s : State) (q : Nat) (x : Queue) : (s.setQueue q x).flaw = s.flaw := rfl
@[simp] theorem State.setQueue_flawed (s : State) (q : Nat) (x : Queue) : (s.setQueue q x).flawed = s.flawed := rfl
@[simp] theorem State.setQueue_pins (s : State) (q : Nat) (x : Queue) : (s.setQueue q x).pins = s.pins := rfl
@[simp] theorem State.setQueue_recq (s : State) (q : Nat) (x : Queue) : (s.setQueue q x).recq = s.recq := rfl
@[simp] theorem State.setQueue_heldBack (s : State) (q : Nat) (x : Queue) : (s.setQueue q x).heldBack = s.heldBack := rfl
@[simp] theorem State.setQueue_acks (s : State) (q : Nat) (x : Queue) : (s.setQueue q x).acks = s.acks := rfl
@[simp] theorem State.setQueue_naks (s : State) (q : Nat) (x : Queue) : (s.setQueue q x).naks = s.naks := rfl
@[simp] theorem State.setQueue_freed (s : State) (q : Nat) (x : Queue) : (s.setQueue q x).freed = s.freed := rfl
@[simp] theorem State.setQueue_nextId (s : State) (q : Nat) (x : Queue) : (s.setQueue q x).nextId = s.nextId := rfl
@[simp] theorem State.setQueue_waves (s : State) (q : Nat) (x : Queue) : (s.setQueue q x).waves = s.waves := rfl
@[simp] theorem State.setQueue_blocks (s : State) (q : Nat) (x : Queue) : (s.setQueue q x).blocks = s.blocks := rfl
@[simp] theorem State.setQueue_kerns (s : State) (q : Nat) (x : Queue) : (s.setQueue q x).kerns = s.kerns := rfl
@[simp] theorem State.setQueue_ctxs (s : State) (q : Nat) (x : Queue) : (s.setQueue q x).ctxs = s.ctxs := rfl
@[simp] theorem State.setQueue_cores (s : State) (q : Nat) (x : Queue) : (s.setQueue q x).cores = s.cores := rfl
@[simp] theorem State.setQueue_dies (s : State) (q : Nat) (x : Queue) : (s.setQueue q x).dies = s.dies := rfl
@[simp] theorem State.setQueue_disps (s : State) (q : Nat) (x : Queue) : (s.setQueue q x).disps = s.disps := rfl
@[simp] theorem State.setQueue_ops (s : State) (q : Nat) (x : Queue) : (s.setQueue q x).ops = s.ops := rfl
@[simp] theorem State.setQueue_copies (s : State) (q : Nat) (x : Queue) : (s.setQueue q x).copies = s.copies := rfl
@[simp] theorem State.setQueue_mxs (s : State) (q : Nat) (x : Queue) : (s.setQueue q x).mxs = s.mxs := rfl
@[simp] theorem State.setQueue_twins (s : State) (q : Nat) (x : Queue) : (s.setQueue q x).twins = s.twins := rfl
@[simp] theorem State.setQueue_recs (s : State) (q : Nat) (x : Queue) : (s.setQueue q x).recs = s.recs := rfl
@[simp] theorem State.setQueue_sluiceRr (s : State) (q : Nat) (x : Queue) : (s.setQueue q x).sluiceRr = s.sluiceRr := rfl
@[simp] theorem State.setQueue_msgs (s : State) (q : Nat) (x : Queue) : (s.setQueue q x).msgs = s.msgs := rfl
@[simp] theorem State.setQueue_watches (s : State) (q : Nat) (x : Queue) : (s.setQueue q x).watches = s.watches := rfl
@[simp] theorem State.setQueue_slines (s : State) (q : Nat) (x : Queue) : (s.setQueue q x).slines = s.slines := rfl
@[simp] theorem State.setQueue_hbm (s : State) (q : Nat) (x : Queue) : (s.setQueue q x).hbm = s.hbm := rfl
@[simp] theorem State.setQueue_hpsn (s : State) (q : Nat) (x : Queue) : (s.setQueue q x).hpsn = s.hpsn := rfl
@[simp] theorem State.setQueue_chans (s : State) (q : Nat) (x : Queue) : (s.setQueue q x).chans = s.chans := rfl
@[simp] theorem State.setQueue_links (s : State) (q : Nat) (x : Queue) : (s.setQueue q x).links = s.links := rfl
@[simp] theorem State.setQueue_ports (s : State) (q : Nat) (x : Queue) : (s.setQueue q x).ports = s.ports := rfl
@[simp] theorem State.setQueue_secured (s : State) (q : Nat) (x : Queue) : (s.setQueue q x).secured = s.secured := rfl
@[simp] theorem State.setQueue_frames (s : State) (q : Nat) (x : Queue) : (s.setQueue q x).frames = s.frames := rfl
@[simp] theorem State.setQueue_conns (s : State) (q : Nat) (x : Queue) : (s.setQueue q x).conns = s.conns := rfl
@[simp] theorem State.setQueue_selRr (s : State) (q : Nat) (x : Queue) : (s.setQueue q x).selRr = s.selRr := rfl
@[simp] theorem State.setQueue_outRr (s : State) (q : Nat) (x : Queue) : (s.setQueue q x).outRr = s.outRr := rfl
@[simp] theorem State.setQueue_gen (s : State) (q : Nat) (x : Queue) : (s.setQueue q x).gen = s.gen := rfl
@[simp] theorem State.setQueue_capMhz (s : State) (q : Nat) (x : Queue) : (s.setQueue q x).capMhz = s.capMhz := rfl
@[simp] theorem State.setQueue_capPending (s : State) (q : Nat) (x : Queue) : (s.setQueue q x).capPending = s.capPending := rfl
@[simp] theorem State.setQueue_capSentAt (s : State) (q : Nat) (x : Queue) : (s.setQueue q x).capSentAt = s.capSentAt := rfl
@[simp] theorem State.setQueue_capAt (s : State) (q : Nat) (x : Queue) : (s.setQueue q x).capAt = s.capAt := rfl
@[simp] theorem State.setQueue_clkAt (s : State) (q : Nat) (x : Queue) : (s.setQueue q x).clkAt = s.clkAt := rfl
@[simp] theorem State.setQueue_doneSeq (s : State) (q : Nat) (x : Queue) : (s.setQueue q x).doneSeq = s.doneSeq := rfl
@[simp] theorem State.setQueue_mgmtResult (s : State) (q : Nat) (x : Queue) : (s.setQueue q x).mgmtResult = s.mgmtResult := rfl
@[simp] theorem State.setQueue_mgmtLast (s : State) (q : Nat) (x : Queue) : (s.setQueue q x).mgmtLast = s.mgmtLast := rfl
@[simp] theorem State.setQueue_mgmtPend (s : State) (q : Nat) (x : Queue) : (s.setQueue q x).mgmtPend = s.mgmtPend := rfl
@[simp] theorem State.setQueue_mgmtBusy (s : State) (q : Nat) (x : Queue) : (s.setQueue q x).mgmtBusy = s.mgmtBusy := rfl
@[simp] theorem State.setQueue_mgmtEarly (s : State) (q : Nat) (x : Queue) : (s.setQueue q x).mgmtEarly = s.mgmtEarly := rfl
@[simp] theorem State.setQueue_schedMirror (s : State) (q : Nat) (x : Queue) : (s.setQueue q x).schedMirror = s.schedMirror := rfl
@[simp] theorem State.setQueue_arbMirror (s : State) (q : Nat) (x : Queue) : (s.setQueue q x).arbMirror = s.arbMirror := rfl
@[simp] theorem State.setQueue_grantAt (s : State) (q : Nat) (x : Queue) : (s.setQueue q x).grantAt = s.grantAt := rfl
@[simp] theorem State.setQueue_engines (s : State) (q : Nat) (x : Queue) : (s.setQueue q x).engines = s.engines := rfl

/-! ### `State.updKern` changes `kerns` only -/

@[simp] theorem State.updKern_now (s : State) (k : Nat) (f : Kern → Kern) : (s.updKern k f).now = s.now := rfl
@[simp] theorem State.updKern_rows (s : State) (k : Nat) (f : Kern → Kern) : (s.updKern k f).rows = s.rows := rfl
@[simp] theorem State.updKern_tick (s : State) (k : Nat) (f : Kern → Kern) : (s.updKern k f).tick = s.tick := rfl
@[simp] theorem State.updKern_agenda (s : State) (k : Nat) (f : Kern → Kern) : (s.updKern k f).agenda = s.agenda := rfl
@[simp] theorem State.updKern_cur (s : State) (k : Nat) (f : Kern → Kern) : (s.updKern k f).cur = s.cur := rfl
@[simp] theorem State.updKern_walkBad (s : State) (k : Nat) (f : Kern → Kern) : (s.updKern k f).walkBad = s.walkBad := rfl
@[simp] theorem State.updKern_flaw (s : State) (k : Nat) (f : Kern → Kern) : (s.updKern k f).flaw = s.flaw := rfl
@[simp] theorem State.updKern_flawed (s : State) (k : Nat) (f : Kern → Kern) : (s.updKern k f).flawed = s.flawed := rfl
@[simp] theorem State.updKern_pins (s : State) (k : Nat) (f : Kern → Kern) : (s.updKern k f).pins = s.pins := rfl
@[simp] theorem State.updKern_recq (s : State) (k : Nat) (f : Kern → Kern) : (s.updKern k f).recq = s.recq := rfl
@[simp] theorem State.updKern_heldBack (s : State) (k : Nat) (f : Kern → Kern) : (s.updKern k f).heldBack = s.heldBack := rfl
@[simp] theorem State.updKern_acks (s : State) (k : Nat) (f : Kern → Kern) : (s.updKern k f).acks = s.acks := rfl
@[simp] theorem State.updKern_naks (s : State) (k : Nat) (f : Kern → Kern) : (s.updKern k f).naks = s.naks := rfl
@[simp] theorem State.updKern_freed (s : State) (k : Nat) (f : Kern → Kern) : (s.updKern k f).freed = s.freed := rfl
@[simp] theorem State.updKern_nextId (s : State) (k : Nat) (f : Kern → Kern) : (s.updKern k f).nextId = s.nextId := rfl
@[simp] theorem State.updKern_waves (s : State) (k : Nat) (f : Kern → Kern) : (s.updKern k f).waves = s.waves := rfl
@[simp] theorem State.updKern_blocks (s : State) (k : Nat) (f : Kern → Kern) : (s.updKern k f).blocks = s.blocks := rfl
@[simp] theorem State.updKern_queues (s : State) (k : Nat) (f : Kern → Kern) : (s.updKern k f).queues = s.queues := rfl
@[simp] theorem State.updKern_ctxs (s : State) (k : Nat) (f : Kern → Kern) : (s.updKern k f).ctxs = s.ctxs := rfl
@[simp] theorem State.updKern_cores (s : State) (k : Nat) (f : Kern → Kern) : (s.updKern k f).cores = s.cores := rfl
@[simp] theorem State.updKern_dies (s : State) (k : Nat) (f : Kern → Kern) : (s.updKern k f).dies = s.dies := rfl
@[simp] theorem State.updKern_disps (s : State) (k : Nat) (f : Kern → Kern) : (s.updKern k f).disps = s.disps := rfl
@[simp] theorem State.updKern_ops (s : State) (k : Nat) (f : Kern → Kern) : (s.updKern k f).ops = s.ops := rfl
@[simp] theorem State.updKern_copies (s : State) (k : Nat) (f : Kern → Kern) : (s.updKern k f).copies = s.copies := rfl
@[simp] theorem State.updKern_mxs (s : State) (k : Nat) (f : Kern → Kern) : (s.updKern k f).mxs = s.mxs := rfl
@[simp] theorem State.updKern_twins (s : State) (k : Nat) (f : Kern → Kern) : (s.updKern k f).twins = s.twins := rfl
@[simp] theorem State.updKern_recs (s : State) (k : Nat) (f : Kern → Kern) : (s.updKern k f).recs = s.recs := rfl
@[simp] theorem State.updKern_sluiceRr (s : State) (k : Nat) (f : Kern → Kern) : (s.updKern k f).sluiceRr = s.sluiceRr := rfl
@[simp] theorem State.updKern_msgs (s : State) (k : Nat) (f : Kern → Kern) : (s.updKern k f).msgs = s.msgs := rfl
@[simp] theorem State.updKern_watches (s : State) (k : Nat) (f : Kern → Kern) : (s.updKern k f).watches = s.watches := rfl
@[simp] theorem State.updKern_slines (s : State) (k : Nat) (f : Kern → Kern) : (s.updKern k f).slines = s.slines := rfl
@[simp] theorem State.updKern_hbm (s : State) (k : Nat) (f : Kern → Kern) : (s.updKern k f).hbm = s.hbm := rfl
@[simp] theorem State.updKern_hpsn (s : State) (k : Nat) (f : Kern → Kern) : (s.updKern k f).hpsn = s.hpsn := rfl
@[simp] theorem State.updKern_chans (s : State) (k : Nat) (f : Kern → Kern) : (s.updKern k f).chans = s.chans := rfl
@[simp] theorem State.updKern_links (s : State) (k : Nat) (f : Kern → Kern) : (s.updKern k f).links = s.links := rfl
@[simp] theorem State.updKern_ports (s : State) (k : Nat) (f : Kern → Kern) : (s.updKern k f).ports = s.ports := rfl
@[simp] theorem State.updKern_secured (s : State) (k : Nat) (f : Kern → Kern) : (s.updKern k f).secured = s.secured := rfl
@[simp] theorem State.updKern_frames (s : State) (k : Nat) (f : Kern → Kern) : (s.updKern k f).frames = s.frames := rfl
@[simp] theorem State.updKern_conns (s : State) (k : Nat) (f : Kern → Kern) : (s.updKern k f).conns = s.conns := rfl
@[simp] theorem State.updKern_selRr (s : State) (k : Nat) (f : Kern → Kern) : (s.updKern k f).selRr = s.selRr := rfl
@[simp] theorem State.updKern_outRr (s : State) (k : Nat) (f : Kern → Kern) : (s.updKern k f).outRr = s.outRr := rfl
@[simp] theorem State.updKern_gen (s : State) (k : Nat) (f : Kern → Kern) : (s.updKern k f).gen = s.gen := rfl
@[simp] theorem State.updKern_capMhz (s : State) (k : Nat) (f : Kern → Kern) : (s.updKern k f).capMhz = s.capMhz := rfl
@[simp] theorem State.updKern_capPending (s : State) (k : Nat) (f : Kern → Kern) : (s.updKern k f).capPending = s.capPending := rfl
@[simp] theorem State.updKern_capSentAt (s : State) (k : Nat) (f : Kern → Kern) : (s.updKern k f).capSentAt = s.capSentAt := rfl
@[simp] theorem State.updKern_capAt (s : State) (k : Nat) (f : Kern → Kern) : (s.updKern k f).capAt = s.capAt := rfl
@[simp] theorem State.updKern_clkAt (s : State) (k : Nat) (f : Kern → Kern) : (s.updKern k f).clkAt = s.clkAt := rfl
@[simp] theorem State.updKern_doneSeq (s : State) (k : Nat) (f : Kern → Kern) : (s.updKern k f).doneSeq = s.doneSeq := rfl
@[simp] theorem State.updKern_mgmtResult (s : State) (k : Nat) (f : Kern → Kern) : (s.updKern k f).mgmtResult = s.mgmtResult := rfl
@[simp] theorem State.updKern_mgmtLast (s : State) (k : Nat) (f : Kern → Kern) : (s.updKern k f).mgmtLast = s.mgmtLast := rfl
@[simp] theorem State.updKern_mgmtPend (s : State) (k : Nat) (f : Kern → Kern) : (s.updKern k f).mgmtPend = s.mgmtPend := rfl
@[simp] theorem State.updKern_mgmtBusy (s : State) (k : Nat) (f : Kern → Kern) : (s.updKern k f).mgmtBusy = s.mgmtBusy := rfl
@[simp] theorem State.updKern_mgmtEarly (s : State) (k : Nat) (f : Kern → Kern) : (s.updKern k f).mgmtEarly = s.mgmtEarly := rfl
@[simp] theorem State.updKern_schedMirror (s : State) (k : Nat) (f : Kern → Kern) : (s.updKern k f).schedMirror = s.schedMirror := rfl
@[simp] theorem State.updKern_arbMirror (s : State) (k : Nat) (f : Kern → Kern) : (s.updKern k f).arbMirror = s.arbMirror := rfl
@[simp] theorem State.updKern_grantAt (s : State) (k : Nat) (f : Kern → Kern) : (s.updKern k f).grantAt = s.grantAt := rfl
@[simp] theorem State.updKern_engines (s : State) (k : Nat) (f : Kern → Kern) : (s.updKern k f).engines = s.engines := rfl

/-! ### `State.updOp` changes `ops` only -/

@[simp] theorem State.updOp_now (s : State) (o : Nat) (f : Op → Op) : (s.updOp o f).now = s.now := rfl
@[simp] theorem State.updOp_rows (s : State) (o : Nat) (f : Op → Op) : (s.updOp o f).rows = s.rows := rfl
@[simp] theorem State.updOp_tick (s : State) (o : Nat) (f : Op → Op) : (s.updOp o f).tick = s.tick := rfl
@[simp] theorem State.updOp_agenda (s : State) (o : Nat) (f : Op → Op) : (s.updOp o f).agenda = s.agenda := rfl
@[simp] theorem State.updOp_cur (s : State) (o : Nat) (f : Op → Op) : (s.updOp o f).cur = s.cur := rfl
@[simp] theorem State.updOp_walkBad (s : State) (o : Nat) (f : Op → Op) : (s.updOp o f).walkBad = s.walkBad := rfl
@[simp] theorem State.updOp_flaw (s : State) (o : Nat) (f : Op → Op) : (s.updOp o f).flaw = s.flaw := rfl
@[simp] theorem State.updOp_flawed (s : State) (o : Nat) (f : Op → Op) : (s.updOp o f).flawed = s.flawed := rfl
@[simp] theorem State.updOp_pins (s : State) (o : Nat) (f : Op → Op) : (s.updOp o f).pins = s.pins := rfl
@[simp] theorem State.updOp_recq (s : State) (o : Nat) (f : Op → Op) : (s.updOp o f).recq = s.recq := rfl
@[simp] theorem State.updOp_heldBack (s : State) (o : Nat) (f : Op → Op) : (s.updOp o f).heldBack = s.heldBack := rfl
@[simp] theorem State.updOp_acks (s : State) (o : Nat) (f : Op → Op) : (s.updOp o f).acks = s.acks := rfl
@[simp] theorem State.updOp_naks (s : State) (o : Nat) (f : Op → Op) : (s.updOp o f).naks = s.naks := rfl
@[simp] theorem State.updOp_freed (s : State) (o : Nat) (f : Op → Op) : (s.updOp o f).freed = s.freed := rfl
@[simp] theorem State.updOp_nextId (s : State) (o : Nat) (f : Op → Op) : (s.updOp o f).nextId = s.nextId := rfl
@[simp] theorem State.updOp_waves (s : State) (o : Nat) (f : Op → Op) : (s.updOp o f).waves = s.waves := rfl
@[simp] theorem State.updOp_blocks (s : State) (o : Nat) (f : Op → Op) : (s.updOp o f).blocks = s.blocks := rfl
@[simp] theorem State.updOp_kerns (s : State) (o : Nat) (f : Op → Op) : (s.updOp o f).kerns = s.kerns := rfl
@[simp] theorem State.updOp_queues (s : State) (o : Nat) (f : Op → Op) : (s.updOp o f).queues = s.queues := rfl
@[simp] theorem State.updOp_ctxs (s : State) (o : Nat) (f : Op → Op) : (s.updOp o f).ctxs = s.ctxs := rfl
@[simp] theorem State.updOp_cores (s : State) (o : Nat) (f : Op → Op) : (s.updOp o f).cores = s.cores := rfl
@[simp] theorem State.updOp_dies (s : State) (o : Nat) (f : Op → Op) : (s.updOp o f).dies = s.dies := rfl
@[simp] theorem State.updOp_disps (s : State) (o : Nat) (f : Op → Op) : (s.updOp o f).disps = s.disps := rfl
@[simp] theorem State.updOp_copies (s : State) (o : Nat) (f : Op → Op) : (s.updOp o f).copies = s.copies := rfl
@[simp] theorem State.updOp_mxs (s : State) (o : Nat) (f : Op → Op) : (s.updOp o f).mxs = s.mxs := rfl
@[simp] theorem State.updOp_twins (s : State) (o : Nat) (f : Op → Op) : (s.updOp o f).twins = s.twins := rfl
@[simp] theorem State.updOp_recs (s : State) (o : Nat) (f : Op → Op) : (s.updOp o f).recs = s.recs := rfl
@[simp] theorem State.updOp_sluiceRr (s : State) (o : Nat) (f : Op → Op) : (s.updOp o f).sluiceRr = s.sluiceRr := rfl
@[simp] theorem State.updOp_msgs (s : State) (o : Nat) (f : Op → Op) : (s.updOp o f).msgs = s.msgs := rfl
@[simp] theorem State.updOp_watches (s : State) (o : Nat) (f : Op → Op) : (s.updOp o f).watches = s.watches := rfl
@[simp] theorem State.updOp_slines (s : State) (o : Nat) (f : Op → Op) : (s.updOp o f).slines = s.slines := rfl
@[simp] theorem State.updOp_hbm (s : State) (o : Nat) (f : Op → Op) : (s.updOp o f).hbm = s.hbm := rfl
@[simp] theorem State.updOp_hpsn (s : State) (o : Nat) (f : Op → Op) : (s.updOp o f).hpsn = s.hpsn := rfl
@[simp] theorem State.updOp_chans (s : State) (o : Nat) (f : Op → Op) : (s.updOp o f).chans = s.chans := rfl
@[simp] theorem State.updOp_links (s : State) (o : Nat) (f : Op → Op) : (s.updOp o f).links = s.links := rfl
@[simp] theorem State.updOp_ports (s : State) (o : Nat) (f : Op → Op) : (s.updOp o f).ports = s.ports := rfl
@[simp] theorem State.updOp_secured (s : State) (o : Nat) (f : Op → Op) : (s.updOp o f).secured = s.secured := rfl
@[simp] theorem State.updOp_frames (s : State) (o : Nat) (f : Op → Op) : (s.updOp o f).frames = s.frames := rfl
@[simp] theorem State.updOp_conns (s : State) (o : Nat) (f : Op → Op) : (s.updOp o f).conns = s.conns := rfl
@[simp] theorem State.updOp_selRr (s : State) (o : Nat) (f : Op → Op) : (s.updOp o f).selRr = s.selRr := rfl
@[simp] theorem State.updOp_outRr (s : State) (o : Nat) (f : Op → Op) : (s.updOp o f).outRr = s.outRr := rfl
@[simp] theorem State.updOp_gen (s : State) (o : Nat) (f : Op → Op) : (s.updOp o f).gen = s.gen := rfl
@[simp] theorem State.updOp_capMhz (s : State) (o : Nat) (f : Op → Op) : (s.updOp o f).capMhz = s.capMhz := rfl
@[simp] theorem State.updOp_capPending (s : State) (o : Nat) (f : Op → Op) : (s.updOp o f).capPending = s.capPending := rfl
@[simp] theorem State.updOp_capSentAt (s : State) (o : Nat) (f : Op → Op) : (s.updOp o f).capSentAt = s.capSentAt := rfl
@[simp] theorem State.updOp_capAt (s : State) (o : Nat) (f : Op → Op) : (s.updOp o f).capAt = s.capAt := rfl
@[simp] theorem State.updOp_clkAt (s : State) (o : Nat) (f : Op → Op) : (s.updOp o f).clkAt = s.clkAt := rfl
@[simp] theorem State.updOp_doneSeq (s : State) (o : Nat) (f : Op → Op) : (s.updOp o f).doneSeq = s.doneSeq := rfl
@[simp] theorem State.updOp_mgmtResult (s : State) (o : Nat) (f : Op → Op) : (s.updOp o f).mgmtResult = s.mgmtResult := rfl
@[simp] theorem State.updOp_mgmtLast (s : State) (o : Nat) (f : Op → Op) : (s.updOp o f).mgmtLast = s.mgmtLast := rfl
@[simp] theorem State.updOp_mgmtPend (s : State) (o : Nat) (f : Op → Op) : (s.updOp o f).mgmtPend = s.mgmtPend := rfl
@[simp] theorem State.updOp_mgmtBusy (s : State) (o : Nat) (f : Op → Op) : (s.updOp o f).mgmtBusy = s.mgmtBusy := rfl
@[simp] theorem State.updOp_mgmtEarly (s : State) (o : Nat) (f : Op → Op) : (s.updOp o f).mgmtEarly = s.mgmtEarly := rfl
@[simp] theorem State.updOp_schedMirror (s : State) (o : Nat) (f : Op → Op) : (s.updOp o f).schedMirror = s.schedMirror := rfl
@[simp] theorem State.updOp_arbMirror (s : State) (o : Nat) (f : Op → Op) : (s.updOp o f).arbMirror = s.arbMirror := rfl
@[simp] theorem State.updOp_grantAt (s : State) (o : Nat) (f : Op → Op) : (s.updOp o f).grantAt = s.grantAt := rfl
@[simp] theorem State.updOp_engines (s : State) (o : Nat) (f : Op → Op) : (s.updOp o f).engines = s.engines := rfl

/-! ### `State.setChan` changes `chans` only -/

@[simp] theorem State.setChan_now (s : State) (c : Nat) (x : Chan) : (s.setChan c x).now = s.now := rfl
@[simp] theorem State.setChan_rows (s : State) (c : Nat) (x : Chan) : (s.setChan c x).rows = s.rows := rfl
@[simp] theorem State.setChan_tick (s : State) (c : Nat) (x : Chan) : (s.setChan c x).tick = s.tick := rfl
@[simp] theorem State.setChan_agenda (s : State) (c : Nat) (x : Chan) : (s.setChan c x).agenda = s.agenda := rfl
@[simp] theorem State.setChan_cur (s : State) (c : Nat) (x : Chan) : (s.setChan c x).cur = s.cur := rfl
@[simp] theorem State.setChan_walkBad (s : State) (c : Nat) (x : Chan) : (s.setChan c x).walkBad = s.walkBad := rfl
@[simp] theorem State.setChan_flaw (s : State) (c : Nat) (x : Chan) : (s.setChan c x).flaw = s.flaw := rfl
@[simp] theorem State.setChan_flawed (s : State) (c : Nat) (x : Chan) : (s.setChan c x).flawed = s.flawed := rfl
@[simp] theorem State.setChan_pins (s : State) (c : Nat) (x : Chan) : (s.setChan c x).pins = s.pins := rfl
@[simp] theorem State.setChan_recq (s : State) (c : Nat) (x : Chan) : (s.setChan c x).recq = s.recq := rfl
@[simp] theorem State.setChan_heldBack (s : State) (c : Nat) (x : Chan) : (s.setChan c x).heldBack = s.heldBack := rfl
@[simp] theorem State.setChan_acks (s : State) (c : Nat) (x : Chan) : (s.setChan c x).acks = s.acks := rfl
@[simp] theorem State.setChan_naks (s : State) (c : Nat) (x : Chan) : (s.setChan c x).naks = s.naks := rfl
@[simp] theorem State.setChan_freed (s : State) (c : Nat) (x : Chan) : (s.setChan c x).freed = s.freed := rfl
@[simp] theorem State.setChan_nextId (s : State) (c : Nat) (x : Chan) : (s.setChan c x).nextId = s.nextId := rfl
@[simp] theorem State.setChan_waves (s : State) (c : Nat) (x : Chan) : (s.setChan c x).waves = s.waves := rfl
@[simp] theorem State.setChan_blocks (s : State) (c : Nat) (x : Chan) : (s.setChan c x).blocks = s.blocks := rfl
@[simp] theorem State.setChan_kerns (s : State) (c : Nat) (x : Chan) : (s.setChan c x).kerns = s.kerns := rfl
@[simp] theorem State.setChan_queues (s : State) (c : Nat) (x : Chan) : (s.setChan c x).queues = s.queues := rfl
@[simp] theorem State.setChan_ctxs (s : State) (c : Nat) (x : Chan) : (s.setChan c x).ctxs = s.ctxs := rfl
@[simp] theorem State.setChan_cores (s : State) (c : Nat) (x : Chan) : (s.setChan c x).cores = s.cores := rfl
@[simp] theorem State.setChan_dies (s : State) (c : Nat) (x : Chan) : (s.setChan c x).dies = s.dies := rfl
@[simp] theorem State.setChan_disps (s : State) (c : Nat) (x : Chan) : (s.setChan c x).disps = s.disps := rfl
@[simp] theorem State.setChan_ops (s : State) (c : Nat) (x : Chan) : (s.setChan c x).ops = s.ops := rfl
@[simp] theorem State.setChan_copies (s : State) (c : Nat) (x : Chan) : (s.setChan c x).copies = s.copies := rfl
@[simp] theorem State.setChan_mxs (s : State) (c : Nat) (x : Chan) : (s.setChan c x).mxs = s.mxs := rfl
@[simp] theorem State.setChan_twins (s : State) (c : Nat) (x : Chan) : (s.setChan c x).twins = s.twins := rfl
@[simp] theorem State.setChan_recs (s : State) (c : Nat) (x : Chan) : (s.setChan c x).recs = s.recs := rfl
@[simp] theorem State.setChan_sluiceRr (s : State) (c : Nat) (x : Chan) : (s.setChan c x).sluiceRr = s.sluiceRr := rfl
@[simp] theorem State.setChan_msgs (s : State) (c : Nat) (x : Chan) : (s.setChan c x).msgs = s.msgs := rfl
@[simp] theorem State.setChan_watches (s : State) (c : Nat) (x : Chan) : (s.setChan c x).watches = s.watches := rfl
@[simp] theorem State.setChan_slines (s : State) (c : Nat) (x : Chan) : (s.setChan c x).slines = s.slines := rfl
@[simp] theorem State.setChan_hbm (s : State) (c : Nat) (x : Chan) : (s.setChan c x).hbm = s.hbm := rfl
@[simp] theorem State.setChan_hpsn (s : State) (c : Nat) (x : Chan) : (s.setChan c x).hpsn = s.hpsn := rfl
@[simp] theorem State.setChan_links (s : State) (c : Nat) (x : Chan) : (s.setChan c x).links = s.links := rfl
@[simp] theorem State.setChan_ports (s : State) (c : Nat) (x : Chan) : (s.setChan c x).ports = s.ports := rfl
@[simp] theorem State.setChan_secured (s : State) (c : Nat) (x : Chan) : (s.setChan c x).secured = s.secured := rfl
@[simp] theorem State.setChan_frames (s : State) (c : Nat) (x : Chan) : (s.setChan c x).frames = s.frames := rfl
@[simp] theorem State.setChan_conns (s : State) (c : Nat) (x : Chan) : (s.setChan c x).conns = s.conns := rfl
@[simp] theorem State.setChan_selRr (s : State) (c : Nat) (x : Chan) : (s.setChan c x).selRr = s.selRr := rfl
@[simp] theorem State.setChan_outRr (s : State) (c : Nat) (x : Chan) : (s.setChan c x).outRr = s.outRr := rfl
@[simp] theorem State.setChan_gen (s : State) (c : Nat) (x : Chan) : (s.setChan c x).gen = s.gen := rfl
@[simp] theorem State.setChan_capMhz (s : State) (c : Nat) (x : Chan) : (s.setChan c x).capMhz = s.capMhz := rfl
@[simp] theorem State.setChan_capPending (s : State) (c : Nat) (x : Chan) : (s.setChan c x).capPending = s.capPending := rfl
@[simp] theorem State.setChan_capSentAt (s : State) (c : Nat) (x : Chan) : (s.setChan c x).capSentAt = s.capSentAt := rfl
@[simp] theorem State.setChan_capAt (s : State) (c : Nat) (x : Chan) : (s.setChan c x).capAt = s.capAt := rfl
@[simp] theorem State.setChan_clkAt (s : State) (c : Nat) (x : Chan) : (s.setChan c x).clkAt = s.clkAt := rfl
@[simp] theorem State.setChan_doneSeq (s : State) (c : Nat) (x : Chan) : (s.setChan c x).doneSeq = s.doneSeq := rfl
@[simp] theorem State.setChan_mgmtResult (s : State) (c : Nat) (x : Chan) : (s.setChan c x).mgmtResult = s.mgmtResult := rfl
@[simp] theorem State.setChan_mgmtLast (s : State) (c : Nat) (x : Chan) : (s.setChan c x).mgmtLast = s.mgmtLast := rfl
@[simp] theorem State.setChan_mgmtPend (s : State) (c : Nat) (x : Chan) : (s.setChan c x).mgmtPend = s.mgmtPend := rfl
@[simp] theorem State.setChan_mgmtBusy (s : State) (c : Nat) (x : Chan) : (s.setChan c x).mgmtBusy = s.mgmtBusy := rfl
@[simp] theorem State.setChan_mgmtEarly (s : State) (c : Nat) (x : Chan) : (s.setChan c x).mgmtEarly = s.mgmtEarly := rfl
@[simp] theorem State.setChan_schedMirror (s : State) (c : Nat) (x : Chan) : (s.setChan c x).schedMirror = s.schedMirror := rfl
@[simp] theorem State.setChan_arbMirror (s : State) (c : Nat) (x : Chan) : (s.setChan c x).arbMirror = s.arbMirror := rfl
@[simp] theorem State.setChan_grantAt (s : State) (c : Nat) (x : Chan) : (s.setChan c x).grantAt = s.grantAt := rfl
@[simp] theorem State.setChan_engines (s : State) (c : Nat) (x : Chan) : (s.setChan c x).engines = s.engines := rfl

/-! ### `State.setCtx` changes `ctxs` only -/

@[simp] theorem State.setCtx_now (s : State) (a : Nat) (x : Ctx) : (s.setCtx a x).now = s.now := rfl
@[simp] theorem State.setCtx_rows (s : State) (a : Nat) (x : Ctx) : (s.setCtx a x).rows = s.rows := rfl
@[simp] theorem State.setCtx_tick (s : State) (a : Nat) (x : Ctx) : (s.setCtx a x).tick = s.tick := rfl
@[simp] theorem State.setCtx_agenda (s : State) (a : Nat) (x : Ctx) : (s.setCtx a x).agenda = s.agenda := rfl
@[simp] theorem State.setCtx_cur (s : State) (a : Nat) (x : Ctx) : (s.setCtx a x).cur = s.cur := rfl
@[simp] theorem State.setCtx_walkBad (s : State) (a : Nat) (x : Ctx) : (s.setCtx a x).walkBad = s.walkBad := rfl
@[simp] theorem State.setCtx_flaw (s : State) (a : Nat) (x : Ctx) : (s.setCtx a x).flaw = s.flaw := rfl
@[simp] theorem State.setCtx_flawed (s : State) (a : Nat) (x : Ctx) : (s.setCtx a x).flawed = s.flawed := rfl
@[simp] theorem State.setCtx_pins (s : State) (a : Nat) (x : Ctx) : (s.setCtx a x).pins = s.pins := rfl
@[simp] theorem State.setCtx_recq (s : State) (a : Nat) (x : Ctx) : (s.setCtx a x).recq = s.recq := rfl
@[simp] theorem State.setCtx_heldBack (s : State) (a : Nat) (x : Ctx) : (s.setCtx a x).heldBack = s.heldBack := rfl
@[simp] theorem State.setCtx_acks (s : State) (a : Nat) (x : Ctx) : (s.setCtx a x).acks = s.acks := rfl
@[simp] theorem State.setCtx_naks (s : State) (a : Nat) (x : Ctx) : (s.setCtx a x).naks = s.naks := rfl
@[simp] theorem State.setCtx_freed (s : State) (a : Nat) (x : Ctx) : (s.setCtx a x).freed = s.freed := rfl
@[simp] theorem State.setCtx_nextId (s : State) (a : Nat) (x : Ctx) : (s.setCtx a x).nextId = s.nextId := rfl
@[simp] theorem State.setCtx_waves (s : State) (a : Nat) (x : Ctx) : (s.setCtx a x).waves = s.waves := rfl
@[simp] theorem State.setCtx_blocks (s : State) (a : Nat) (x : Ctx) : (s.setCtx a x).blocks = s.blocks := rfl
@[simp] theorem State.setCtx_kerns (s : State) (a : Nat) (x : Ctx) : (s.setCtx a x).kerns = s.kerns := rfl
@[simp] theorem State.setCtx_queues (s : State) (a : Nat) (x : Ctx) : (s.setCtx a x).queues = s.queues := rfl
@[simp] theorem State.setCtx_cores (s : State) (a : Nat) (x : Ctx) : (s.setCtx a x).cores = s.cores := rfl
@[simp] theorem State.setCtx_dies (s : State) (a : Nat) (x : Ctx) : (s.setCtx a x).dies = s.dies := rfl
@[simp] theorem State.setCtx_disps (s : State) (a : Nat) (x : Ctx) : (s.setCtx a x).disps = s.disps := rfl
@[simp] theorem State.setCtx_ops (s : State) (a : Nat) (x : Ctx) : (s.setCtx a x).ops = s.ops := rfl
@[simp] theorem State.setCtx_copies (s : State) (a : Nat) (x : Ctx) : (s.setCtx a x).copies = s.copies := rfl
@[simp] theorem State.setCtx_mxs (s : State) (a : Nat) (x : Ctx) : (s.setCtx a x).mxs = s.mxs := rfl
@[simp] theorem State.setCtx_twins (s : State) (a : Nat) (x : Ctx) : (s.setCtx a x).twins = s.twins := rfl
@[simp] theorem State.setCtx_recs (s : State) (a : Nat) (x : Ctx) : (s.setCtx a x).recs = s.recs := rfl
@[simp] theorem State.setCtx_sluiceRr (s : State) (a : Nat) (x : Ctx) : (s.setCtx a x).sluiceRr = s.sluiceRr := rfl
@[simp] theorem State.setCtx_msgs (s : State) (a : Nat) (x : Ctx) : (s.setCtx a x).msgs = s.msgs := rfl
@[simp] theorem State.setCtx_watches (s : State) (a : Nat) (x : Ctx) : (s.setCtx a x).watches = s.watches := rfl
@[simp] theorem State.setCtx_slines (s : State) (a : Nat) (x : Ctx) : (s.setCtx a x).slines = s.slines := rfl
@[simp] theorem State.setCtx_hbm (s : State) (a : Nat) (x : Ctx) : (s.setCtx a x).hbm = s.hbm := rfl
@[simp] theorem State.setCtx_hpsn (s : State) (a : Nat) (x : Ctx) : (s.setCtx a x).hpsn = s.hpsn := rfl
@[simp] theorem State.setCtx_chans (s : State) (a : Nat) (x : Ctx) : (s.setCtx a x).chans = s.chans := rfl
@[simp] theorem State.setCtx_links (s : State) (a : Nat) (x : Ctx) : (s.setCtx a x).links = s.links := rfl
@[simp] theorem State.setCtx_ports (s : State) (a : Nat) (x : Ctx) : (s.setCtx a x).ports = s.ports := rfl
@[simp] theorem State.setCtx_secured (s : State) (a : Nat) (x : Ctx) : (s.setCtx a x).secured = s.secured := rfl
@[simp] theorem State.setCtx_frames (s : State) (a : Nat) (x : Ctx) : (s.setCtx a x).frames = s.frames := rfl
@[simp] theorem State.setCtx_conns (s : State) (a : Nat) (x : Ctx) : (s.setCtx a x).conns = s.conns := rfl
@[simp] theorem State.setCtx_selRr (s : State) (a : Nat) (x : Ctx) : (s.setCtx a x).selRr = s.selRr := rfl
@[simp] theorem State.setCtx_outRr (s : State) (a : Nat) (x : Ctx) : (s.setCtx a x).outRr = s.outRr := rfl
@[simp] theorem State.setCtx_gen (s : State) (a : Nat) (x : Ctx) : (s.setCtx a x).gen = s.gen := rfl
@[simp] theorem State.setCtx_capMhz (s : State) (a : Nat) (x : Ctx) : (s.setCtx a x).capMhz = s.capMhz := rfl
@[simp] theorem State.setCtx_capPending (s : State) (a : Nat) (x : Ctx) : (s.setCtx a x).capPending = s.capPending := rfl
@[simp] theorem State.setCtx_capSentAt (s : State) (a : Nat) (x : Ctx) : (s.setCtx a x).capSentAt = s.capSentAt := rfl
@[simp] theorem State.setCtx_capAt (s : State) (a : Nat) (x : Ctx) : (s.setCtx a x).capAt = s.capAt := rfl
@[simp] theorem State.setCtx_clkAt (s : State) (a : Nat) (x : Ctx) : (s.setCtx a x).clkAt = s.clkAt := rfl
@[simp] theorem State.setCtx_doneSeq (s : State) (a : Nat) (x : Ctx) : (s.setCtx a x).doneSeq = s.doneSeq := rfl
@[simp] theorem State.setCtx_mgmtResult (s : State) (a : Nat) (x : Ctx) : (s.setCtx a x).mgmtResult = s.mgmtResult := rfl
@[simp] theorem State.setCtx_mgmtLast (s : State) (a : Nat) (x : Ctx) : (s.setCtx a x).mgmtLast = s.mgmtLast := rfl
@[simp] theorem State.setCtx_mgmtPend (s : State) (a : Nat) (x : Ctx) : (s.setCtx a x).mgmtPend = s.mgmtPend := rfl
@[simp] theorem State.setCtx_mgmtBusy (s : State) (a : Nat) (x : Ctx) : (s.setCtx a x).mgmtBusy = s.mgmtBusy := rfl
@[simp] theorem State.setCtx_mgmtEarly (s : State) (a : Nat) (x : Ctx) : (s.setCtx a x).mgmtEarly = s.mgmtEarly := rfl
@[simp] theorem State.setCtx_schedMirror (s : State) (a : Nat) (x : Ctx) : (s.setCtx a x).schedMirror = s.schedMirror := rfl
@[simp] theorem State.setCtx_arbMirror (s : State) (a : Nat) (x : Ctx) : (s.setCtx a x).arbMirror = s.arbMirror := rfl
@[simp] theorem State.setCtx_grantAt (s : State) (a : Nat) (x : Ctx) : (s.setCtx a x).grantAt = s.grantAt := rfl
@[simp] theorem State.setCtx_engines (s : State) (a : Nat) (x : Ctx) : (s.setCtx a x).engines = s.engines := rfl

/-! ### `State.setDie` changes `dies` only -/

@[simp] theorem State.setDie_now (s : State) (n : Nat) (x : Chiplet) : (s.setDie n x).now = s.now := rfl
@[simp] theorem State.setDie_rows (s : State) (n : Nat) (x : Chiplet) : (s.setDie n x).rows = s.rows := rfl
@[simp] theorem State.setDie_tick (s : State) (n : Nat) (x : Chiplet) : (s.setDie n x).tick = s.tick := rfl
@[simp] theorem State.setDie_agenda (s : State) (n : Nat) (x : Chiplet) : (s.setDie n x).agenda = s.agenda := rfl
@[simp] theorem State.setDie_cur (s : State) (n : Nat) (x : Chiplet) : (s.setDie n x).cur = s.cur := rfl
@[simp] theorem State.setDie_walkBad (s : State) (n : Nat) (x : Chiplet) : (s.setDie n x).walkBad = s.walkBad := rfl
@[simp] theorem State.setDie_flaw (s : State) (n : Nat) (x : Chiplet) : (s.setDie n x).flaw = s.flaw := rfl
@[simp] theorem State.setDie_flawed (s : State) (n : Nat) (x : Chiplet) : (s.setDie n x).flawed = s.flawed := rfl
@[simp] theorem State.setDie_pins (s : State) (n : Nat) (x : Chiplet) : (s.setDie n x).pins = s.pins := rfl
@[simp] theorem State.setDie_recq (s : State) (n : Nat) (x : Chiplet) : (s.setDie n x).recq = s.recq := rfl
@[simp] theorem State.setDie_heldBack (s : State) (n : Nat) (x : Chiplet) : (s.setDie n x).heldBack = s.heldBack := rfl
@[simp] theorem State.setDie_acks (s : State) (n : Nat) (x : Chiplet) : (s.setDie n x).acks = s.acks := rfl
@[simp] theorem State.setDie_naks (s : State) (n : Nat) (x : Chiplet) : (s.setDie n x).naks = s.naks := rfl
@[simp] theorem State.setDie_freed (s : State) (n : Nat) (x : Chiplet) : (s.setDie n x).freed = s.freed := rfl
@[simp] theorem State.setDie_nextId (s : State) (n : Nat) (x : Chiplet) : (s.setDie n x).nextId = s.nextId := rfl
@[simp] theorem State.setDie_waves (s : State) (n : Nat) (x : Chiplet) : (s.setDie n x).waves = s.waves := rfl
@[simp] theorem State.setDie_blocks (s : State) (n : Nat) (x : Chiplet) : (s.setDie n x).blocks = s.blocks := rfl
@[simp] theorem State.setDie_kerns (s : State) (n : Nat) (x : Chiplet) : (s.setDie n x).kerns = s.kerns := rfl
@[simp] theorem State.setDie_queues (s : State) (n : Nat) (x : Chiplet) : (s.setDie n x).queues = s.queues := rfl
@[simp] theorem State.setDie_ctxs (s : State) (n : Nat) (x : Chiplet) : (s.setDie n x).ctxs = s.ctxs := rfl
@[simp] theorem State.setDie_cores (s : State) (n : Nat) (x : Chiplet) : (s.setDie n x).cores = s.cores := rfl
@[simp] theorem State.setDie_disps (s : State) (n : Nat) (x : Chiplet) : (s.setDie n x).disps = s.disps := rfl
@[simp] theorem State.setDie_ops (s : State) (n : Nat) (x : Chiplet) : (s.setDie n x).ops = s.ops := rfl
@[simp] theorem State.setDie_copies (s : State) (n : Nat) (x : Chiplet) : (s.setDie n x).copies = s.copies := rfl
@[simp] theorem State.setDie_mxs (s : State) (n : Nat) (x : Chiplet) : (s.setDie n x).mxs = s.mxs := rfl
@[simp] theorem State.setDie_twins (s : State) (n : Nat) (x : Chiplet) : (s.setDie n x).twins = s.twins := rfl
@[simp] theorem State.setDie_recs (s : State) (n : Nat) (x : Chiplet) : (s.setDie n x).recs = s.recs := rfl
@[simp] theorem State.setDie_sluiceRr (s : State) (n : Nat) (x : Chiplet) : (s.setDie n x).sluiceRr = s.sluiceRr := rfl
@[simp] theorem State.setDie_msgs (s : State) (n : Nat) (x : Chiplet) : (s.setDie n x).msgs = s.msgs := rfl
@[simp] theorem State.setDie_watches (s : State) (n : Nat) (x : Chiplet) : (s.setDie n x).watches = s.watches := rfl
@[simp] theorem State.setDie_slines (s : State) (n : Nat) (x : Chiplet) : (s.setDie n x).slines = s.slines := rfl
@[simp] theorem State.setDie_hbm (s : State) (n : Nat) (x : Chiplet) : (s.setDie n x).hbm = s.hbm := rfl
@[simp] theorem State.setDie_hpsn (s : State) (n : Nat) (x : Chiplet) : (s.setDie n x).hpsn = s.hpsn := rfl
@[simp] theorem State.setDie_chans (s : State) (n : Nat) (x : Chiplet) : (s.setDie n x).chans = s.chans := rfl
@[simp] theorem State.setDie_links (s : State) (n : Nat) (x : Chiplet) : (s.setDie n x).links = s.links := rfl
@[simp] theorem State.setDie_ports (s : State) (n : Nat) (x : Chiplet) : (s.setDie n x).ports = s.ports := rfl
@[simp] theorem State.setDie_secured (s : State) (n : Nat) (x : Chiplet) : (s.setDie n x).secured = s.secured := rfl
@[simp] theorem State.setDie_frames (s : State) (n : Nat) (x : Chiplet) : (s.setDie n x).frames = s.frames := rfl
@[simp] theorem State.setDie_conns (s : State) (n : Nat) (x : Chiplet) : (s.setDie n x).conns = s.conns := rfl
@[simp] theorem State.setDie_selRr (s : State) (n : Nat) (x : Chiplet) : (s.setDie n x).selRr = s.selRr := rfl
@[simp] theorem State.setDie_outRr (s : State) (n : Nat) (x : Chiplet) : (s.setDie n x).outRr = s.outRr := rfl
@[simp] theorem State.setDie_gen (s : State) (n : Nat) (x : Chiplet) : (s.setDie n x).gen = s.gen := rfl
@[simp] theorem State.setDie_capMhz (s : State) (n : Nat) (x : Chiplet) : (s.setDie n x).capMhz = s.capMhz := rfl
@[simp] theorem State.setDie_capPending (s : State) (n : Nat) (x : Chiplet) : (s.setDie n x).capPending = s.capPending := rfl
@[simp] theorem State.setDie_capSentAt (s : State) (n : Nat) (x : Chiplet) : (s.setDie n x).capSentAt = s.capSentAt := rfl
@[simp] theorem State.setDie_capAt (s : State) (n : Nat) (x : Chiplet) : (s.setDie n x).capAt = s.capAt := rfl
@[simp] theorem State.setDie_clkAt (s : State) (n : Nat) (x : Chiplet) : (s.setDie n x).clkAt = s.clkAt := rfl
@[simp] theorem State.setDie_doneSeq (s : State) (n : Nat) (x : Chiplet) : (s.setDie n x).doneSeq = s.doneSeq := rfl
@[simp] theorem State.setDie_mgmtResult (s : State) (n : Nat) (x : Chiplet) : (s.setDie n x).mgmtResult = s.mgmtResult := rfl
@[simp] theorem State.setDie_mgmtLast (s : State) (n : Nat) (x : Chiplet) : (s.setDie n x).mgmtLast = s.mgmtLast := rfl
@[simp] theorem State.setDie_mgmtPend (s : State) (n : Nat) (x : Chiplet) : (s.setDie n x).mgmtPend = s.mgmtPend := rfl
@[simp] theorem State.setDie_mgmtBusy (s : State) (n : Nat) (x : Chiplet) : (s.setDie n x).mgmtBusy = s.mgmtBusy := rfl
@[simp] theorem State.setDie_mgmtEarly (s : State) (n : Nat) (x : Chiplet) : (s.setDie n x).mgmtEarly = s.mgmtEarly := rfl
@[simp] theorem State.setDie_schedMirror (s : State) (n : Nat) (x : Chiplet) : (s.setDie n x).schedMirror = s.schedMirror := rfl
@[simp] theorem State.setDie_arbMirror (s : State) (n : Nat) (x : Chiplet) : (s.setDie n x).arbMirror = s.arbMirror := rfl
@[simp] theorem State.setDie_grantAt (s : State) (n : Nat) (x : Chiplet) : (s.setDie n x).grantAt = s.grantAt := rfl
@[simp] theorem State.setDie_engines (s : State) (n : Nat) (x : Chiplet) : (s.setDie n x).engines = s.engines := rfl

/-! ### `State.newOp` adds an operation and takes a name -/

@[simp] theorem State.newOp_now (s : State) (o : Op) : (s.newOp o).now = s.now := rfl
@[simp] theorem State.newOp_rows (s : State) (o : Op) : (s.newOp o).rows = s.rows := rfl
@[simp] theorem State.newOp_tick (s : State) (o : Op) : (s.newOp o).tick = s.tick := rfl
@[simp] theorem State.newOp_agenda (s : State) (o : Op) : (s.newOp o).agenda = s.agenda := rfl
@[simp] theorem State.newOp_cur (s : State) (o : Op) : (s.newOp o).cur = s.cur := rfl
@[simp] theorem State.newOp_walkBad (s : State) (o : Op) : (s.newOp o).walkBad = s.walkBad := rfl
@[simp] theorem State.newOp_flaw (s : State) (o : Op) : (s.newOp o).flaw = s.flaw := rfl
@[simp] theorem State.newOp_flawed (s : State) (o : Op) : (s.newOp o).flawed = s.flawed := rfl
@[simp] theorem State.newOp_pins (s : State) (o : Op) : (s.newOp o).pins = s.pins := rfl
@[simp] theorem State.newOp_recq (s : State) (o : Op) : (s.newOp o).recq = s.recq := rfl
@[simp] theorem State.newOp_heldBack (s : State) (o : Op) : (s.newOp o).heldBack = s.heldBack := rfl
@[simp] theorem State.newOp_acks (s : State) (o : Op) : (s.newOp o).acks = s.acks := rfl
@[simp] theorem State.newOp_naks (s : State) (o : Op) : (s.newOp o).naks = s.naks := rfl
@[simp] theorem State.newOp_freed (s : State) (o : Op) : (s.newOp o).freed = s.freed := rfl
@[simp] theorem State.newOp_nextId (s : State) (o : Op) : (s.newOp o).nextId = s.nextId + 1 := rfl
@[simp] theorem State.newOp_waves (s : State) (o : Op) : (s.newOp o).waves = s.waves := rfl
@[simp] theorem State.newOp_blocks (s : State) (o : Op) : (s.newOp o).blocks = s.blocks := rfl
@[simp] theorem State.newOp_kerns (s : State) (o : Op) : (s.newOp o).kerns = s.kerns := rfl
@[simp] theorem State.newOp_queues (s : State) (o : Op) : (s.newOp o).queues = s.queues := rfl
@[simp] theorem State.newOp_ctxs (s : State) (o : Op) : (s.newOp o).ctxs = s.ctxs := rfl
@[simp] theorem State.newOp_cores (s : State) (o : Op) : (s.newOp o).cores = s.cores := rfl
@[simp] theorem State.newOp_dies (s : State) (o : Op) : (s.newOp o).dies = s.dies := rfl
@[simp] theorem State.newOp_disps (s : State) (o : Op) : (s.newOp o).disps = s.disps := rfl
@[simp] theorem State.newOp_ops (s : State) (o : Op) : (s.newOp o).ops = s.ops ++ [(s.nextId, { o with blk := blockOfWave s o.w })] := rfl
@[simp] theorem State.newOp_copies (s : State) (o : Op) : (s.newOp o).copies = s.copies := rfl
@[simp] theorem State.newOp_mxs (s : State) (o : Op) : (s.newOp o).mxs = s.mxs := rfl
@[simp] theorem State.newOp_twins (s : State) (o : Op) : (s.newOp o).twins = s.twins := rfl
@[simp] theorem State.newOp_recs (s : State) (o : Op) : (s.newOp o).recs = s.recs := rfl
@[simp] theorem State.newOp_sluiceRr (s : State) (o : Op) : (s.newOp o).sluiceRr = s.sluiceRr := rfl
@[simp] theorem State.newOp_msgs (s : State) (o : Op) : (s.newOp o).msgs = s.msgs := rfl
@[simp] theorem State.newOp_watches (s : State) (o : Op) : (s.newOp o).watches = s.watches := rfl
@[simp] theorem State.newOp_slines (s : State) (o : Op) : (s.newOp o).slines = s.slines := rfl
@[simp] theorem State.newOp_hbm (s : State) (o : Op) : (s.newOp o).hbm = s.hbm := rfl
@[simp] theorem State.newOp_hpsn (s : State) (o : Op) : (s.newOp o).hpsn = s.hpsn := rfl
@[simp] theorem State.newOp_chans (s : State) (o : Op) : (s.newOp o).chans = s.chans := rfl
@[simp] theorem State.newOp_links (s : State) (o : Op) : (s.newOp o).links = s.links := rfl
@[simp] theorem State.newOp_ports (s : State) (o : Op) : (s.newOp o).ports = s.ports := rfl
@[simp] theorem State.newOp_secured (s : State) (o : Op) : (s.newOp o).secured = s.secured := rfl
@[simp] theorem State.newOp_frames (s : State) (o : Op) : (s.newOp o).frames = s.frames := rfl
@[simp] theorem State.newOp_conns (s : State) (o : Op) : (s.newOp o).conns = s.conns := rfl
@[simp] theorem State.newOp_selRr (s : State) (o : Op) : (s.newOp o).selRr = s.selRr := rfl
@[simp] theorem State.newOp_outRr (s : State) (o : Op) : (s.newOp o).outRr = s.outRr := rfl
@[simp] theorem State.newOp_gen (s : State) (o : Op) : (s.newOp o).gen = s.gen := rfl
@[simp] theorem State.newOp_capMhz (s : State) (o : Op) : (s.newOp o).capMhz = s.capMhz := rfl
@[simp] theorem State.newOp_capPending (s : State) (o : Op) : (s.newOp o).capPending = s.capPending := rfl
@[simp] theorem State.newOp_capSentAt (s : State) (o : Op) : (s.newOp o).capSentAt = s.capSentAt := rfl
@[simp] theorem State.newOp_capAt (s : State) (o : Op) : (s.newOp o).capAt = s.capAt := rfl
@[simp] theorem State.newOp_clkAt (s : State) (o : Op) : (s.newOp o).clkAt = s.clkAt := rfl
@[simp] theorem State.newOp_doneSeq (s : State) (o : Op) : (s.newOp o).doneSeq = s.doneSeq := rfl
@[simp] theorem State.newOp_mgmtResult (s : State) (o : Op) : (s.newOp o).mgmtResult = s.mgmtResult := rfl
@[simp] theorem State.newOp_mgmtLast (s : State) (o : Op) : (s.newOp o).mgmtLast = s.mgmtLast := rfl
@[simp] theorem State.newOp_mgmtPend (s : State) (o : Op) : (s.newOp o).mgmtPend = s.mgmtPend := rfl
@[simp] theorem State.newOp_mgmtBusy (s : State) (o : Op) : (s.newOp o).mgmtBusy = s.mgmtBusy := rfl
@[simp] theorem State.newOp_mgmtEarly (s : State) (o : Op) : (s.newOp o).mgmtEarly = s.mgmtEarly := rfl
@[simp] theorem State.newOp_schedMirror (s : State) (o : Op) : (s.newOp o).schedMirror = s.schedMirror := rfl
@[simp] theorem State.newOp_arbMirror (s : State) (o : Op) : (s.newOp o).arbMirror = s.arbMirror := rfl
@[simp] theorem State.newOp_grantAt (s : State) (o : Op) : (s.newOp o).grantAt = s.grantAt := rfl
@[simp] theorem State.newOp_engines (s : State) (o : Op) : (s.newOp o).engines = s.engines := rfl

/-! ### The field that each update changes -/

theorem State.setCore_cores (s : State) (d c : Nat) (x : Core) : (s.setCore d c x).cores = tset s.cores (d, c) x := rfl
theorem State.setWave_waves (s : State) (r : WaveRef) (w : Wave) : (s.setWave r w).waves = tset s.waves r w := rfl
theorem State.updWave_waves (s : State) (r : WaveRef) (f : Wave → Wave) : (s.updWave r f).waves = tupd s.waves r f := rfl
theorem State.setQueue_queues (s : State) (q : Nat) (x : Queue) : (s.setQueue q x).queues = tset s.queues q x := rfl
theorem State.updKern_kerns (s : State) (k : Nat) (f : Kern → Kern) : (s.updKern k f).kerns = tupd s.kerns k f := rfl
theorem State.updOp_ops (s : State) (o : Nat) (f : Op → Op) : (s.updOp o f).ops = tupd s.ops o f := rfl
theorem State.setChan_chans (s : State) (c : Nat) (x : Chan) : (s.setChan c x).chans = tset s.chans c x := rfl
theorem State.setCtx_ctxs (s : State) (a : Nat) (x : Ctx) : (s.setCtx a x).ctxs = tset s.ctxs a x := rfl
theorem State.setDie_dies (s : State) (n : Nat) (x : Chiplet) : (s.setDie n x).dies = tset s.dies n x := rfl

end Sys2Proof.Machine
end

