-- ==== Sys2Proof/Laws/Tables.lean ====
section
/-! SUPPORT. Reading a table after one of its updates. -/

namespace Sys2Proof

section
variable {κ β : Type} [DecidableEq κ]

theorem tget_eq_tfind (d : β) (m : List (κ × β)) (k : κ) : tget d m k = (tfind m k).getD d := by
  induction m with
  | nil => rfl
  | cons e t ih =>
    simp only [tget, tfind]
    split <;> simp_all

theorem tfind_tset_same (m : List (κ × β)) (k : κ) (v : β) : tfind (tset m k v) k = some v := by
  induction m with
  | nil => simp [tset, tfind]
  | cons e t ih =>
    simp only [tset]
    split <;> simp_all [tfind]

theorem tfind_tset_other (m : List (κ × β)) {k j : κ} (v : β) (h : j ≠ k) : tfind (tset m k v) j = tfind m j := by
  induction m with
  | nil => simp [tset, tfind, h.symm]
  | cons e t ih =>
    simp only [tset]
    split
    · rename_i he
      simp [tfind, he, h.symm]
    · simp [tfind, ih]

theorem tset_tset (m : List (κ × β)) (k : κ) (v w : β) : tset (tset m k v) k w = tset m k w := by
  induction m with
  | nil => simp [tset]
  | cons e t ih =>
    simp only [tset]
    split <;> simp_all [tset]

theorem tget_tset_same (d : β) (m : List (κ × β)) (k : κ) (v : β) : tget d (tset m k v) k = v := by
  simp [tget_eq_tfind, tfind_tset_same]

theorem tget_tset_other (d : β) (m : List (κ × β)) {k j : κ} (v : β) (h : j ≠ k) :
    tget d (tset m k v) j = tget d m j := by
  simp [tget_eq_tfind, tfind_tset_other _ _ h]

theorem tfind_tupd_same (m : List (κ × β)) (k : κ) (f : β → β) : tfind (tupd m k f) k = (tfind m k).map f := by
  unfold tupd
  split
  · rename_i v hv
    rw [tfind_tset_same, hv]
    rfl
  · rename_i hv
    rw [hv]
    rfl

theorem tfind_tupd_other (m : List (κ × β)) {k j : κ} (f : β → β) (h : j ≠ k) : tfind (tupd m k f) j = tfind m j := by
  unfold tupd
  split
  · rw [tfind_tset_other _ _ h]
  · rfl

theorem tfind_append_absent (m t : List (κ × β)) (k : κ) (h : tfind m k = none) : tfind (m ++ t) k = tfind t k := by
  induction m with
  | nil => rfl
  | cons e m ih =>
    simp only [tfind] at h
    split at h
    · cases h
    · rename_i he
      simp [tfind, he, ih h]

theorem tfind_append_present (m t : List (κ × β)) (k : κ) {v : β} (h : tfind m k = some v) : tfind (m ++ t) k = some v := by
  induction m with
  | nil => cases h
  | cons e m ih =>
    simp only [tfind, List.cons_append] at h ⊢
    split
    · simp_all
    · simp_all
end

end Sys2Proof
end

