-- ==== Sys2Proof/Laws/Issue.lean ====
section
/-! SUPPORT. Reads of memory do not look at waves and operations in flight, nor at anything of a core but its bytes. -/

namespace Sys2Proof.Machine

open Sys2Proof.Spec

/-! ### Waves and cores of a state -/

theorem wave_setWave_same (s : State) (r : WaveRef) (w : Wave) : (s.setWave r w).wave r = some w := tfind_tset_same _ _ _
theorem wave_setWave_other (s : State) {r q : WaveRef} (w : Wave) (h : q ≠ r) : (s.setWave r w).wave q = s.wave q :=
  tfind_tset_other _ _ h
theorem wave_updWave_same (s : State) (r : WaveRef) (f : Wave → Wave) : (s.updWave r f).wave r = (s.wave r).map f :=
  tfind_tupd_same _ _ _
theorem wave_updWave_other (s : State) {r q : WaveRef} (f : Wave → Wave) (h : q ≠ r) : (s.updWave r f).wave q = s.wave q :=
  tfind_tupd_other _ _ h
theorem core_setCore_same (s : State) (d c : Nat) (x : Core) : (s.setCore d c x).core d c = x := tget_tset_same _ _ _ _
theorem core_setCore_other (s : State) {d c e b : Nat} (x : Core) (h : (e, b) ≠ (d, c)) :
    (s.setCore d c x).core e b = s.core e b := tget_tset_other _ _ _ h

/-! ### Replacing waves, cores and operations -/

/-- s with its waves, cores, operations and next name replaced. -/
def State.re (s : State) (ws : List (WaveRef × Wave)) (cs : List ((Nat × Nat) × Core)) (os : List (Nat × Op)) (n : Nat) : State :=
  { s with waves := ws, cores := cs, ops := os, nextId := n }

section
variable (s : State) (ws : List (WaveRef × Wave)) (cs : List ((Nat × Nat) × Core)) (os : List (Nat × Op)) (n : Nat)

@[simp] theorem re_chan (c : Nat) : (s.re ws cs os n).chan c = s.chan c := rfl
@[simp] theorem re_die (c : Nat) : (s.re ws cs os n).die c = s.die c := rfl
@[simp] theorem re_ctx (c : Nat) : (s.re ws cs os n).ctx c = s.ctx c := rfl
@[simp] theorem re_pins : (s.re ws cs os n).pins = s.pins := rfl
@[simp] theorem re_flaw : (s.re ws cs os n).flaw = s.flaw := rfl
@[simp] theorem re_slines : (s.re ws cs os n).slines = s.slines := rfl
@[simp] theorem re_chans : (s.re ws cs os n).chans = s.chans := rfl
@[simp] theorem re_stripe (a i : Nat) : (s.re ws cs os n).stripe a i = s.stripe a i := rfl
@[simp] theorem re_oldHomes : (s.re ws cs os n).oldHomes = s.oldHomes := rfl
@[simp] theorem re_setChan (c : Nat) (x : Chan) : (s.re ws cs os n).setChan c x = (s.setChan c x).re ws cs os n := rfl
@[simp] theorem re_windowLine (c o : Nat) : (s.re ws cs os n).windowLine c o = s.windowLine c o := rfl
@[simp] theorem re_windowPoison (c o : Nat) : (s.re ws cs os n).windowPoison c o = s.windowPoison c o := rfl
@[simp] theorem re_readBack (a l c o : Nat) (k : Bool) : readBack (s.re ws cs os n) a l c o k = readBack s a l c o k := rfl
@[simp] theorem re_shown (a c o : Nat) (k : AccK) (l : SLine) : shown (s.re ws cs os n) a c o k l = shown s a c o k l := rfl
@[simp] theorem re_transBad (t : Trans) : transBad (s.re ws cs os n) t = transBad s t := rfl
@[simp] theorem re_lineOfTrans (t : Trans) (c l : Nat) : lineOfTrans (s.re ws cs os n) t c l = lineOfTrans s t c l := rfl
theorem re_withSlines (x : List ((Nat × Nat) × SLine)) : { s.re ws cs os n with slines := x } = { s with slines := x }.re ws cs os n := rfl

@[simp] theorem re_home (a v : Nat) : (s.re ws cs os n).home a v = s.home a v := rfl
@[simp] theorem re_pick {α : Type} [DecidableEq α] (k : Nat) (d : α) (l : List α) : pick (s.re ws cs os n) k d l = pick s k d l := by
  cases l <;> rfl
@[simp] theorem re_inTransit (a v : Nat) : (s.re ws cs os n).inTransit a v = s.inTransit a v := rfl

/-! A function of the state that leaves these fields alone commutes with their replacement. -/

theorem re_foldl {α : Type} (f : State → α → State) (h : ∀ t a, f (t.re ws cs os n) a = (f t a).re ws cs os n) (l : List α) :
    l.foldl f (s.re ws cs os n) = (l.foldl f s).re ws cs os n := by
  induction l generalizing s with
  | nil => rfl
  | cons a l ih => rw [List.foldl_cons, h, ih]; rfl
theorem re_flushImage (ch : Nat) (t : State) (r : RowImage) : flushImage ch (t.re ws cs os n) r = (flushImage ch t r).re ws cs os n := by
  unfold flushImage; split <;> rfl
theorem re_flushCheck (ch : Nat) (t : State) (r : CheckLine) : flushCheck ch (t.re ws cs os n) r = (flushCheck ch t r).re ws cs os n := by
  unfold flushCheck; split <;> rfl
@[simp] theorem re_touchRow (ch off : Nat) (d : Option (List Byte)) (m : Option (Option Nat)) :
    touchRow (s.re ws cs os n) ch off d m = (touchRow s ch off d m).re ws cs os n := by
  simp only [touchRow, re_chan]
  rw [re_foldl _ _ _ _ _ _ (re_flushImage ws cs os n ch), re_foldl _ _ _ _ _ _ (re_flushCheck ws cs os n ch)]
  rfl
theorem re_ite (p : Bool) (x y : State) : (if p = true then x.re ws cs os n else y.re ws cs os n) = (if p = true then x else y).re ws cs os n := by
  cases p <;> rfl
theorem re_dite (p : Prop) [Decidable p] (x y : State) : (if p then x.re ws cs os n else y.re ws cs os n) = (if p then x else y).re ws cs os n := by
  split <;> rfl
theorem re_ite2 {β : Type} (p : Prop) [Decidable p] (x y : State) (b c : β) :
    (if p then (x.re ws cs os n, b) else (y.re ws cs os n, c)) = ((if p then (x, b) else (y, c)).1.re ws cs os n, (if p then (x, b) else (y, c)).2) := by
  split <;> rfl
theorem re_foldl2 {α β : Type} (f : State × β → α → State × β)
    (h : ∀ t b a, f (t.re ws cs os n, b) a = ((f (t, b) a).1.re ws cs os n, (f (t, b) a).2)) (l : List α) (b : β) :
    l.foldl f (s.re ws cs os n, b) = ((l.foldl f (s, b)).1.re ws cs os n, (l.foldl f (s, b)).2) := by
  induction l generalizing s b with
  | nil => rfl
  | cons a l ih => rw [List.foldl_cons, h, ih]; rfl
theorem re_writeBack (a l : Nat) (x : SLine) : writeBack (s.re ws cs os n) a l x = (writeBack s a l x).re ws cs os n := by
  simp only [writeBack, re_touchRow, re_ctx]
  split <;> rfl
theorem re_evictLine (a l : Nat) : evictLine (s.re ws cs os n) a l = (evictLine s a l).re ws cs os n := by
  simp only [evictLine, re_slines, re_writeBack]
  split <;> rfl
@[simp] theorem re_sliceHeld (ch : Nat) : sliceHeld (s.re ws cs os n) ch = sliceHeld s ch := rfl
@[simp] theorem re_addLine (a l : Nat) (x : SLine) : addLine (s.re ws cs os n) a l x = (addLine s a l x).re ws cs os n := by
  simp only [addLine, re_slines, re_sliceHeld, re_evictLine, re_pick, re_pins, re_ite]
  rfl
@[simp] theorem re_touchWindow (ch o : Nat) : touchWindow (s.re ws cs os n) ch o = (touchWindow s ch o).re ws cs os n := by
  simp only [touchWindow, re_slines, re_touchRow]
  split <;> rfl
@[simp] theorem re_readBucket (ch o j : Nat) : readBucket (s.re ws cs os n) ch o j = (readBucket s ch o j).re ws cs os n := by
  unfold readBucket
  simp only [re_touchWindow, re_slines, re_flaw]
  by_cases h : (touchWindow s ch o).flaw = 3 + 2 * j
  · rw [if_pos h, if_pos h]; split <;> rfl
  rw [if_neg h, if_neg h]
  by_cases k : (touchWindow s ch o).flaw = 4 + 2 * j
  · rw [if_pos k, if_pos k]; exact re_addLine { touchWindow s ch o with flaw := 0 } ws cs os n _ _ _
  rw [if_neg k, if_neg k]
@[simp] theorem re_walkFrom (ch a v h : Nat) (k : Nat) :
    walkFrom ch a v h k (s.re ws cs os n) = ((walkFrom ch a v h k s).1.re ws cs os n, (walkFrom ch a v h k s).2) := by
  induction k generalizing s with
  | zero => rfl
  | succ k ih =>
    simp only [walkFrom, re_readBucket, re_windowPoison, re_windowLine]
    split
    · exact ih { (readBucket s ch ((h + (3 - k)) % 32768 * 128) (3 - k)) with walkBad := _ }
    · split
      · rfl
      · exact ih _
@[simp] theorem re_walkTrans (ch a v : Nat) :
    walkTrans (s.re ws cs os n) ch a v = ((walkTrans s ch a v).1.re ws cs os n, (walkTrans s ch a v).2) := by
  simp only [walkTrans, walk, re_walkFrom]
@[simp] theorem re_cachedOr (ch a v : Nat) (r : State × Option Trans) :
    cachedOr (s.re ws cs os n) ch a v (r.1.re ws cs os n, r.2) = ((cachedOr s ch a v r).1.re ws cs os n, (cachedOr s ch a v r).2) := by
  simp only [cachedOr, re_chan, re_pick]
  split
  · split <;> rfl
  · rfl
@[simp] theorem re_useTrans (ch : Nat) (r : State × Option Trans) :
    useTrans ch (r.1.re ws cs os n, r.2) = ((useTrans ch r).1.re ws cs os n, (useTrans ch r).2) := by
  rcases r with ⟨t, _ | e⟩ <;> rfl
@[simp] theorem re_translate (ch a v : Nat) :
    translate (s.re ws cs os n) ch a v = ((translate s ch a v).1.re ws cs os n, (translate s ch a v).2) := by
  simp only [translate, re_walkTrans, re_cachedOr, re_useTrans]
@[simp] theorem re_meetFlaw (a l : Nat) (far : Bool) (x : SLine) :
    meetFlaw (s.re ws cs os n) a l far x = ((meetFlaw s a l far x).1.re ws cs os n, (meetFlaw s a l far x).2) := by
  unfold meetFlaw
  by_cases h : s.flaw = 1
  · rw [if_pos h, if_pos (show (s.re ws cs os n).flaw = 1 from h)]; cases far <;> rfl
  rw [if_neg h, if_neg (show ¬ (s.re ws cs os n).flaw = 1 from h)]
  by_cases k : s.flaw = 2
  · rw [if_pos k, if_pos (show (s.re ws cs os n).flaw = 2 from k)]; rfl
  rw [if_neg k, if_neg (show ¬ (s.re ws cs os n).flaw = 2 from k)]
@[simp] theorem re_readHere (a l : Nat) (k : AccK) (x : SLine) :
    readHere (s.re ws cs os n) a l k x = ((readHere s a l k x).1.re ws cs os n, (readHere s a l k x).2) := by
  simp only [readHere, re_meetFlaw, re_shown]
  split <;> rfl
@[simp] theorem re_readFar (a l : Nat) (k : AccK) (x : SLine) :
    readFar (s.re ws cs os n) a l k x = ((readFar s a l k x).1.re ws cs os n, (readFar s a l k x).2) := by
  simp only [readFar, re_touchRow, re_addLine, re_meetFlaw, re_shown]
  split <;> rfl
@[simp] theorem re_arriveAt (a v : Nat) : arriveAt (s.re ws cs os n) a v = (arriveAt s a v).re ws cs os n := by
  unfold arriveAt
  by_cases h : inWindow a v = true
  · rw [if_pos h, if_pos h]
  rw [if_neg h, if_neg h, re_inTransit]
  rcases s.inTransit a (vpnOf v) with _ | ⟨c, t⟩
  · rfl
  · by_cases k : (s.chan c).conflict.length < Config.conflictEntries
    · have e : ((s.re ws cs os n).chan c).conflict.length < Config.conflictEntries := k
      simp only [if_pos k, if_pos e]; rfl
    · have e : ¬ ((s.re ws cs os n).chan c).conflict.length < Config.conflictEntries := k
      simp only [if_neg k, if_neg e]; rfl
@[simp] theorem re_reachTransit (a l : Nat) (k : AccK) (c : Nat) (t : Transit) :
    reachTransit (s.re ws cs os n) a l k c t = ((reachTransit s a l k c t).1.re ws cs os n, (reachTransit s a l k c t).2) := by
  simp only [reachTransit, re_slines, re_readHere, re_readFar, re_transBad, re_lineOfTrans]
  split
  · rfl
  · exact re_ite2 ws cs os n _ s (readFar s a l k _).1 _ (readFar s a l k _).2
theorem re_reachLine (a v : Nat) (k : AccK) :
    reachLine (s.re ws cs os n) a v k = ((reachLine s a v k).1.re ws cs os n, (reachLine s a v k).2) := by
  unfold reachLine
  simp only [re_home, re_inTransit, re_translate, re_slines]
  by_cases h1 : 2 ^ 56 ≤ v
  · rw [if_pos h1, if_pos h1]
  rw [if_neg h1, if_neg h1]
  by_cases h2 : inWindow a v = true
  · rw [if_pos h2, if_pos h2]
    by_cases h3 : (decide (512 ≤ winChan v) || (s.chan (winChan v)).st == .retired || (s.die (cacheDieOf (winChan v))).st != .active) = true
    · rw [if_pos (show ((decide (512 ≤ winChan v) || ((s.re ws cs os n).chan (winChan v)).st == .retired || ((s.re ws cs os n).die (cacheDieOf (winChan v))).st != .active) = true) from h3), if_pos h3]
    rw [if_neg (show ¬ ((decide (512 ≤ winChan v) || ((s.re ws cs os n).chan (winChan v)).st == .retired || ((s.re ws cs os n).die (cacheDieOf (winChan v))).st != .active) = true) from h3), if_neg h3]
    by_cases h4 : Config.chanBytes ≤ winOff v
    · rw [if_pos h4, if_pos h4]
    rw [if_neg h4, if_neg h4]
    by_cases h5 : (k == .fetch || k == .sealK) = true
    · rw [if_pos h5, if_pos h5]
    rw [if_neg h5, if_neg h5]
    cases tfind s.slines (0, lineOf v) <;> simp only [re_readBack, re_readHere, re_readFar]
  rw [if_neg h2, if_neg h2]
  cases s.inTransit a (vpnOf v) with
  | some c => simp only [re_reachTransit]
  | none =>
    dsimp only
    cases s.home a v with
    | none => rfl
    | some ch =>
      dsimp only
      cases tfind s.slines (a, lineOf v) with
      | some l => simp only [re_readHere]
      | none =>
        dsimp only
        rcases translate s ch a (vpnOf v) with ⟨t, _ | x⟩
        · rfl
        · dsimp only
          simp only [re_transBad, re_readFar, re_lineOfTrans]
          by_cases h3 : transBad t x = true
          · rw [if_pos h3, if_pos h3]
          · rw [if_neg h3, if_neg h3]
theorem re_homeLoad (a v m : Nat) (k : AccK) :
    homeLoad (s.re ws cs os n) a v m k = ((homeLoad s a v m k).1.re ws cs os n, (homeLoad s a v m k).2) := by
  simp only [homeLoad, re_arriveAt, re_reachLine]
  rcases reachLine (arriveAt s a v) a v k with ⟨t, l | c⟩ <;> rfl
end

end Sys2Proof.Machine
end

