-- ==== Sys2Proof/Laws/Finish.lean ====
section
/-! SUPPORT. What every issue does around the body of an instruction: the split moves past the word, and what follows the body keeps every
register, every other wave and every byte of memory. -/

namespace Sys2Proof.Machine

open Sys2Proof.Spec

/-! ### OnlyWave is a preorder and follows from what the fields say -/

/-- The operations of a state and those of the exit closes of a wave after them. -/
def ExitsOnly (s t : State) (r : WaveRef) : Prop :=
  ∃ exits : List (Nat × Op), t.ops = s.ops ++ exits ∧ t.nextId = s.nextId + exits.length ∧ ∀ o ∈ exits, o.2.kind = .cmd .exit ∧ o.2.w = r
theorem exitsOnly_same {s t : State} {r : WaveRef} (h : t.ops = s.ops) (k : t.nextId = s.nextId) : ExitsOnly s t r :=
  ⟨[], by simp [h], by simp [k], by simp⟩
theorem exitsOnly_trans {s t u : State} {r : WaveRef} : ExitsOnly s t r → ExitsOnly t u r → ExitsOnly s u r := by
  rintro ⟨a, ha, na, pa⟩ ⟨b, hb, nb, pb⟩
  refine ⟨a ++ b, by rw [hb, ha, List.append_assoc], by rw [nb, na, List.length_append, Nat.add_assoc], fun o ho => ?_⟩
  exact (List.mem_append.1 ho).elim (pa o) (pb o)

theorem onlyWave_of {s t : State} {r : WaveRef} (h : t = s.re t.waves t.cores t.ops t.nextId) (ho : ExitsOnly s t r)
    (hw : ∀ q, q ≠ r → t.wave q = s.wave q) (hc : ∀ d c, t.core d c = { s.core d c with frags := (t.core d c).frags }) :
    OnlyWave s t r := by
  refine ⟨h, ho, hw, hc, fun a v => ?_, fun b cp o => ?_⟩
  · rw [h, re_homeLoad]
  · have e : spadAt t b cp o = spadAt s b cp o := by rw [h]; rfl
    simp only [spadRead, e]
    split
    · rfl
    · rename_i d c x _
      rw [hc d c]; rfl

theorem onlyWave_refl (s : State) (r : WaveRef) : OnlyWave s s r := onlyWave_of rfl (exitsOnly_same rfl rfl) (fun _ _ => rfl) (fun _ _ => rfl)
theorem onlyWave_trans {s t u : State} {r : WaveRef} (h : OnlyWave s t r) (k : OnlyWave t u r) : OnlyWave s u r := by
  refine onlyWave_of ?_ (exitsOnly_trans h.ops k.ops) (fun q hq => (k.waves q hq).trans (h.waves q hq)) (fun d c => ?_)
  · have := k.state; rw [h.state] at this; rw [this]; rfl
  · rw [k.cores d c, h.cores d c]

theorem onlyWave_setWave (s : State) (r : WaveRef) (w : Wave) : OnlyWave s (s.setWave r w) r :=
  onlyWave_of rfl (exitsOnly_same rfl rfl) (fun _ h => wave_setWave_other s w h) (fun _ _ => rfl)
theorem onlyWave_updWave (s : State) (r : WaveRef) (f : Wave → Wave) : OnlyWave s (s.updWave r f) r :=
  onlyWave_of rfl (exitsOnly_same rfl rfl) (fun _ h => wave_updWave_other s f h) (fun _ _ => rfl)
theorem onlyWave_newExit (s : State) (r : WaveRef) (o : Op) (h : o.kind = .cmd .exit) (k : o.w = r) : OnlyWave s (s.newOp o) r :=
  onlyWave_of rfl ⟨[(s.nextId, { o with blk := blockOfWave s o.w })], rfl, rfl, by simp [h, k]⟩ (fun _ _ => rfl) (fun _ _ => rfl)
theorem onlyWave_setFrags (s : State) (r q : WaveRef) (x : List (Nat × Frag)) :
    OnlyWave s (s.setCoreOf q { s.coreOf q with frags := x }) r := by
  refine onlyWave_of rfl (exitsOnly_same rfl rfl) (fun _ _ => rfl) (fun d c => ?_)
  by_cases h : (d, c) = (q.die, q.core)
  · obtain ⟨rfl, rfl⟩ := Prod.mk.inj h
    rw [State.setCoreOf, core_setCore_same]; rfl
  · rw [State.setCoreOf, core_setCore_other s _ h]

/-! ### KeepsWave -/

theorem keepsWave_refl (w : Wave) : KeepsWave w w := rfl
theorem keepsWave_trans {a b c : Wave} (h : KeepsWave a b) (k : KeepsWave b c) : KeepsWave a c := by
  unfold KeepsWave at *; rw [k, h]
theorem keeps_setSplit (w : Wave) (k : Nat) (x : Split) : KeepsWave w (w.setSplit k x) := rfl
theorem keeps_freeSplit (w : Wave) (k : Nat) (x : SplitSt) : KeepsWave w (w.freeSplit k x) := rfl
theorem keeps_newSplit (w : Wave) (x : Split) : KeepsWave w (w.newSplit x) := by
  unfold Wave.newSplit; split <;> rfl
theorem keeps_arrive (w : Wave) (k : Nat) (h : Addr) : KeepsWave w (arrive w k h) := rfl
theorem keeps_foldl {α : Type} (f : Wave → α → Wave) (h : ∀ w a, KeepsWave w (f w a)) (l : List α) (w : Wave) :
    KeepsWave w (l.foldl f w) := by
  induction l generalizing w with
  | nil => exact keepsWave_refl w
  | cons a l ih => exact keepsWave_trans (h w a) (ih _)

/-- The issuing wave keeps everything but its split table, stack, WSM and exit close. -/
def SameWave (s t : State) (r : WaveRef) : Prop := ∀ w, s.wave r = some w → ∃ v, t.wave r = some v ∧ KeepsWave w v

theorem SameWave.refl (s : State) (r : WaveRef) : SameWave s s r := fun w h => ⟨w, h, keepsWave_refl w⟩
theorem SameWave.trans {s t u : State} {r : WaveRef} (h : SameWave s t r) (k : SameWave t u r) : SameWave s u r := fun w hw => by
  obtain ⟨v, hv, e⟩ := h w hw
  obtain ⟨x, hx, f⟩ := k v hv
  exact ⟨x, hx, keepsWave_trans e f⟩
theorem sameWave_setWave {s : State} {r : WaveRef} {w v : Wave} (h : s.wave r = some w) (k : KeepsWave w v) :
    SameWave s (s.setWave r v) r := fun x hx => ⟨v, wave_setWave_same _ _ _, by rw [h] at hx; cases hx; exact k⟩
theorem sameWave_updWave (s : State) (r : WaveRef) (f : Wave → Wave) (k : ∀ w, KeepsWave w (f w)) : SameWave s (s.updWave r f) r :=
  fun w hw => ⟨f w, by rw [wave_updWave_same, hw]; rfl, k w⟩
theorem writes_same {s t u : State} {r : WaveRef} {ps : List Pend} (h : Writes s t r ps) (k : SameWave t u r) : Writes s u r ps := by
  obtain ⟨w, v, hw, hv, e⟩ := h
  obtain ⟨x, hx, f⟩ := k v hv
  exact ⟨w, x, hw, hx, keepsWave_trans e f⟩
theorem writes_after {s t u : State} {r : WaveRef} {ps : List Pend} {w : Wave} (hw : s.wave r = some w) (h : SameWave s t r)
    (k : Writes t u r ps) : Writes s u r ps := by
  obtain ⟨v, x, hv, hx, f⟩ := k
  obtain ⟨v', hv', e⟩ := h w hw
  rw [hv] at hv'; cases hv'
  exact ⟨w, x, hw, hx, by unfold KeepsWave at *; rw [f, e]⟩
theorem writes_nil {s : State} {r : WaveRef} {w : Wave} (h : s.wave r = some w) : Writes s s r [] :=
  ⟨w, w, h, h, by unfold KeepsWave; simp⟩
theorem writes_trans {s t u : State} {r : WaveRef} {ps qs : List Pend} (h : Writes s t r ps) (k : Writes t u r qs) :
    Writes s u r (ps ++ qs) := by
  obtain ⟨w, v, hw, hv, e⟩ := h
  obtain ⟨v', x, hv', hx, f⟩ := k
  rw [hv] at hv'; cases hv'
  refine ⟨w, x, hw, hx, ?_⟩
  unfold KeepsWave at *
  rw [f, e]; simp

/-! ### One change that the device makes to a split table -/

theorem keeps_wsyncDone {w v : Wave} (h : wsyncDone w = some v) : KeepsWave w v := by
  unfold wsyncDone at h
  split at h
  · cases h; exact keepsWave_trans (b := { w with wsm := 0, wsTill := 0 }) rfl (keeps_newSplit _ _)
  · cases h
theorem keeps_wsyncRetry {w v : Wave} (h : wsyncRetry w = some v) : KeepsWave w v := by
  unfold wsyncRetry at h
  split at h
  · cases h; rfl
  · cases h
theorem keeps_mergeAt {w v : Wave} {a : Addr} (h : mergeAt w a = some v) : KeepsWave w v := by
  unfold mergeAt at h
  dsimp only at h
  split at h
  · cases h
  · split at h
    · cases h
    · cases h
      refine keepsWave_trans (keeps_setSplit w _ _) (keeps_foldl _ (fun w a => ?_) _ _)
      split
      · exact keepsWave_refl _
      · exact keeps_freeSplit _ _ _
theorem keeps_mergeAny {w v : Wave} (h : mergeAny w = some v) : KeepsWave w v := by
  unfold mergeAny at h
  obtain ⟨_, x, _, _, h, _⟩ := List.findSome?_eq_some_iff.1 h
  exact keeps_mergeAt h
theorem keeps_swapTop {w v : Wave} (h : swapTop w = some v) : KeepsWave w v := by
  unfold swapTop at h
  split at h
  · cases h
  split at h
  · cases h
  split at h
  · cases h
  dsimp only at h
  split at h
  · cases h; rfl
  · cases h
    rfl

theorem tidyStep_keeps {s t : State} {r : WaveRef} (h : tidyStep s r = some t) : OnlyWave s t r ∧ SameWave s t r := by
  unfold tidyStep at h
  split at h
  · cases h
  · rename_i w hw
    split at h
    · rename_i h1; cases h
      exact ⟨onlyWave_setWave _ _ _, sameWave_setWave hw (keeps_wsyncDone h1)⟩
    split at h
    · rename_i h1; cases h
      exact ⟨onlyWave_setWave _ _ _, sameWave_setWave hw (keeps_wsyncRetry h1)⟩
    split at h
    · rename_i h1; cases h
      exact ⟨onlyWave_setWave _ _ _, sameWave_setWave hw (keeps_mergeAny h1)⟩
    split at h
    · rename_i h1; cases h
      exact ⟨onlyWave_setWave _ _ _, sameWave_setWave hw (keeps_swapTop h1)⟩
    split at h
    · cases h
    split at h
    · cases h
      exact ⟨onlyWave_trans (onlyWave_setFrags s r r _) (onlyWave_setWave _ _ _),
        fun x hx => ⟨_, wave_setWave_same _ _ _, by rw [hw] at hx; cases hx; exact keeps_newSplit _ _⟩⟩
    · split at h
      · cases h
        refine ⟨onlyWave_setWave _ _ _, sameWave_setWave hw (keepsWave_trans ?_ (keeps_arrive _ _ _))⟩
        exact keepsWave_trans (b := { w with stack := _ }) rfl (keeps_newSplit _ _)
      · cases h

theorem tidyN_keeps (n : Nat) (s : State) (r : WaveRef) : OnlyWave s (tidyN n s r) r ∧ SameWave s (tidyN n s r) r := by
  induction n generalizing s with
  | zero => exact ⟨onlyWave_refl s r, .refl s r⟩
  | succ n ih =>
    unfold tidyN
    split
    · rename_i t h
      exact ⟨onlyWave_trans (tidyStep_keeps h).1 (ih t).1, (tidyStep_keeps h).2.trans (ih t).2⟩
    · exact ⟨onlyWave_refl s r, .refl s r⟩

theorem exitCheck_keeps (s : State) (r : WaveRef) : OnlyWave s (exitCheck s r) r ∧ SameWave s (exitCheck s r) r := by
  unfold exitCheck
  split
  · exact ⟨onlyWave_refl s r, .refl s r⟩
  · rename_i w hw
    split
    · exact ⟨onlyWave_trans (onlyWave_newExit s r _ rfl rfl) (onlyWave_setWave _ _ _),
        fun x hx => ⟨_, wave_setWave_same _ _ _, by rw [hw] at hx; cases hx; rfl⟩⟩
    · exact ⟨onlyWave_refl s r, .refl s r⟩

theorem tidy_keeps (s : State) (r : WaveRef) : OnlyWave s (tidy s r) r ∧ SameWave s (tidy s r) r :=
  ⟨onlyWave_trans (tidyN_keeps 48 s r).1 (exitCheck_keeps _ r).1, (tidyN_keeps 48 s r).2.trans (exitCheck_keeps _ r).2⟩

/-! ### Around the body -/

theorem updWave_keeps (s : State) (r : WaveRef) (f : Wave → Wave) (k : ∀ w, KeepsWave w (f w)) :
    OnlyWave s (s.updWave r f) r ∧ SameWave s (s.updWave r f) r := ⟨onlyWave_updWave s r f, sameWave_updWave s r f k⟩

theorem advance_keeps (s : State) (u : SplitRef) (n : Nat) : OnlyWave s (s.advance u n) u.w ∧ SameWave s (s.advance u n) u.w :=
  updWave_keeps s u.w _ (fun _ => keeps_setSplit _ _ _)
theorem updSplit_keeps (s : State) (u : SplitRef) (f : Split → Split) : OnlyWave s (s.updSplit u f) u.w ∧ SameWave s (s.updSplit u f) u.w :=
  updWave_keeps s u.w _ (fun _ => keeps_setSplit _ _ _)
theorem arriveIf_keeps (s : State) (u : SplitRef) : OnlyWave s (arriveIf s u) u.w ∧ SameWave s (arriveIf s u) u.w := by
  refine updWave_keeps s u.w _ (fun w => ?_)
  dsimp only
  split
  · exact keeps_arrive _ _ _
  · exact keepsWave_refl _
theorem applySettle_keeps (s : State) (u : SplitRef) (c : Cm) : OnlyWave s (applySettle s u c) u.w ∧ SameWave s (applySettle s u c) u.w := by
  unfold applySettle
  split
  · exact ⟨onlyWave_refl _ _, .refl _ _⟩
  · refine updWave_keeps s u.w _ (fun w => ?_)
    dsimp only
    split
    · exact keepsWave_refl _
    · exact keeps_setSplit _ _ _
/-- What follows the body of an instruction changes no register, no other wave and no byte of memory. -/
theorem finishIssue_keeps (s : State) (u : SplitRef) (c : Cm) : OnlyWave s (finishIssue s u c) u.w ∧ SameWave s (finishIssue s u c) u.w := by
  have a := applySettle_keeps s u c
  have b := arriveIf_keeps (applySettle s u c) u
  have d := tidy_keeps (arriveIf (applySettle s u c) u) u.w
  exact ⟨onlyWave_trans a.1 (onlyWave_trans b.1 d.1), a.2.trans (b.2.trans d.2)⟩

/-! ### Register writes of fixed latency -/

theorem writes_addPend {s : State} {r : WaveRef} {w : Wave} (h : s.wave r = some w) (p : Pend) : Writes s (s.addPend r p) r [p] :=
  ⟨w, { w with pend := w.pend ++ [p] }, h, by unfold State.addPend; rw [wave_updWave_same, h]; rfl, rfl⟩
/-- Writes added in one list are those of its parts one after the other. -/
theorem adds_append (s : State) (r : WaveRef) (ps qs : List Pend) : adds (adds s r ps) r qs = adds s r (ps ++ qs) := (List.foldl_append ..).symm
/-- What adding writes does: nothing outside the wave, and in it the writes are in flight. -/
theorem adds_keeps {s : State} {r : WaveRef} {w : Wave} (h : s.wave r = some w) (ps : List Pend) :
    OnlyWave s (adds s r ps) r ∧ Writes s (adds s r ps) r ps := by
  induction ps generalizing s w with
  | nil => exact ⟨onlyWave_refl s r, writes_nil h⟩
  | cons p ps ih =>
    have k := writes_addPend h p
    have ⟨_, v, _, hv, _⟩ := k
    exact ⟨onlyWave_trans (onlyWave_updWave _ _ _) (ih hv).1, writes_trans k (ih hv).2⟩

/-! Each operation that writes a register adds its write. -/

theorem writeDst_adds {s : State} {r : WaveRef} (k : cycleNow s = s.cyc r.die) (d : Dst) (e : Mask) (vals : List (Nat × Val)) (lat : Nat) :
    writeDst s r d e vals lat = adds s r (if e = 0 then [] else [due s d e vals lat]) := by
  unfold writeDst
  split
  · rfl
  · unfold due; rw [k]; rfl
theorem writeV_adds {s : State} {r : WaveRef} (k : cycleNow s = s.cyc r.die) (n : Nat) (e : Mask) (f : Nat → Val) (lat : Nat) :
    writeV s r n e f lat = adds s r (vecW s n e f lat) := writeDst_adds k _ _ _ _
theorem writeS_adds {s : State} {r : WaveRef} (k : cycleNow s = s.cyc r.die) (n : Nat) (v : Val) (lat : Nat) :
    writeS s r n v lat = adds s r [due s (.s n) 1 [(0, v)] lat] := by
  simpa [writeS] using writeDst_adds k (.s n) 1 [(0, v)] lat
theorem writeX_adds {s : State} {r : WaveRef} (k : cycleNow s = s.cyc r.die) (n : Nat) (v : W32) (lat : Nat) :
    writeX s r n v lat = adds s r [due s (.x n) 1 [(0, ⟨v, false⟩)] lat] := by
  simpa [writeX] using writeDst_adds k (.x n) 1 [(0, ⟨v, false⟩)] lat
theorem writeP_adds {s : State} {r : WaveRef} (k : cycleNow s = s.cyc r.die) (n : PReg) (e : Mask) (f : Nat → Bool × Bool) (lat : Nat) :
    writeP s r n e f lat = adds s r (predW s n e f lat) := by
  unfold writeP predW
  by_cases h7 : n = 7
  · simp only [h7, if_true, true_or]; rfl
  · simp only [h7, if_false, false_or]; exact writeDst_adds k _ _ _ _

/-! ### One issue -/

/-- The cycle of the issue is that of the issuing split's die, before and after the split has moved. -/
theorem cycleNow_of {s : State} {cu : Cur} (h : s.cur = some cu) (n : Nat) : cycleNow (s.advance cu.u n) = (s.advance cu.u n).cyc cu.u.w.die := by
  have h' : (s.advance cu.u n).cur = some cu := h
  unfold cycleNow; rw [h']; rfl

/-- Under `Issues` an issue runs its body on the advanced split. -/
theorem issueOp_of {s : State} {i : Instr} {c : Cm} {cu : Cur} {w : Wave} (h : Issues s i c cu w) (n : Nat)
    (body : State → Issue → Option State) {t : State} (hb : body (s.advance cu.u n) (issueOf s c cu w) = some t) :
    issueOp s i c n body = .next (finishIssue t cu.u c) := by
  unfold issueOp
  simp only [h.cur, h.wave, h.allowed, h.index, h.bounds, Bool.false_eq_true, if_false]
  rw [if_neg]
  · rw [hb]
  · intro k
    simp only [Bool.and_eq_true, Option.isNone_iff_eq_none] at k
    exact absurd (h.ready k.1) (by simp [k.2])
/-- A stalled body leaves the state. -/
theorem issueOp_stall {s : State} {i : Instr} {c : Cm} {cu : Cur} {w : Wave} (h : Issues s i c cu w) (n : Nat)
    (body : State → Issue → Option State) (hb : body (s.advance cu.u n) (issueOf s c cu w) = none) :
    issueOp s i c n body = .next s := by
  unfold issueOp
  simp only [h.cur, h.wave, h.allowed, h.index, h.bounds, Bool.false_eq_true, if_false]
  rw [hb]; split <;> rfl
/-- The wave on the advanced split. -/
theorem advance_wave {s : State} {u : SplitRef} {w : Wave} (h : s.wave u.w = some w) (n : Nat) :
    (s.advance u n).wave u.w = some (w.setSplit u.k (advanceSplit (s.cyc u.w.die) n (w.split u.k))) := by
  unfold State.advance State.updSplit; rw [wave_updWave_same, h]; rfl

/-- The shape of every result statement: the body adds register writes and changes nothing else. -/
theorem gives_of {s : State} {i : Instr} {c : Cm} {cu : Cur} {w : Wave} (h : Issues s i c cu w) {ps : List Pend}
    {body : State → Issue → Option State} (he : exec i s = issueOp s i c 1 body)
    (hb : body (s.advance cu.u 1) (issueOf s c cu w) = some (adds (s.advance cu.u 1) cu.u.w ps)) : Gives i s c cu.u ps := by
  have k := adds_keeps (advance_wave h.wave 1) ps
  have f := finishIssue_keeps (adds (s.advance cu.u 1) cu.u.w ps) cu.u c
  have a := advance_keeps s cu.u 1
  have e := he.trans (issueOp_of h 1 body hb)
  exact ⟨e, _, e, writes_after h.wave a.2 (writes_same k.2 f.2), onlyWave_trans a.1 (onlyWave_trans k.1 f.1)⟩
/-- The same of `Completes`. -/
theorem completes_of {s : State} {i : Instr} {c : Cm} {cu : Cur} {w : Wave} (h : Issues s i c cu w) {n : Nat}
    {body : State → Issue → Option State} {t : State} (he : exec i s = issueOp s i c n body)
    (hb : body (s.advance cu.u n) (issueOf s c cu w) = some t) : Completes i s c cu.u t := he.trans (issueOp_of h n body hb)

@[simp] theorem issueOf_u (s : State) (c : Cm) (cu : Cur) (w : Wave) : (issueOf s c cu w).u = cu.u := by
  unfold issueOf; dsimp only; split <;> rfl
@[simp] theorem issueOf_w (s : State) (c : Cm) (cu : Cur) (w : Wave) : (issueOf s c cu w).w = w := by
  unfold issueOf; dsimp only; split <;> rfl
@[simp] theorem issueOf_sp (s : State) (c : Cm) (cu : Cur) (w : Wave) : (issueOf s c cu w).sp = w.split cu.u.k := by
  unfold issueOf; dsimp only; split <;> rfl
@[simp] theorem issueOf_e (s : State) (c : Cm) (cu : Cur) (w : Wave) : (issueOf s c cu w).e = exSet s c cu w := rfl

/-- The three shapes of an instruction with one result. -/
theorem givesS_of {s : State} {i : Instr} {c : Cm} {cu : Cur} {w : Wave} {d lat : Nat} {f : State → Wave → Val}
    (he : exec i s = issueS s i c (fun s is => writeS s is.u.w d (f s is.w) lat)) : GivesS s i c cu w d (f (s.advance cu.u 1) w) lat := by
  intro h
  refine gives_of (body := fun s is => some (if is.e = 0 then s else writeS s is.u.w d (f s is.w) lat)) h he ?_
  simp only [issueOf_e, issueOf_u, issueOf_w, writeS_adds (cycleNow_of h.cur 1)]
  unfold scaW
  split <;> rfl
theorem givesV_of {s : State} {i : Instr} {c : Cm} {cu : Cur} {w : Wave} {d : VDst} {lat : Nat} {f : State → Wave → Nat → Val}
    (he : exec i s = issue1 s i c (fun s is => writeV s is.u.w (effV s is.w d) is.e (f s is.w) lat)) :
    GivesV s i c cu w d (f (s.advance cu.u 1) w) lat := by
  intro h
  refine gives_of (body := fun s is => some (writeV s is.u.w (effV s is.w d) is.e (f s is.w) lat)) h he ?_
  simp only [issueOf_e, issueOf_u, issueOf_w, writeV_adds (cycleNow_of h.cur 1)]
  rfl
theorem givesP_of {s : State} {i : Instr} {c : Cm} {cu : Cur} {w : Wave} {q : PReg} {lat : Nat} {f : State → Wave → Nat → Bool × Bool}
    (he : exec i s = issue1 s i c (fun s is => writeP s is.u.w q is.e (f s is.w) lat)) :
    GivesP s i c cu w q (f (s.advance cu.u 1) w) lat := by
  intro h
  refine gives_of (body := fun s is => some (writeP s is.u.w q is.e (f s is.w) lat)) h he ?_
  simp only [issueOf_e, issueOf_u, issueOf_w, writeP_adds (cycleNow_of h.cur 1)]
  rfl

/-! ### Closes, fences and orders of events -/

/-- A seal is never in L1: what waits for it waits until it has taken effect (R301). -/
theorem inL1_seal {s : State} {x : Op} (h : x.kind = .seal ∨ x.kind = .unseal) : inL1 s x = false := by
  rcases h with h | h <;> simp [inL1, h]
/-- Wider than .blk a close waits for what is not performed (R279). -/
theorem closedAt_wide {s : State} {scp : Nat} (h : scp ≠ 1) (o : Nat) : closedAt s scp o = finished s o := by
  cases k : s.op o <;> simp [closedAt, finished, k, h]
/-- Of all operations closes alone have a scope. -/
theorem waitOver_of_ne_close {s : State} {x : Op} (h : x.kind ≠ .close) : waitOver s x = accepted s x := by
  have : (x.kind == .close) = false := by simpa using h
  simp [waitOver, accepted, this, funext (closedAt_wide (s := s) (scp := 4) (by decide))]
/-- No operation of a replay queue is waited for (entry 79). -/
theorem opsOf_not_inRq {s : State} {uid o : Nat} {p : OpKind → Bool} (h : o ∈ opsOf s uid p) : ∃ x, (o, x) ∈ s.ops ∧ x.wuid = uid ∧ x.performed = false ∧ x.inRq = false := by
  simp only [opsOf, List.mem_map, List.mem_filter] at h
  obtain ⟨⟨a, x⟩, ⟨m, k⟩, rfl⟩ := h
  simp only [Bool.and_eq_true, Bool.not_eq_true', beq_iff_eq] at k
  exact ⟨x, m, k.1.1.1, k.1.1.2, k.1.2⟩
/-- Where no die is fenced nothing refuses. -/
theorem refuseDrops_of_none {s : State} (h : fencedDies s = []) : refuseDrops s = s := by simp [refuseDrops, h]
/-- Nothing is out of order in a fresh cycle, and no move that takes no row. -/
theorem outOfOrder_fresh (new : List RowAt) : outOfOrder [] new = false := by simp [outOfOrder]
theorem outOfOrder_none (old : List RowAt) : outOfOrder old [] = false := rfl
/-- A context that is freed has every field as at reset but its last command (Table 6.2). -/
theorem freeCtx_ctx (s : State) (asid : Nat) : (freeCtx s asid).ctx asid = { Ctx.fresh with lastCmd := 4 } := tget_tset_same _ _ _ _

end Sys2Proof.Machine
end

