-- ==== Sys2Proof/Laws/Hbm.lean ====
section
/-! SUPPORT. HBM bytes: a write is read back, other bytes are kept, and every operation keeps the canonical form. -/

namespace Sys2Proof.Machine

open Host

theorem hbmGet_below (m : List Cell) (k : Nat) (h : hbmAbove k m = true) : hbmGet m k = hbmDefault := by
  cases m with
  | nil => rfl
  | cons c t =>
    simp only [hbmAbove, decide_eq_true_eq] at h
    simp [hbmGet, h, show c.1 ≠ k by omega]

theorem hbmWf_tail {c : Cell} {t : List Cell} (h : hbmWf (c :: t) = true) : hbmWf t = true := by
  simp only [hbmWf, Bool.and_eq_true] at h
  exact h.2

theorem hbmAbove_head {c : Cell} {t : List Cell} (h : hbmWf (c :: t) = true) : hbmAbove c.1 t = true := by
  simp only [hbmWf, Bool.and_eq_true] at h
  exact h.1.2

theorem hbmAbove_trans {m : List Cell} {a k : Nat} (ha : a ≤ k) (h : hbmAbove k m = true) : hbmAbove a m = true := by
  cases m with
  | nil => rfl
  | cons c t =>
    simp only [hbmAbove, decide_eq_true_eq] at h ⊢
    omega

/-- Nothing below the first address of a list is listed. -/
theorem hbmSet_above (m : List Cell) (a k : Nat) (v : Byte) (hm : hbmWf m = true) (h : hbmAbove a m = true) (hk : a < k) :
    hbmAbove a (hbmSet m k v) = true := by
  cases m with
  | nil =>
    simp only [hbmSet]
    split <;> simp_all [hbmAbove]
  | cons c t =>
    obtain ⟨b, w⟩ := c
    have hb := hbmAbove_head hm
    simp only [hbmAbove, decide_eq_true_eq] at h
    simp only [hbmSet]
    split
    · split
      · exact hbmAbove_trans (Nat.le_of_lt h) hb
      · simp [hbmAbove, hk]
    · split
      · split <;> simp [hbmAbove, h, hk]
      · simp [hbmAbove, h]

/-- Writing a byte keeps the canonical form. -/
theorem hbmSet_wf (m : List Cell) (k : Nat) (v : Byte) (hm : hbmWf m = true) : hbmWf (hbmSet m k v) = true := by
  induction m with
  | nil =>
    simp only [hbmSet]
    split
    · rfl
    · simp_all [hbmWf, hbmAbove]
  | cons c t ih =>
    obtain ⟨a, b⟩ := c
    have ht := hbmWf_tail hm
    have ha := hbmAbove_head hm
    have hb : (b != hbmDefault) = true := by
      simp only [hbmWf, Bool.and_eq_true] at hm
      exact hm.1.1
    simp only [hbmSet]
    split
    · rename_i hak
      split
      · exact ht
      · rename_i hv
        subst hak
        simp only [hbmWf, Bool.and_eq_true]
        exact ⟨⟨by simpa using hv, ha⟩, ht⟩
    · rename_i hak
      split
      · rename_i hka
        split
        · exact hm
        · rename_i hv
          simp only [hbmWf, Bool.and_eq_true]
          exact ⟨⟨by simpa using hv, by simp [hbmAbove, hka]⟩, ⟨hb, ha⟩, ht⟩
      · rename_i hka
        simp only [hbmWf, Bool.and_eq_true]
        exact ⟨⟨hb, hbmSet_above t a k v ht ha (by omega)⟩, ih ht⟩

theorem hbmWrite_wf (bs : List Byte) (m : List Cell) (k : Nat) (hm : hbmWf m = true) : hbmWf (hbmWrite m k bs) = true := by
  induction bs generalizing m k with
  | nil => exact hm
  | cons b t ih => exact ih _ _ (hbmSet_wf m k b hm)

/-- A byte that was written is read back. -/
theorem hbmGet_set_same (m : List Cell) (k : Nat) (v : Byte) (hm : hbmWf m = true) : hbmGet (hbmSet m k v) k = v := by
  induction m with
  | nil =>
    simp only [hbmSet]
    split <;> simp_all [hbmGet]
  | cons c t ih =>
    obtain ⟨a, b⟩ := c
    have ha := hbmAbove_head hm
    simp only [hbmSet]
    split
    · rename_i hak
      subst hak
      split
      · rename_i hv
        rw [hv]
        exact hbmGet_below t a ha
      · simp [hbmGet]
    · rename_i hak
      split
      · rename_i hka
        split
        · rename_i hv
          simp [hbmGet, hak, hka, hv]
        · simp [hbmGet]
      · rename_i hka
        simp [hbmGet, hak, hka, ih (hbmWf_tail hm)]

/-- Every other byte keeps its value. -/
theorem hbmGet_set_other (m : List Cell) {k j : Nat} (v : Byte) (hm : hbmWf m = true) (h : j ≠ k) :
    hbmGet (hbmSet m k v) j = hbmGet m j := by
  induction m with
  | nil =>
    simp only [hbmSet]
    split
    · rfl
    · simp [hbmGet, h.symm]
  | cons c t ih =>
    obtain ⟨a, b⟩ := c
    have ha := hbmAbove_head hm
    simp only [hbmSet]
    split
    · rename_i hak
      subst hak
      split
      · simp only [hbmGet, h.symm, if_false]
        split
        · rename_i hja
          exact hbmGet_below t j (hbmAbove_trans (Nat.le_of_lt hja) ha)
        · rfl
      · simp [hbmGet, h.symm]
    · rename_i hak
      split
      · rename_i hka
        split
        · rfl
        · simp only [hbmGet, h.symm, if_false]
          split
          · rename_i hjk
            simp [show a ≠ j by omega, show j < a by omega]
          · rfl
      · simp [hbmGet, ih (hbmWf_tail hm)]

/-- Dropping cells keeps the canonical form. -/
theorem hbmAbove_filter (m : List Cell) (p : Cell → Bool) (a : Nat) (hm : hbmWf m = true) (h : hbmAbove a m = true) :
    hbmAbove a (m.filter p) = true := by
  induction m with
  | nil => rfl
  | cons c t ih =>
    simp only [List.filter_cons]
    split
    · simpa [hbmAbove] using h
    · refine ih (hbmWf_tail hm) (hbmAbove_trans ?_ (hbmAbove_head hm))
      simp only [hbmAbove, decide_eq_true_eq] at h
      omega

theorem hbmWf_filter (m : List Cell) (p : Cell → Bool) (hm : hbmWf m = true) : hbmWf (m.filter p) = true := by
  induction m with
  | nil => rfl
  | cons c t ih =>
    have ht := hbmWf_tail hm
    simp only [List.filter_cons]
    split
    · have hc : (c.2 != hbmDefault) = true := by
        simp only [hbmWf, Bool.and_eq_true] at hm
        exact hm.1.1
      simp only [hbmWf, Bool.and_eq_true]
      exact ⟨⟨hc, hbmAbove_filter t p c.1 ht (hbmAbove_head hm)⟩, ih ht⟩
    · exact ih ht

/-- Two canonical lists with the same bytes are the same list: equal memories are equal data. -/
theorem hbm_ext (m n : List Cell) (hm : hbmWf m = true) (hn : hbmWf n = true) (h : ∀ k, hbmGet m k = hbmGet n k) : m = n := by
  induction m generalizing n with
  | nil =>
    cases n with
    | nil => rfl
    | cons c t =>
      have hc := h c.1
      simp only [hbmWf, Bool.and_eq_true, bne_iff_ne] at hn
      simp [hbmGet] at hc
      exact absurd hc.symm hn.1.1
  | cons c t ih =>
    obtain ⟨a, b⟩ := c
    have hb : b ≠ hbmDefault := by
      simp only [hbmWf, Bool.and_eq_true, bne_iff_ne] at hm
      exact hm.1.1
    cases n with
    | nil =>
      have hc := h a
      simp [hbmGet] at hc
      exact absurd hc hb
    | cons d u =>
      obtain ⟨e, f⟩ := d
      have hf : f ≠ hbmDefault := by
        simp only [hbmWf, Bool.and_eq_true, bne_iff_ne] at hn
        exact hn.1.1
      have hae : a = e := by
        rcases Nat.lt_trichotomy a e with hlt | heq | hgt
        · have := h a
          simp [hbmGet, show e ≠ a by omega, hlt] at this
          exact absurd this hb
        · exact heq
        · have := h e
          simp [hbmGet, show a ≠ e by omega, hgt] at this
          exact absurd this.symm hf
      subst hae
      have hbf : b = f := by
        have := h a
        simpa [hbmGet] using this
      subst hbf
      congr 1
      refine ih u (hbmWf_tail hm) (hbmWf_tail hn) (fun k => ?_)
      have hk := h k
      simp only [hbmGet] at hk
      by_cases h1 : a = k
      · subst h1
        rw [hbmGet_below _ _ (hbmAbove_head hm), hbmGet_below _ _ (hbmAbove_head hn)]
      · by_cases h2 : k < a
        · rw [hbmGet_below _ _ (hbmAbove_trans (Nat.le_of_lt h2) (hbmAbove_head hm)),
            hbmGet_below _ _ (hbmAbove_trans (Nat.le_of_lt h2) (hbmAbove_head hn))]
        · simpa [h1, h2] using hk

end Sys2Proof.Machine
end

