-- ==== Sys2Proof/Laws/Shapes.lean ====
section
/-! SUPPORT. The shapes of the meanings, each with the statement term it yields: a compare of scalars, a scalar pair, a command that is sent, and a
split-scalar instruction behind its checks. -/

namespace Sys2Proof.Machine

open Sys2Proof.Spec

/-- Adding writes leaves the cycle. -/
theorem adds_cycle {s : State} {r q : WaveRef} (k : cycleNow s = s.cyc q.die) (ps : List Pend) : cycleNow (adds s r ps) = (adds s r ps).cyc q.die := by
  induction ps generalizing s with
  | nil => exact k
  | cons p ps ih => exact ih (s := s.addPend r p) k
theorem writeP_none (s : State) (r : WaveRef) (q : PReg) (f : Nat → Bool × Bool) (lat : Nat) : writeP s r q 0 f lat = s := by
  simp [writeP, writeDst]

/-- A scalar compare. -/
theorem givesSP_of {s : State} {i : Instr} {c : Cm} {cu : Cur} {w : Wave} {q : PReg} {lat : Nat} {f : State → Wave → Bool × Bool}
    (he : exec i s = issueS s i c (fun s is => writeP s is.u.w q is.e (fun _ => f s is.w) lat)) :
    GivesP s i c cu w q (fun _ => f (s.advance cu.u 1) w) lat := by
  intro h
  refine gives_of (body := fun s is => some (if is.e = 0 then s else writeP s is.u.w q is.e (fun _ => f s is.w) lat)) h he ?_
  simp only [issueOf_e, issueOf_u, issueOf_w, writeP_adds (cycleNow_of h.cur 1)]
  unfold predW
  split
  · rename_i h0; rw [if_pos (Or.inr h0)]; rfl
  · rfl

/-- A 64-bit result in a scalar pair. -/
theorem givesS2_of {s : State} {i : Instr} {c : Cm} {cu : Cur} {w : Wave} {d : SReg} {lat : Nat} {f : State → Wave → W64 × Bool}
    (he : exec i s = issueS s i c (fun s is =>
      writeS (writeS s is.u.w d.toNat ⟨((f s is.w).1).setWidth 32, (f s is.w).2⟩ lat) is.u.w (d.toNat + 1)
        ⟨((f s is.w).1 >>> 32).setWidth 32, (f s is.w).2⟩ lat)) :
    GivesS2 s i c cu w d.toNat (f (s.advance cu.u 1) w) lat := by
  intro h
  refine gives_of (body := fun s is => some (if is.e = 0 then s else
    writeS (writeS s is.u.w d.toNat ⟨((f s is.w).1).setWidth 32, (f s is.w).2⟩ lat) is.u.w (d.toNat + 1)
      ⟨((f s is.w).1 >>> 32).setWidth 32, (f s is.w).2⟩ lat)) h he ?_
  have c2 : ∀ ps, cycleNow (adds (s.advance cu.u 1) cu.u.w ps) = (adds (s.advance cu.u 1) cu.u.w ps).cyc cu.u.w.die := adds_cycle (cycleNow_of h.cur 1)
  simp only [issueOf_e, issueOf_u, issueOf_w, writeS_adds (cycleNow_of h.cur 1), writeS_adds (c2 _), adds_append]
  unfold scaW
  split <;> rfl

/-- A command that is sent. -/
theorem sends_of {s : State} {i : Instr} {c : Cm} {cu : Cur} {w : Wave} {n : Nat} {stall : State → Issue → Bool} {body : State → Issue → State}
    (he : exec i s = issueOp s i c n (fun s j => if j.e = 0 then some s else if stall s j then none else some (body s j))) :
    Sends s i c cu w n stall body := by
  intro h
  refine ⟨fun h0 => ?_, fun h0 h1 => ?_, fun h0 h1 => ?_, fun h0 h1 => ?_⟩
  · refine completes_of h he ?_
    rw [if_pos h0]
  · subst h1
    refine gives_of h he ?_
    rw [if_pos h0]; rfl
  · refine he.trans (issueOp_stall h n _ ?_)
    rw [if_neg h0, if_pos h1]
  · refine completes_of h he ?_
    rw [if_neg h0, if_neg (by rw [h1]; exact Bool.false_ne_true)]

/-- A split-scalar instruction behind its checks. -/
theorem gated_of {s : State} {i : Instr} {c : Cm} {cu : Cur} {w : Wave} {psn bad : Bool} {cause : Nat} {p q : State → Issue → Bool}
    {body : State → Issue → State}
    (he : exec i s = issueS s i c (fun s j => poisonGate s j (p s j) (fun s j => if q s j then trapIs s j cause 0 else body s j)))
    (hp : p (s.advance cu.u 1) (issueOf s c cu w) = psn) (hq : q (s.advance cu.u 1) (issueOf s c cu w) = bad) :
    Gated s i c cu w psn bad cause body := by
  intro h
  replace he : exec i s = issueOp s i c 1 (fun s j => some (if j.e = 0 then s else
      poisonGate s j (p s j) (fun s j => if q s j then trapIs s j cause 0 else body s j))) := he
  refine ⟨fun h0 => ?_, fun h0 h1 => ?_, fun h0 h1 h2 => ?_, fun h0 h1 h2 => ?_⟩
  · refine gives_of h he ?_
    rw [if_pos h0]; rfl
  · refine completes_of h he ?_
    rw [if_neg h0, hp, h1]; rfl
  · refine completes_of h he ?_
    rw [if_neg h0, hp, h1]; simp only [poisonGate, Bool.false_eq_true, if_false]; rw [if_pos (hq.trans h2)]
  · refine completes_of h he ?_
    rw [if_neg h0, hp, h1]; simp only [poisonGate, Bool.false_eq_true, if_false]; rw [if_neg (by rw [hq, h2]; exact Bool.false_ne_true)]

end Sys2Proof.Machine
end

