-- ==== Sys2Proof/Safety.lean ====
section
/-! DEFINITION. What a safe run is: no step of it stops, and the memory keeps its canonical form. -/

namespace Sys2Proof

/-- The machine runs n steps from a state without a fault or a refusal, and every state on the way has memory in its form. -/
def SafeRun : Nat → Machine.State → Prop
  | 0, s => Machine.hbmWf s.hbm = true
  | n + 1, s => Machine.hbmWf s.hbm = true ∧ ∃ t, Machine.step s = .next t ∧ SafeRun n t

end Sys2Proof
end

