-- ==== Sys2Proof/Tests/Slice0.lean ====
section
/-! SUPPORT. Tests: ill-formed terms refused, words written out from the spec's encodings, witnesses that the hypotheses of the statements can be
met, and single steps whose results the spec gives. Expected results come from the spec's worked examples and tables. -/

namespace Sys2Proof.Tests

set_option Elab.async false

open Sys2Proof.Machine Sys2Proof.Spec

/-! ### Well-formedness: a term that each check refuses -/

def c7 : Cm := ⟨false, 7, false⟩
/-- FUNC values of the integer and FP32 instructions with everything zero. -/
def fB : IntF := ⟨0, 0, false, .b⟩
def fS : IntF := ⟨0, 0, false, .s⟩
def fF : FpF := ⟨0, 0, false, .rn⟩
def kBad : BitVec 8 := 0x58
def refused (l : List Instr) : Bool := l.all (fun i => !i.wf)

theorem wf_refuses_constant_codes : refused
    [.sleep c7 (.const kBad), .vadd c7 (.reg 0) (.const kBad) (.reg 1) fB, .vadd c7 (.reg 0) (.reg 1) (.const kBad) fB,
     .sadd c7 0 (.const kBad) (.reg 1) fB, .fragResume c7 0 (.const kBad), .fadd c7 (.reg 0) (.const kBad) (.reg 1) fF,
     .brx c7 (.const 0) 0, .callx c7 (.reg 0) (.const 0), .ret c7 (.const 0), .st c7 (.const kBad) (.vec (.reg 0)) ⟨0, false, .b32⟩ 0] = true := by
  decide +kernel
theorem wf_refuses_odd_pairs : refused
    [.fragList c7 1 (.reg 2) .any, .fragRead c7 3 (.reg 2) (.reg 0), .fragKill c7 0 (.reg 5), .fragPatch c7 0 (.reg 5) (.reg 0) (.reg 1),
     .sadd64 c7 1 (.reg 2) (.reg 4) fB, .ssub64 c7 2 (.reg 3) (.reg 4) fB, .sla c7 2 (.reg 4) (.reg 5) ⟨0, 0, false, .b⟩, .ld c7 (.reg 0) (.sc 3) ⟨0, false, .b32⟩ 0,
     .sld c7 3 (.glob 4) ⟨0, false, .b64⟩ 0, .satom c7 3 4 ⟨0, true, false, false⟩ 0, .wait c7 0 0 3 (.reg 0) (.reg 1) .eq false, .klaunch c7 0 3, .recFence c7 3,
     .cpTile c7 1 8 (.reg 0) (.reg 1), .cpGat c7 2 8 (.reg 0) (.reg 1) 3, .cpLin c7 (.glob 1) (.off (.reg 0)) (.reg 1) (.reg 2) .sg,
     .pgInvalPage c7 0 (.reg 3) (.reg 1), .qctlOpen c7 0 (.reg 1) (.reg 3), .psyswCreate c7 0 (.reg 1) (.reg 3), .chk c7 (.reg 3) false] = true := by
  decide +kernel
theorem wf_refuses_integer_func : refused
    [.sadd c7 0 (.reg 1) (.reg 2) ⟨1, 0, false, .b⟩, .ssub c7 0 (.reg 1) (.reg 2) ⟨0, 1, false, .b⟩, .smul c7 0 (.reg 1) (.reg 2) ⟨0, 1, true, .s⟩, .smad c7 0 (.reg 1) (.reg 2) (.reg 3) ⟨0, 0, true, .b⟩,
     .sand c7 0 (.reg 1) (.reg 2) fS, .sor c7 0 (.reg 1) (.reg 2) ⟨0, 2, false, .b⟩, .sshl c7 0 (.reg 1) (.reg 2) fS, .sshr c7 0 (.reg 1) (.reg 2) ⟨0, 1, false, .b⟩, .smin c7 0 (.reg 1) (.reg 2) fB,
     .scmp c7 (.reg 1) (.reg 2) ⟨0, 2, false, .b⟩, .scmp c7 (.reg 1) (.reg 2) ⟨0, 6, false, .s⟩, .ssel c7 0 (.reg 1) (.reg 2) (.reg 3) fS, .smov c7 0 (.reg 1) fS, .sbit c7 0 (.reg 1) ⟨0, 5, false, .b⟩,
     .sdiv c7 0 (.reg 1) (.reg 2) fB, .saddi c7 0 1 2 ⟨true, .b⟩, .vaddi c7 0 1 2 ⟨true, .b⟩, .vabs c7 (.reg 0) (.reg 1) fB, .vbfe c7 (.reg 0) (.reg 1) (.reg 2) fB,
     .vaddc c7 (.reg 0) (.reg 1) (.reg 2) ⟨0, 2, false, .b⟩, .vdp4 c7 (.reg 0) (.reg 1) (.reg 2) (.reg 3) ⟨0, 0, false, .n⟩, .vsad c7 (.reg 0) (.reg 1) (.reg 2) (.reg 3) ⟨0, 2, false, .b⟩,
     .vsel c7 (.reg 0) (.reg 1) (.reg 2) fS] = true := by
  decide +kernel
theorem wf_refuses_float_func : refused
    [.fadd c7 (.reg 0) (.reg 1) (.reg 2) ⟨1, 0, false, .rn⟩, .fmin c7 (.reg 0) (.reg 1) (.reg 2) ⟨0, 0, true, .rn⟩, .fcmp c7 (.reg 1) (.reg 2) ⟨0, 0, false, .rz⟩,
     .fcls c7 (.reg 1) (.reg 2) ⟨0, 1, false, .rn⟩, .frcp c7 (.reg 0) (.reg 1) ⟨0, 0, false, .rz⟩, .frnd c7 (.reg 0) (.reg 1) ⟨0, 0, true, .rn⟩,
     .hadd2 c7 (.reg 0) (.reg 1) (.reg 2) ⟨1, false, .rn, false⟩, .hcmp2 c7 (.reg 0) (.reg 1) (.reg 2) ⟨0, true, .rn, false⟩, .hdot2 c7 (.reg 0) (.reg 1) (.reg 2) (.reg 3) ⟨0, true, .rn, false⟩,
     .cvt c7 (.reg 0) (.reg 1) ⟨.f32, .f32, false, .rn, false⟩, .cvt c7 (.reg 0) (.reg 1) ⟨.f32, .s32, false, .rn, true⟩, .cvtn c7 (.reg 0) (.reg 1) (.reg 2) none ⟨.e4m3, 2, .rn⟩,
     .pack c7 (.reg 0) (.reg 1) (.reg 2) ⟨3, false, .rn, false, false⟩, .shfl c7 (.reg 0) (.reg 1) (.reg 2) (.reg 3) ⟨0, 5⟩, .vred c7 (.reg 0) (.reg 1) ⟨0, true, .rn, .s⟩,
     .vscan c7 (.reg 0) (.reg 1) ⟨0, false, .rn, .b⟩] = true := by
  decide +kernel
theorem wf_refuses_other_fields : refused
    [.brm c7 [] 0, .brm c7 [(0, 0), (0, 0), (0, 0), (0, 0), (0, 0)] 0, .tret ⟨false, 3, false⟩, .tret ⟨false, 7, true⟩, .splInfo c7 0 13, .swrite c7 (.reg 0) .clkLo, .swrite c7 (.const kBad) .xidx0,
     .ld c7 (.reg 0) (.vec (.reg 0)) ⟨6, false, .b32⟩ 0, .st c7 (.reg 0) (.vec (.reg 0)) ⟨0, false, .s8⟩ 0, .st c7 (.sc 1) (.vec (.reg 0)) ⟨0, false, .b64⟩ 0, .st c7 (.sc 2) (.vec (.reg 0)) ⟨0, false, .b128⟩ 0,
     .lds c7 (.reg 0) (.reg 1) ⟨1, false, .b32⟩ 0, .sts c7 (.reg 0) (.reg 1) ⟨0, true, .b32⟩ 0, .ldc c7 (.reg 0) (.reg 1) ⟨0, true, .b32⟩ 0, .sld c7 0 (.glob 2) ⟨0, false, .b128⟩ 0,
     .sld c7 0 (.spad (.reg 2)) ⟨0, false, .b32⟩ 0, .sst c7 (.reg 0) (.spad (.reg 2)) ⟨1, true, .b32⟩ 0, .atom c7 (.reg 0) (.vec (.reg 0)) ⟨9, true, false, false⟩ 0,
     .acas c7 (.reg 0) (.vec (.reg 0)) ⟨1, false, false, false⟩ 0, .red c7 (.reg 0) (.vec (.reg 0)) ⟨0, false, false, true⟩ 0, .redb c7 (.reg 0) (.vec (.reg 0)) ⟨8, false, false, false⟩ 0,
     .lda c7 (.reg 0) (.vec (.reg 0)) ⟨0, false, true, false⟩ 0, .phase c7 0 true false, .phase c7 6 true false, .phase c7 4 false false,
     .cpTile c7 2 60 (.reg 0) (.reg 1), .cpLin c7 (.off (.reg 0)) (.off (.reg 1)) (.reg 2) (.reg 3) .sg, .cpLin c7 (.glob 2) (.glob 4) (.reg 2) (.reg 3) .gs,
     .mxSt c7 0 (.reg 0) (.reg 1) (some (.reg 2)) .f32 .rn, .mxSt c7 0 (.reg 0) (.reg 1) none .f32 .rz, .mxStat c7 0 25] = true := by
  decide +kernel

/-! ### Words of the spec decode -/

/-- A word of the spec's text stands for an instruction. -/
def reads (w : W64) (i : Instr) : Bool := decide (decode w none = .ok i)

/-- Chapters 02 and 04: the line of R63's example, chapter 02's branch, an immediate compare, a 64-bit add. -/
theorem test_decode_integer : (reads 0x40A808A660600001 (.vadd ⟨true, 2, true⟩ (.reg 4) (.ind 1 12) (.const 3) fS)
    && reads 0x5D701852FFFFFF9C (.vcmpi c7 3 10 0xFFFFFF9C .ltS) && reads 0x3770204600000020 (.scmpi c7 4 8 32 .ltN)
    && reads 0x5A70580800000080 (.vxori c7 11 1 0x80) && reads 0x3070200080000000 (.sli c7 4 0x80000000)
    && reads 0x3974190641C00000 (.sadd64 c7 12 (.reg 12) (.reg 14) fB)) = true := by decide +kernel
/-- Chapter 05. -/
theorem test_decode_float : (reads 0x60700401EA000008 (.fadd c7 (.reg 2) (.reg 3) (.const 0x50) ⟨0, 0, false, .rm⟩)
    && reads 0x727020046AA00000 (.hfma2 c7 (.reg 16) (.reg 8) (.const 0x55) (.reg 0) ⟨0, false, .rn, false⟩)
    && reads 0x8370060080400020 (.pand c7 3 1 2 ⟨true⟩)) = true := by decide +kernel
/-- Chapters 06, 09 and 10. -/
theorem test_decode_control : (reads 0x0D70000000000005 (.trap c7 5) && reads 0x0170000050000050 (.bra c7 10 10)
    && reads 0x177001020B000000 (.swrite c7 (.reg 4) .xidx1) && reads 0x0B70060000000000 (.elect c7 3) && reads 0x0C740C0100000003 (.vote c7 (.bits 6) 2)
    && reads 0x1970120000800000 (.vread c7 (.reg 9) .tidX) && reads 0x1374110500000000 (.fragResume c7 8 (.reg 10))
    && reads 0x1274210260000000 (.fragRead c7 16 (.reg 4) (.const 0))) = true := by decide +kernel
theorem test_decode_brm : decode 0x0270284000007000 (some 0x0000000B00080005) = .ok (.brm c7 [(0, 5), (1, 8), (2, 11)] 14) := by decide +kernel
/-- Chapters 11 to 13. -/
theorem test_decode_memory : (reads 0x9070080400000004 (.ld c7 (.reg 4) (.vec (.reg 8)) ⟨0, false, .b32⟩ 0)
    && reads 0x91700D0100000844 (.st c7 (.reg 6) (.sc 2) ⟨4, false, .b32⟩ 16) && reads 0xA07014010000005B (.atom c7 (.reg 10) (.vec (.reg 2)) ⟨11, false, true, true⟩ 0)
    && reads 0xA570000000000402 (.phase c7 4 true false) && reads 0x9970000400000000 (.seal c7 (.vec (.reg 8)) 0)
    && reads 0xA474190500000000 (.satom c7 12 10 ⟨0, false, false, false⟩ 0) && reads 0xA6740D0160304101 (.wait c7 1 6 2 (.const 1) (.reg 8) .eq false)
    && reads 0xB370018180000000 (.barSync c7 (.const 3) false) && reads 0xB070018060600000 (.barInitLane c7 (.const 0) (.const 3))) = true := by decide +kernel
/-- Chapters 14 to 19. -/
theorem test_decode_engines : (reads 0xF074290942000000 (.pgInvalPage c7 20 (.reg 18) (.reg 16)) && reads 0xF2740902E0004000 (.qctlPause c7 4 (.reg 5) (.const 0))
    && reads 0xC474210A43D81001 (.cpLin c7 (.glob 16) (.off (.reg 20)) (.reg 30) (.const 2) .sg) && reads 0xC574040000000000 (.recFence c7 2)
    && reads 0xC074050840B03001 (.cpTileThen c7 2 16 (.reg 5) (.reg 6))
    && reads 0xD870010200000000 (.fdl c7 0 (.reg 4)) && reads 0xD070010380000404 (.mx c7 0 0 (.reg 7) 0 0 1 true false) && reads 0xD170010300000400 (.mxLdb c7 0 0 (.reg 6) 1)
    && reads 0xD370200060000000 (.mxRd c7 (.reg 16) 0 (.const 0)) && reads 0xE074110500000000 (.klaunch c7 8 10) && reads 0xE170000000000002 (.rgn c7 2)
    && reads 0xE270000280000000 (.ckacc c7 (.reg 5)) && reads 0xE370010300000001 (.chk c7 (.reg 6) true) && reads 0x1874098000000000 (.capRd c7 4 (.const 0))
    && reads 0xE470018A00000000 (.memhintCompute c7 (.const 20))) = true := by decide +kernel
/-- A refused word of each kind of check: an opcode without a row, a FUNC value, a reserved bit, a constant code (Table 2.15). -/
theorem test_decode_refuses : decode 0x1A70000000000000 none = .error .badOp ∧ decode 0x4070000000000004 none = .error .badFunc ∧
    decode 0x0070000000000001 none = .error .reserved ∧ decode 0x407000006B000001 none = .error .reserved := by decide +kernel

/-! ### Witnesses: states that meet the hypotheses of the statements -/

def slot0 : WaveRef := ⟨0, 0, 0⟩
def split0 : SplitRef := ⟨slot0, 0⟩
/-- The state in which the placed instruction of n bits is handed to its meaning. -/
def atIssue (n w : Nat) : State :=
  let s := State.reset.withFetchWord n w
  match fetchInstr (setRun { s with agenda := s.agenda.tail, tick := s.tick + 1 } split0) split0 with
  | .go t cu _ => { t with cur := some cu }
  | .gone t => t
def placed (i : Instr) : State :=
  match encode i with
  | [w] => atIssue 64 w.toNat
  | [w, v] => atIssue 128 (v.toNat * 2 ^ 64 + w.toNat)
  | _ => State.reset
def waveAt (s : State) : Wave := (s.wave slot0).getD (slotWave 1)
def curAt (s : State) : Cur := s.cur.getD ⟨split0, 0, 0⟩
def issuesB (s : State) (i : Instr) (c : Cm) (cu : Cur) (w : Wave) : Bool :=
  decide (s.cur = some cu) && decide (s.wave cu.u.w = some w) && !(isPriv i && w.asid != 0) && !idxHazard s w (refsOf i) && !boundsBad s w (refsOf i)
    && ((issueOf s c cu w).cap.isSome || !hazard s w c (refsOf i))
theorem issues_of {s : State} {i : Instr} {c : Cm} {cu : Cur} {w : Wave} (h : issuesB s i c cu w = true) : Issues s i c cu w := by
  simp only [issuesB, Bool.and_eq_true, decide_eq_true_eq, Bool.not_eq_true', Bool.or_eq_true] at h
  refine ⟨h.1.1.1.1.1, h.1.1.1.1.2, h.1.1.1.2, h.1.1.2, h.1.2, fun k => ?_⟩
  rcases h.2 with g | g
  · rw [k] at g; exact absurd g (by simp)
  · exact g
def meetsB (s : State) (i : Instr) (p : State → Issue → Bool) : Bool :=
  issuesB s i c7 (curAt s) (waveAt s) && p s (issueOf s c7 (curAt s) (waveAt s))
/-- Instruction i issues in s in split 0, and p holds of the issue. -/
def Meets (s : State) (i : Instr) (p : State → Issue → Bool) : Prop :=
  ∃ cu w, Issues s i c7 cu w ∧ w = waveAt s ∧ p s (issueOf s c7 cu w) = true
theorem meets_of {s : State} {i : Instr} {p : State → Issue → Bool} (h : meetsB s i p = true) : Meets s i p := by
  simp only [meetsB, Bool.and_eq_true] at h
  exact ⟨_, _, issues_of h.1, rfl, h.2⟩
/-- Each instruction of a list issues, placed on its own, with a lane in E. -/
def AllIssue (l : List Instr) : Prop := ∀ i ∈ l, Meets (placed i) i (fun _ j => j.e != 0)
theorem allIssue_of {l : List Instr} (h : l.all (fun i => meetsB (placed i) i (fun _ j => j.e != 0)) = true) : AllIssue l :=
  fun i hi => meets_of (List.all_eq_true.mp h i hi)

def rv (n : Nat) : VSrc := .reg (BitVec.ofNat 8 n)
def dv (n : Nat) : VDst := .reg (BitVec.ofNat 8 n)
def sr (n : Nat) : SSrc := .reg (BitVec.ofNat 6 n)
def fN : IntF := ⟨0, 0, false, .n⟩
def ld0 : LdF := ⟨0, false, .b32⟩
def at0 : AtF := ⟨0, false, false, false⟩
def ga : GAddr := .sc 8

theorem wit_ScalarIntegerResults : AllIssue
    [.sadd c7 3 (sr 4) (sr 5) fS, .ssub c7 3 (sr 4) (sr 5) fS, .smul c7 3 (sr 4) (sr 5) fS, .smad c7 3 (sr 4) (sr 5) (sr 6) fS, .sand c7 3 (sr 4) (sr 5) fB, .sor c7 3 (sr 4) (sr 5) fB,
     .sxor c7 3 (sr 4) (sr 5) fB, .sshl c7 3 (sr 4) (sr 5) fB, .sshr c7 3 (sr 4) (sr 5) fS, .smin c7 3 (sr 4) (sr 5) fS, .smax c7 3 (sr 4) (sr 5) fS, .ssel c7 3 (sr 4) (sr 5) (sr 6) fB,
     .smov c7 3 (sr 4) fB, .sbit c7 3 (sr 4) fB, .saddi c7 3 4 5 ⟨false, .s⟩, .sandi c7 3 4 5, .sori c7 3 4 5, .sxori c7 3 4 5, .sshli c7 3 4 5, .sshri c7 3 4 5 true, .smuli c7 3 4 5 ⟨false, .s⟩] :=
  allIssue_of (by decide +kernel)
theorem wit_ScalarComparesAndPairs : AllIssue
    [.scmp c7 (sr 4) (sr 5) fS, .scmpi c7 1 4 5 .ltS, .sadd64 c7 4 (.reg 6) (.reg 8) fB, .ssub64 c7 4 (.reg 6) (.const 1) fB, .sla c7 4 (.reg 6) (sr 5) fS] :=
  allIssue_of (by decide +kernel)
theorem wit_VectorIntegerResults : AllIssue
    [.vadd c7 (dv 3) (rv 4) (rv 5) fS, .vsub c7 (dv 3) (rv 4) (rv 5) fS, .vmul c7 (dv 3) (rv 4) (rv 5) fS, .vmad c7 (dv 3) (rv 4) (rv 5) (rv 6) fS, .vand c7 (dv 3) (rv 4) (rv 5) fB,
     .vor c7 (dv 3) (rv 4) (rv 5) fB, .vxor c7 (dv 3) (rv 4) (rv 5) fB, .vshl c7 (dv 3) (rv 4) (rv 5) fB, .vshr c7 (dv 3) (rv 4) (rv 5) fS, .vmin c7 (dv 3) (rv 4) (rv 5) fS, .vmax c7 (dv 3) (rv 4) (rv 5) fN,
     .vabs c7 (dv 3) (rv 4) fS, .vsel c7 (dv 3) (rv 4) (rv 5) fB, .vmov c7 (dv 3) (rv 4) fB, .vbit c7 (dv 3) (rv 4) fB, .vbfe c7 (dv 3) (rv 4) (rv 5) fS, .vbfi c7 (dv 3) (rv 4) (rv 5) (rv 6) fB,
     .vdp4 c7 (dv 3) (rv 4) (rv 5) (rv 6) fS, .vdp2 c7 (dv 3) (rv 4) (rv 5) (rv 6) fS, .vsad c7 (dv 255) (rv 255) (rv 0) (rv 6) fB] :=
  allIssue_of (by decide +kernel)
theorem wit_ImmediateResults : AllIssue
    [.vaddi c7 3 4 5 ⟨true, .s⟩, .vandi c7 3 4 5, .vori c7 3 4 5, .vxori c7 3 4 5, .vmuli c7 3 4 5 ⟨false, .n⟩, .vshli c7 3 4 32, .vshri c7 3 4 32 true, .vcmpi c7 7 4 5 .geN, .vli c7 255 5, .sli c7 63 5] :=
  allIssue_of (by decide +kernel)
theorem wit_VectorCompareAndCarry : AllIssue [.vcmp c7 (rv 4) (rv 5) fS, .vaddc c7 (dv 3) (rv 4) (rv 5) ⟨1, 0, false, .b⟩, .vsubb c7 (dv 3) (rv 4) (rv 5) ⟨1, 1, false, .b⟩] :=
  allIssue_of (by decide +kernel)
theorem wit_FloatResults : AllIssue
    [.fadd c7 (dv 3) (rv 4) (rv 5) fF, .fsub c7 (dv 3) (rv 4) (rv 5) fF, .fmul c7 (dv 3) (rv 4) (rv 5) fF, .ffma c7 (dv 3) (rv 4) (rv 5) (rv 6) fF, .fmin c7 (dv 3) (rv 4) (rv 5) fF, .fmax c7 (dv 3) (rv 4) (rv 5) fF,
     .frnd c7 (dv 3) (rv 4) fF, .frcp c7 (dv 3) (rv 4) fF, .frsq c7 (dv 3) (rv 4) fF, .fex2 c7 (dv 3) (rv 4) fF, .flg2 c7 (dv 3) (rv 4) fF, .fscl c7 (dv 3) (rv 4) (rv 5) fF,
     .fcmp c7 (rv 4) (rv 5) fF, .fcls c7 (rv 4) (rv 5) fF] := allIssue_of (by decide +kernel)
theorem wit_FloatClasses : Meets (placed (.fcls c7 (rv 4) (rv 5) fF)) (.fcls c7 (rv 4) (rv 5) fF) (fun _ j => j.e != 0) := meets_of (by decide +kernel)
theorem wit_PackedAndConversionResults : AllIssue
    [.hadd2 c7 (dv 3) (rv 4) (rv 5) ⟨0, false, .rn, false⟩, .hmul2 c7 (dv 3) (rv 4) (rv 5) ⟨0, false, .rn, true⟩, .hfma2 c7 (dv 3) (rv 4) (rv 5) (rv 6) ⟨0, true, .rz, false⟩,
     .hmin2 c7 (dv 3) (rv 4) (rv 5) ⟨0, false, .rn, false⟩, .hmax2 c7 (dv 3) (rv 4) (rv 5) ⟨0, false, .rn, false⟩, .hcmp2 c7 (dv 3) (rv 4) (rv 5) ⟨1, false, .rn, false⟩,
     .hdot2 c7 (dv 3) (rv 4) (rv 5) (rv 6) ⟨0, false, .rn, false⟩, .cvt c7 (dv 3) (rv 4) ⟨.f32, .s32, false, .rz, false⟩, .pack c7 (dv 3) (rv 4) (rv 5) ⟨2, false, .rn, true, false⟩,
     .cvtn c7 (dv 3) (rv 4) (rv 5) none ⟨.e4m3, 0, .rn⟩, .cvtn c7 (dv 3) (rv 4) (rv 5) (some (dv 6)) ⟨.e2m1, 1, .rn⟩] := allIssue_of (by decide +kernel)
theorem wit_LaneExchange : AllIssue
    [.shfl c7 (dv 3) (rv 4) (rv 5) (rv 6) ⟨1, 0⟩, .vred c7 (dv 3) (rv 4) ⟨0, false, .rn, .s⟩, .vscan c7 (dv 3) (rv 4) ⟨0, true, .rn, .s⟩, .v2s c7 3 (rv 4) none, .v2s c7 3 (rv 4) (some (sr 5)),
     .vins c7 (dv 3) (rv 4) (sr 5)] := allIssue_of (by decide +kernel)
theorem wit_PredicatesAndVotes : AllIssue
    [.pand c7 1 2 3 ⟨false⟩, .por c7 1 2 3 ⟨true⟩, .pxor c7 7 2 3 ⟨false⟩, .pnot c7 1 2, .pmov c7 (.p 1 2), .pmov c7 (.set 1 (rv 2)), .pmov c7 (.nz 1 (rv 2)), .pmov c7 (.v (dv 1) 2),
     .elect c7 3, .vote c7 (.or 1) 2, .vote c7 (.and 1) 2, .vote c7 (.eq 1) 2, .vote c7 (.bits 5) 2, .vote c7 (.cnt 5) 7] := allIssue_of (by decide +kernel)
theorem wit_NopDoesNothing : AllIssue [.nop c7] := allIssue_of (by decide +kernel)
theorem wit_SystemRegisters : AllIssue
    ([VReadSel.laneId, .tidX, .tidY, .tidZ].map (fun v => .vread c7 (dv 3) v) ++
     [SysReg.waveId, .allot, .clkLo, .clkHi, .preq, .xidx3].map (fun r => .sread c7 4 r) ++ [SysReg.splOvf, .nanDrop, .xidx0, .xidx1, .xidx2, .xidx3].map (fun r => .swrite c7 (sr 4) r) ++
     [.splInfo c7 4 0, .splInfo c7 4 12]) := allIssue_of (by decide +kernel)

/-- sdiv: with a free divider, and while it is taken. -/
theorem wit_ScalarDivide : let i : Instr := .sdiv c7 4 (sr 5) (sr 6) fS
    Meets (placed i) i (fun s j => j.e != 0 && decide (j.w.sdivTill ≤ s.now)) ∧
    Meets ((placed i).updWave slot0 (fun w => { w with sdivTill := 36 })) i (fun s j => j.e != 0 && decide (s.now < j.w.sdivTill)) :=
  ⟨meets_of (by decide +kernel), meets_of (by decide +kernel)⟩
/-- fdiv and fsqrt: with the divide unit free, and taken. -/
theorem wit_DivideUnit : let i : Instr := .fdiv c7 (dv 3) (rv 4) (rv 5) fF
    let k : Instr := .fsqrt c7 (dv 3) (rv 4) fF
    Meets (placed i) i (fun s j => j.e != 0 && divFree s j.u.w) ∧ Meets (placed k) k (fun s j => j.e != 0 && divFree s j.u.w) ∧
    Meets (takesDiv (placed i) slot0) i (fun s j => j.e != 0 && !divFree s j.u.w) ∧ Meets (takesDiv (placed k) slot0) k (fun s j => j.e != 0 && !divFree s j.u.w) := by
  repeat' apply And.intro
  all_goals exact meets_of (by decide +kernel)

/-- Instruction i with guard and settle fields c issues in s in split 0, and p holds of the issue. -/
def meetsCB (s : State) (i : Instr) (c : Cm) (p : State → Issue → Bool) : Bool :=
  issuesB s i c (curAt s) (waveAt s) && p s (issueOf s c (curAt s) (waveAt s))
def MeetsC (s : State) (i : Instr) (c : Cm) (p : State → Issue → Bool) : Prop :=
  ∃ cu w, Issues s i c cu w ∧ w = waveAt s ∧ p s (issueOf s c cu w) = true
theorem meetsC_of {s : State} {i : Instr} {c : Cm} {p : State → Issue → Bool} (h : meetsCB s i c p = true) : MeetsC s i c p := by
  simp only [meetsCB, Bool.and_eq_true] at h
  exact ⟨_, _, issues_of h.1, rfl, h.2⟩
/-- A placed instruction, with the placed wave changed. -/
def placedW (i : Instr) (f : Wave → Wave) : State := (placed i).updWave slot0 f
def someE (_ : State) (j : Issue) : Bool := j.e != 0
/-- The state after exec of a placed instruction. -/
def nextOf (r : Host.Outcome State Fault Refusal) : State :=
  match r with
  | .next t => t
  | .fault _ => State.reset
  | .refused _ => State.reset
def isNext (r : Host.Outcome State Fault Refusal) : Bool :=
  match r with
  | .next _ => true
  | .fault _ => false
  | .refused _ => false
def after (i : Instr) : State := nextOf (exec i (placed i))
def c0 : Cm := ⟨false, 0, false⟩
def c3 : Cm := ⟨false, 3, false⟩

/-- The clauses with no lane in E: an instruction whose guard p0 is false in every lane. -/
theorem wit_no_lane : MeetsC (placed (.nop c0)) (.nop c0) c0 (fun _ j => j.e == 0) ∧
    MeetsC (placed (.ld c0 (dv 3) ga ld0 0)) (.ld c0 (dv 3) ga ld0 0) c0 (fun _ j => j.e == 0) := ⟨meetsC_of (by decide +kernel), meetsC_of (by decide +kernel)⟩

/-- The words that slice 0's turn reads in s for split 0, with the state after the reads; what TurnWord asks of them. -/
def turnRead (s : State) : State × W64 × W64 × Bool :=
  let w := waveAt s
  let f := fetchWord (setRun (begun s 0 s.agenda.tail) split0) w (w.split 0).pc
  let g := if twoWords f.2.1 && wordsLeft (w.split 0) != 0 then fetchWord f.1 w ((w.split 0).pc + 8) else (f.1, 0, 0)
  (g.1, f.2.1, g.2.1, f.2.2 == 0 && g.2.2 == 0)
def turnB (s : State) : Bool :=
  decide (s.agenda = .issue 0 0 0 :: s.agenda.tail) && decide (sliceAct (begun s 0 s.agenda.tail) 0 0 0 = .word split0)
    && decide ((setRun (begun s 0 s.agenda.tail) split0).wave slot0 = some (waveAt s)) && (turnRead s).2.2.2
theorem turn_of {s : State} (h : turnB s = true) : TurnWord s 0 0 0 s.agenda.tail split0 (waveAt s) (turnRead s).2.1 (turnRead s).2.2.1 (turnRead s).1 := by
  simp only [turnB, Bool.and_eq_true, decide_eq_true_eq] at h
  have k := h.2
  unfold turnRead at k
  have k := (Bool.and_eq_true _ _).mp k
  refine ⟨h.1.1.1, h.1.1.2, h.1.2, (fetchWord (setRun (begun s 0 s.agenda.tail) split0) (waveAt s) ((waveAt s).split 0).pc).1, ?_, ?_⟩
  · exact Prod.ext rfl (Prod.ext rfl (eq_of_beq k.1))
  · exact Prod.ext rfl (Prod.ext rfl (eq_of_beq k.2))
/-- What the checks of the fetched word ask of it: its clause, its place, its privilege. -/
def wordOk (s : State) : Bool :=
  let x := (waveAt s).split 0
  let w0 := (turnRead s).2.1
  fitsClause (x.hdrw.getD 0) (fOp w0).toNat && !placementBad w0 (turnRead s).2.2.1 (wordsLeft x) && decide ((fOp w0).toNat < 0xF0 ∨ (waveAt s).asid = 0)
def read0 (s : State) : Except DecErr Instr := decode (turnRead s).2.1 (some (turnRead s).2.2.1)
def vaddAt : State := State.reset.withFetchWord 64 0x40A808A660600001
def brmAt : State := State.reset.withFetchWord 128 (0x0000000B00080005 * 2 ^ 64 + 0x0270284000007000)
theorem wit_StepRunsDecoded :
    (turnB vaddAt = true ∧ wordOk vaddAt = true ∧ read0 vaddAt = .ok (.vadd ⟨true, 2, true⟩ (.reg 4) (.ind 1 12) (.const 3) fS)) ∧
    (turnB brmAt = true ∧ wordOk brmAt = true ∧ read0 brmAt = .ok (.brm c7 [(0, 5), (1, 8), (2, 11)] 14)) ∧
    (let s := { State.reset with agenda := [.event .ioDie1Fault] }
     let s0 := { s with agenda := [], tick := s.tick + 1 }
     let t := nextOf (exec .ioDie1Fault s0)
     s.agenda = .event .ioDie1Fault :: [] ∧ isNext (exec .ioDie1Fault s0) = true ∧ t.now = s.now ∧ outOfOrder s.rows (rowsTaken s0 (.event .ioDie1Fault) t) = false ∧
     outOfOrder [⟨none, [192, 0x31], 99⟩] (rowsTaken s0 (.event .ioDie1Fault) t) = true) := by
  decide +kernel
theorem wit_EncodedInstructionsDecode : Instr.wf (.vadd ⟨true, 2, true⟩ (.reg 4) (.ind 1 12) (.const 3) fS) = true ∧
    encode (.vadd ⟨true, 2, true⟩ (.reg 4) (.ind 1 12) (.const 3) fS) = 0x40A808A660600001 :: [] ∧
    Instr.wf (.brm c7 [(0, 5), (1, 8), (2, 11)] 14) = true ∧ encode (.brm c7 [(0, 5), (1, 8), (2, 11)] 14) = 0x0270284000007000 :: [0x0000000B00080005] := by decide +kernel
theorem wit_EncodedImmediatesDecode : Instr.wf (.vli c7 255 5) = true ∧ Instr.wf (.vmuli c7 3 4 5 ⟨false, .n⟩) = true ∧ Instr.wf (.bra c7 10 10) = true := by decide +kernel
theorem wit_DecodedWordsEncodeBack : decode 0x60700401EA000008 (some 0) = .ok (.fadd c7 (.reg 2) (.reg 3) (.const 0x50) ⟨0, 0, false, .rm⟩) := by decide +kernel
theorem wit_StepKeepsMemoryForm : hbmWf State.reset.hbm = true ∧ (match step (State.reset.withFetchWord 64 0) with | .next _ => true | _ => false) = true ∧
    hbmWf [(0, 5), (7, 1)] = true ∧ hbmWf [(0, 0)] = false ∧ hbmWf [(7, 1), (0, 5)] = false := by decide +kernel

/-! Control and exceptions (chapters 06 and 10). -/

/-- A transfer whose lanes fault nowhere and find places; the lanes below 16 and those above go different ways where p0 says so. -/
def halves (w : Wave) : Wave := { w with p := [(0, (0xFFFF, 0))] }
theorem wit_BranchesDivide : let room (s : State) (n : Nat) (j : Issue) (d : Nat → Addr) : Bool := !divideBad (s.advance j.u n) j ((lanes j.sp.mask).map (fun l => (l, d l)))
    Meets (placed (.bra c7 10 10)) (.bra c7 10 10) (fun s j => j.e != 0 && j.gp == 0 && room s 1 j (fun _ => relAddr j.sp.pc (10 : BitVec 24))) ∧
    MeetsC (placedW (.bra c0 10 10) halves) (.bra c0 10 10) c0 (fun s j => j.e == 0xFFFF && j.gp == 0 && room s 1 j (fun l => if j.e.getLsbD l then relAddr j.sp.pc (10 : BitVec 24) else nextHeader j.sp)) ∧
    Meets (placedW (.brm c7 [(0, 5), (1, 8)] 14) halves) (.brm c7 [(0, 5), (1, 8)] 14) (fun s j => j.e != 0 && j.gp == 0 &&
      (lanes j.sp.mask).all (fun l => !(brmLane s j.w j.sp.pc (nextHeader j.sp) l [(0, 5), (1, 8)]).2) &&
      room s 2 j (fun l => (brmLane s j.w j.sp.pc (nextHeader j.sp) l [(0, 5), (1, 8)]).1)) ∧
    Meets (placed (.brx c7 (rv 4) 14)) (.brx c7 (rv 4) 14) (fun s j => (offFaults s j (rv 4)).isEmpty && room s 1 j (fun l => codeAddr s j.w (vsrc s j.w .int (rv 4) 0 l).v)) ∧
    Meets (placed (.ret c7 (rv 4))) (.ret c7 (rv 4)) (fun s j => (offFaults s j (rv 4)).isEmpty && room s 1 j (fun l => codeAddr s j.w (vsrc s j.w .int (rv 4) 0 l).v)) :=
  ⟨meets_of (by decide +kernel), meetsC_of (by decide +kernel), meets_of (by decide +kernel), meets_of (by decide +kernel), meets_of (by decide +kernel)⟩
theorem wit_CallsWriteLink : Meets (placed (.call c7 (dv 3) 10)) (.call c7 (dv 3) 10) (fun s j => j.gp == 0 && !divideBad (s.advance j.u 1) j ((lanes j.sp.mask).map (fun l => (l, relAddr j.sp.pc (10 : BitVec 24))))) ∧
    Meets (placed (.callx c7 (dv 3) (rv 4))) (.callx c7 (dv 3) (rv 4)) (fun s j => (offFaults s j (rv 4)).isEmpty &&
      !divideBad (s.advance j.u 1) j ((lanes j.sp.mask).map (fun l => (l, codeAddr s j.w (vsrc s j.w .int (rv 4) 0 l).v)))) := ⟨meets_of (by decide +kernel), meets_of (by decide +kernel)⟩
/-- Where a transfer of n words stands: 0 no lane faults, 1 and 2 lanes that fault can and cannot be parked, 3 too few places. -/
def transferCase (n : Nat) (fs : State → Issue → List LaneA) (d : State → Issue → Nat → Addr) (s : State) (j : Issue) : Nat :=
  let a := s.advance j.u n
  let f := fs s j
  let fm := maskOf (fun l => f.any (fun x => x.lane == l && x.cause != 0))
  if divideBad a j ((lanes (j.sp.mask &&& ~~~fm)).map (fun l => (l, d s j l))) then 3
  else if f.isEmpty then 0
  else match parkLanes a j.u j.sp j.word false f 0 with
    | .yes _ => 1
    | .no _ => 2
/-- p0 is poisoned in lanes 0 and 1; every split and every place of the stack is taken. -/
def badGuard (w : Wave) : Wave := { w with p := [(0, (0xFFFF, 3))] }
def full (w : Wave) : Wave := { halves w with splits := List.replicate 4 (w.split 0), stack := List.replicate 16 ⟨1, 0x20000, noneRpc⟩ }
/-- Each of the three cases of an instruction: a poisoned guard that parks, or that meets a handler; and a full wave. -/
def Transfers (i : Instr) (c : Cm) (n : Nat) (fs : State → Issue → List LaneA) (d : State → Issue → Nat → Addr) : Prop :=
  MeetsC (placedW i badGuard) i c (fun s j => transferCase n fs d s j == 1) ∧
  MeetsC (placedW i (fun w => { badGuard w with hmode := true })) i c (fun s j => transferCase n fs d s j == 2) ∧
  MeetsC (placedW i full) i c (fun s j => transferCase n fs d s j == 3)
def toRel (_ : State) (j : Issue) (l : Nat) : Addr := if j.e.getLsbD l then relAddr j.sp.pc (10 : BitVec 24) else nextHeader j.sp
def toReg (s : State) (j : Issue) (l : Nat) : Addr := if j.e.getLsbD l then codeAddr s j.w (vsrc s j.w .int (rv 4) 0 l).v else nextHeader j.sp
def toPair (s : State) (j : Issue) (l : Nat) : Addr × Bool := if j.e.getLsbD l then brmLane s j.w j.sp.pc (nextHeader j.sp) l [(0, 5), (1, 8)] else (nextHeader j.sp, false)
theorem wit_BranchesDivide_faults :
    Transfers (.bra c0 10 10) c0 1 (fun _ j => faultMask j.gp 0x104) toRel ∧
    Transfers (.brm c7 [(0, 5), (1, 8)] 14) c7 2 (fun s j => faultMask (maskOf (fun l => j.gp.getLsbD l || (j.sp.mask.getLsbD l && (toPair s j l).2))) 0x104) (fun s j l => (toPair s j l).1) ∧
    Transfers (.brx c0 (rv 4) 14) c0 1 (fun s j => offFaults s j (rv 4)) toReg ∧
    Transfers (.ret c0 (rv 4)) c0 1 (fun s j => offFaults s j (rv 4)) toReg := by
  refine ⟨⟨?_, ?_, ?_⟩, ⟨?_, ?_, ?_⟩, ⟨?_, ?_, ?_⟩, ⟨?_, ?_, ?_⟩⟩
  all_goals exact meetsC_of (by decide +kernel)
theorem wit_CallsWriteLink_faults :
    Transfers (.call c0 (dv 3) 10) c0 1 (fun _ j => faultMask j.gp 0x104) toRel ∧
    Transfers (.callx c0 (dv 3) (rv 4)) c0 1 (fun s j => offFaults s j (rv 4)) toReg := by
  refine ⟨⟨?_, ?_, ?_⟩, ⟨?_, ?_, ?_⟩⟩
  all_goals exact meetsC_of (by decide +kernel)
/-- A handler holds the lanes of a misaligned offset back too. -/
theorem wit_BranchesDivide_misaligned : Meets (placedW (.brx c7 (rv 4) 14) (fun w => { w with v := [(4, List.replicate 32 ⟨4, false⟩)] })) (.brx c7 (rv 4) 14)
    (fun s j => transferCase 1 (fun s j => offFaults s j (rv 4)) toReg s j == 1 && (offFaults s j (rv 4)).all (fun l => l.cause == 0x105)) := meets_of (by decide +kernel)
/-- Six destinations: four splits, and two sets on the stack. -/
theorem wit_DivisionPlacesEveryLane : let s := placed (.bra c7 10 10)
    let i := issueOf s c7 (curAt s) (waveAt s)
    let w := waveAt s
    s.wave i.u.w = some w ∧ w.splits.length = 4 ∧ i.u.k < 4 ∧ (w.split i.u.k).inUse = true ∧ (w.split i.u.k).mask = i.sp.mask ∧ i.sp.mask ≠ 0 ∧
    divideBad s i ((lanes i.sp.mask).map (fun l => (l, BitVec.ofNat 56 (0x10000 * (1 + l % 6))))) = false := by decide +kernel
theorem wit_ExitRetiresLanes : Meets (placed (.exit c7)) (.exit c7) someE ∧ MeetsC (placed (.exit c0)) (.exit c0) c0 (fun _ j => j.e == 0) ∧
    Meets ({ placedW (.exit c7) (fun w => { w with twin := true }) with twins := [(5, ⟨5, 0, 0, 0, 0, 0, 0, 0, 0, some 0, 0, false⟩)] }) (.exit c7)
      (fun s j => j.e != 0 && j.w.twin && s.twins.any (fun (t : Nat × TwinE) => t.2.block == j.w.block && t.2.copy == j.w.copy && t.2.waveId == j.w.waveId)) :=
  ⟨meets_of (by decide +kernel), meetsC_of (by decide +kernel), meets_of (by decide +kernel)⟩
theorem wit_WavesPause : let yl : Instr := .yield c7 true 7
    let sl : Instr := .sleep c7 (sr 4)
    let s4 (v : Val) (w : Wave) : Wave := { w with s := [(4, v)] }
    MeetsC (placed (.wsync c3)) (.wsync c3) c3 (fun _ _ => c3.pg != 7) ∧ Meets (placed (.wsync c7)) (.wsync c7) (fun _ j => j.w.wsm == 0) ∧
    Meets (placedW (.wsync c7) (fun w => { w with wsm := 1, wspc := 8 })) (.wsync c7) (fun _ j => j.w.wsm != 0 && j.w.wspc != j.sp.pc) ∧
    Meets (placed yl) yl (fun _ j => j.e != 0 && decide (64 ≤ j.w.allot) && !j.w.preq) ∧
    Meets (placedW yl (fun w => { w with allot := 56 })) yl (fun _ j => j.e != 0 && decide (j.w.allot < 64)) ∧
    Meets (placedW yl (fun w => { w with allot := 64, preq := true })) yl (fun _ j => j.e != 0 && decide (64 ≤ j.w.allot) && j.w.preq) ∧
    Meets (placed sl) sl (fun s j => j.e != 0 && (ssrc s j.w (sr 4)).v == 0) ∧
    Meets (placedW sl (s4 ⟨0xFFFFFFFF, false⟩)) sl (fun s j => j.e != 0 && (ssrc s j.w (sr 4)).v == 0xFFFFFFFF) ∧
    Meets (placedW sl (s4 ⟨0, true⟩)) sl (fun s j => j.e != 0 && (ssrc s j.w (sr 4)).psn) :=
  ⟨meetsC_of (by decide +kernel), meets_of (by decide +kernel), meets_of (by decide +kernel), meets_of (by decide +kernel), meets_of (by decide +kernel), meets_of (by decide +kernel),
   meets_of (by decide +kernel), meets_of (by decide +kernel), meets_of (by decide +kernel)⟩
theorem wit_SoftwareTraps : AllIssue [.trap c7 63, .brk c7 0xFFFF] ∧
    (let s := placedW (.pgInvalAll c7 4) (fun w => { w with asid := 5 })
     s.cur = some (curAt s) ∧ s.wave slot0 = some (waveAt s) ∧ (waveAt s).asid ≠ 0) ∧
    (let s := placedW (.vadd c7 (dv 7) (rv 8) (rv 5) fS) (fun w => { w with allot := 8 })
     s.cur = some (curAt s) ∧ s.wave slot0 = some (waveAt s) ∧ boundsBad s (waveAt s) (refsOf (.vadd c7 (dv 7) (rv 8) (rv 5) fS)) = true) :=
  ⟨allIssue_of (by decide +kernel), by decide +kernel, by decide +kernel⟩
/-- A context whose frames stand in two writable lines at 0x20000, and whose handler is at 0x8000. -/
def withFrame (s : State) (bytes : List Byte) : State :=
  let ln (i : Nat) : SLine := { slotLine [] with data := ((bytes ++ List.replicate 256 0).drop (128 * i)).take 128 }
  { s.setCtx 0 { s.ctx 0 with handler := 0x8000, frameBase := 0x20000 } with slines := s.slines ++ [((0, 0x400), ln 0), ((0, 0x401), ln 1)] }
def trapped : State := withFrame (placedW (.nop c7) (fun w => { w with trap := some ⟨0, 0x10008, 0x10000, 0x40, 0⟩ })) []
theorem wit_TrapsAndHandlerEntry : ((placedW (.nop c7) (fun w => { w with hmode := true })).wave slot0).any (·.hmode) = true ∧
    ((placed (.nop c7)).wave slot0).any (fun w => !w.hmode) = true ∧ ((placed (.nop c7)).ctx 0).handler = 0 ∧
    (withFrame (placed (.nop c7)) []).ops = [] ∧ ((withFrame (placed (.nop c7)) []).ctx 0).handler ≠ 0 ∧
    (let s := { trapped with ops := [(9, { blankOp (issueOf trapped c7 (curAt trapped) (waveAt trapped)) (.store 4 false) [] with left := true })] }
     drainWait s (waveAt s).uid = true) ∧
    (let w := settleWave (trapped.cyc 0) (waveAt trapped)
     let f := frameAddr trapped slot0 w
     let h := devRead trapped w.asid f 256
     drainWait trapped (waveAt trapped).uid = false ∧ fixedTill (waveAt trapped) ≤ trapped.cyc 0 ∧ 0 < w.splits.length ∧ h.2.2.1 = 0 ∧ h.2.2.2 = 0 ∧
       (coreStoreNow h.1 0 0 w.asid f (frameBytes h.1 w ⟨0, 0x10008, 0x10000, 0x40, 0⟩)).2 = 0) ∧
    (let s := trapped.addPend slot0 (due trapped (.s 5) 1 [(0, ⟨1, false⟩)] 4)
     s.cyc 0 < fixedTill (waveAt s)) := by decide +kernel
theorem wit_TretReturns : MeetsC (placed (.nop c7)) (.tret c3) c3 (fun _ _ => c3.pg != 7) ∧ Meets (placed (.tret c7)) (.tret c7) (fun _ j => !j.w.hmode) ∧
    Meets (placedW (.tret c7) (fun w => { w with hmode := true })) (.tret c7) (fun s j => j.w.hmode && !storesOutL1 (s.advance j.u 1) j.w.uid) ∧
    (let s := placedW (.tret c7) (fun w => { w with hmode := true })
     let x : Op := { blankOp (issueOf s c7 (curAt s) (waveAt s)) (.store 4 false) [] with space := .glob, lanes := [mkLane 0 (0x10040, false) noData noData] }
     Meets { s with ops := [(8, x), (9, { x with after := [8] })] } (.tret c7) (fun s j => j.w.hmode && storesOutL1 (s.advance j.u 1) j.w.uid)) ∧
    (let s := withFrame (placedW (.tret c7) (fun w => { w with hmode := true, frame := 0x20000 })) (leBytes 8 0x10008 ++ leBytes 8 0x10000)
     let r := devRead s 0 (waveAt s).frame 256
     r.2.2.1 = 0 ∧ r.2.2.2 = 0 ∧ leVal (r.2.1.take 8) = 0x10008 ∧ leVal ((r.2.1.drop 8).take 8) = 0x10000) :=
  ⟨meetsC_of (by decide +kernel), meets_of (by decide +kernel), meets_of (by decide +kernel), meets_of (by decide +kernel), by decide +kernel⟩

/-! Memory and barriers (chapters 11 to 13). -/

/-- How a memory instruction stands at issue: 0 no lane, 1 stalls, 2 every lane faults, 3 all lanes start, 4 some lanes fault. -/
def startCase (f : Form) (cap : State → Issue → List LaneA) (s : State) (j : Issue) : Nat :=
  let a := s.advance j.u 1
  let ls := issueLanes a j f (cap a j)
  if j.e = 0 then 0
  else if isCapturedKind f.kind && (fenced a j || decide (8 ≤ (captured a j.w.uid).length) || (f.compared && slackStall a j)) then 1
  else if ls.all (fun l => l.cause != 0) then 2
  else if ls.all (fun l => l.cause == 0) then 3
  else 4
/-- Captured lanes with the operand values of the placed state: every register is 0. -/
def capZ (a : Nat) (_ : State) (j : Issue) : List LaneA := capLanes j (fun _ => (a, false)) (fun _ => noData) (fun _ => noData)
def capZ1 (a : Nat) (_ : State) (j : Issue) : List LaneA := capOne j (a, false) noData
def ldF (f : LdF) (sp : Nat) : Form := ⟨.load (szBytes f.sz) (szSigned f.sz) f.spc, szBytes f.sz, 0, if sp = 1 then 0 else f.scp.toNat, sp, false, false, decide (sp ≠ 1)⟩
def stF (f : LdF) (sp : Nat) : Form := ⟨.store (szBytes f.sz) f.spc, szBytes f.sz, if sp = 1 then 0 else f.scp.toNat, 0, sp, false, decide (sp = 0), decide (sp ≠ 1)⟩
def lane0 (w : Wave) : Wave := { w with v := [(8, ⟨1, false⟩ :: List.replicate 31 Val.zero)] }
theorem wit_LoadsAndStoresIssue :
    Meets (placed (.ld c7 (dv 3) (.vec (dv 8)) ld0 0x40)) (.ld c7 (dv 3) (.vec (dv 8)) ld0 0x40) (fun s j => startCase (ldF ld0 0) (capZ 0x40) s j == 3) ∧
    Meets (placed (.ld c7 (dv 3) ga ld0 1)) (.ld c7 (dv 3) ga ld0 1) (fun s j => startCase (ldF ld0 0) (capZ 1) s j == 2) ∧
    Meets (placedW (.ld c7 (dv 3) (.vec (dv 8)) ld0 0) lane0) (.ld c7 (dv 3) (.vec (dv 8)) ld0 0) (fun s j =>
      startCase (ldF ld0 0) (fun s i => capLanes i (fun l => globAt s i.w (.vec (dv 8)) 0 l) (fun _ => noData) (fun _ => noData)) s j == 4) ∧
    Meets (placed (.st c7 (rv 3) ga ld0 0)) (.st c7 (rv 3) ga ld0 0) (fun s j => startCase (stF ld0 0) (capZ 0) s j == 3) ∧
    (let s := placedW (.st c7 (rv 3) ga ld0 0) (fun w => { w with fences := [(9, 0xFFFFFFFF)] })
     Meets { s with ops := [(9, blankOp (issueOf s c7 (curAt s) (waveAt s)) .close [])] } (.st c7 (rv 3) ga ld0 0) (fun s j => startCase (stF ld0 0) (capZ 0) s j == 1)) ∧
    Meets (placed (.lds c7 (dv 3) (rv 8) ld0 4)) (.lds c7 (dv 3) (rv 8) ld0 4) (fun s j => startCase (ldF ld0 1) (capZ 4) s j == 3) ∧
    Meets (placedW (.lds c7 (dv 3) (rv 8) ld0 0) lane0) (.lds c7 (dv 3) (rv 8) ld0 0) (fun s j =>
      startCase (ldF ld0 1) (fun s i => capLanes i (fun l => offAt (vsrc s i.w .int (rv 8) 0 l) 0) (fun _ => noData) (fun _ => noData)) s j == 4) ∧
    Meets (placed (.sts c7 (rv 3) (rv 8) ld0 4)) (.sts c7 (rv 3) (rv 8) ld0 4) (fun s j => startCase (stF ld0 1) (capZ 4) s j == 3) ∧
    Meets (placed (.ldc c7 (dv 3) (rv 8) ld0 4)) (.ldc c7 (dv 3) (rv 8) ld0 4) (fun s j => startCase (ldF ld0 2) (capZ 4) s j == 3) ∧
    Meets (placed (.stc c7 (rv 3) (rv 8) ld0 4)) (.stc c7 (rv 3) (rv 8) ld0 4) (fun s j => startCase (stF ld0 2) (capZ 4) s j == 3) ∧
    Meets (placed (.sld c7 4 (.glob 8) ld0 4)) (.sld c7 4 (.glob 8) ld0 4) (fun s j => startCase ⟨.load 4 false false, 4, 0, 0, 0, true, false, true⟩ (capZ1 4) s j == 3) ∧
    Meets (placed (.sst c7 (sr 4) (.spad (sr 8)) ld0 4)) (.sst c7 (sr 4) (.spad (sr 8)) ld0 4) (fun s j => startCase ⟨.store 4 false, 4, 0, 0, 1, true, false, false⟩ (capZ1 4) s j == 3) := by
  repeat' apply And.intro
  all_goals exact meets_of (by decide +kernel)
def atF (cas ret : Bool) : Form := ⟨.atom 0 4 cas ret, 4, 0, 0, 0, false, true, true⟩
theorem wit_AtomicsAndSealsIssue :
    Meets (placed (.atom c7 (dv 3) ga at0 4)) (.atom c7 (dv 3) ga at0 4) (fun s j => startCase (atF false true) (capZ 4) s j == 3) ∧
    Meets (placed (.acas c7 (dv 3) ga at0 4)) (.acas c7 (dv 3) ga at0 4) (fun s j => startCase (atF true true) (capZ 4) s j == 3) ∧
    Meets (placed (.red c7 (rv 3) ga at0 4)) (.red c7 (rv 3) ga at0 4) (fun s j => startCase (atF false false) (capZ 4) s j == 3) ∧
    Meets (placed (.redb c7 (rv 3) ga at0 4)) (.redb c7 (rv 3) ga at0 4) (fun s j => startCase (atF false false) (capZ 4) s j == 3) ∧
    Meets (placed (.satom c7 4 8 at0 4)) (.satom c7 4 8 at0 4) (fun s j => startCase { atF false true with scalar := true } (capZ1 4) s j == 3) ∧
    Meets (placed (.lda c7 (dv 3) ga at0 4)) (.lda c7 (dv 3) ga at0 4) (fun s j => startCase ⟨.lda 4, 4, 0, 0, 0, false, false, true⟩ (capZ 4) s j == 3) ∧
    Meets (placed (.seal c7 ga 4)) (.seal c7 ga 4) (fun s j => startCase ⟨.seal, 1, 0, 0, 0, false, true, true⟩ (capZ 4) s j == 3) ∧
    Meets (placed (.unseal c7 ga 4)) (.unseal c7 ga 4) (fun s j => startCase ⟨.unseal, 1, 4, 0, 0, false, true, true⟩ (capZ 4) s j == 3) := by
  repeat' apply And.intro
  all_goals exact meets_of (by decide +kernel)

/-- The state after a placed access, whose operation is number 1, to the line of address 0x10000. -/
def flying (i : Instr) : State := after i
/-- Its statuses are merged. -/
def told (i : Instr) : State := (flying i).updOp 1 (fun x => { x with told := true })
def op1 (s : State) : Op := (s.op 1).getD (blankOp (issueOf s c7 (curAt s) (waveAt s)) .result [])
/-- What the homes ask of a request of operation 1 for line 512, before the line is reached. -/
def asks (s : State) : Bool :=
  let x := op1 s
  decide (s.op 1 = some x) && x.twin == 0 && mayRequest s x && lineLanes x 512 != [] && !storeBlocked s 1 x (lineLanes x 512)
    && (lineLanes x 512).all (fun l => !loadWaits s 1 x.w x.asid x.kind l) && !holdsBack s x.asid (128 * 512) && x.lanes.all (fun l => l.cause == 0) && decide (x.space = .glob)
/-- The line is reached, with its poison bits as given; or it is refused with a cause. -/
def reaches (s : State) (k : AccK) (psn : Bool) : Bool :=
  match reachLine (arriveAt s 0 (128 * 512)) 0 (128 * 512) k with
  | (t, .ok l) => (l.psn || l.pp) == psn && t.flawed == []
  | _ => false
def fails (s : State) (k : AccK) : Bool :=
  match reachLine (arriveAt s 0 (128 * 512)) 0 (128 * 512) k with
  | (_, .bad c) => c != 0
  | _ => false
/-- The line of address 0x10000 changed. -/
def line512 (s : State) (f : SLine → SLine) : State := { s with slines := tupd s.slines (0, 512) f }
theorem wit_AccessesArePerformed : let st := told (.st c7 (rv 3) ga ld0 0x10040)
    let ac := told (.atom c7 (dv 3) ga at0 0x10040)
    let rb := told (.redb c7 (rv 3) ga at0 0x10040)
    (op1 st).kind = .store 4 false ∧ asks st = true ∧ inWindow 0 (128 * 512) = false ∧ reaches st .wr false = true ∧
    asks (flying (.st c7 (rv 3) ga ld0 0x10040)) = false ∧
    (let late := line512 st (fun l => { l with w := false })
     asks late = true ∧ fails late .wr = true) ∧
    (op1 ac).kind = .atom 0 4 false true ∧ asks ac = true ∧ reaches ac .wr false = true ∧ (op1 rb).word.extractLsb' 56 8 = 0xA3 ∧ asks rb = true ∧ reaches rb .wr false = true ∧
    (let ps := line512 ac (fun l => { l with psn := true })
     asks ps = true ∧ reaches ps .wr true = true) := by decide +kernel
/-- The line of address 0x10000 in the core's L1. -/
def inCore (s : State) : State := s.setCore 0 0 { s.core 0 0 with l1 := [⟨0, 512, leBytes 128 0, false, false⟩] }
/-- Lane 0 of operation 1 takes cause 0x100, and the others pass where `rest` holds. -/
def oneFails (s : State) (rest : Bool) : State := s.updOp 1 (fun x => { x with lanes := x.lanes.map (fun l => if l.lane = 0 ∨ rest = false then { l with cause := 0x100 } else { l with chk := true }) })
/-- The faulting lanes can be parked. -/
def parksFaults (s : State) : Bool :=
  let x := op1 s
  let u : SplitRef := ⟨x.w, x.k⟩
  let bad := spread x.scalar x.e (x.lanes.filter (fun l => l.cause != 0))
  let sp := { s.split u with hold := .none }
  bad != [] && (match parkLanes (takeOut s 1 x) u sp x.word true bad 1 with | .yes _ => true | .no _ => false)
    && (match parkLanes s u sp x.word true bad 1 with | .yes _ => true | .no _ => false)
theorem wit_FillsAndStatuses : let ld := flying (.ld c7 (dv 3) ga ld0 0x10040)
    let tl := told (.ld c7 (dv 3) ga ld0 0x10040)
    (op1 ld).kind = .load 4 false false ∧ asks tl = true ∧ reaches tl .rd false = true ∧ (l1Find (tl.core 0 0) 0 512).isNone = true ∧
    (asks (inCore tl) = true ∧ (l1Find ((inCore tl).core 0 0) 0 512).isSome = true) ∧
    ((op1 ld).told = false ∧ (op1 ld).inRq = false ∧ (ld.split ⟨(op1 ld).w, (op1 ld).k⟩).hold = .access 1 ∧ ∃ l ∈ (op1 ld).lanes, l.chk = false ∧ l.fin = false ∧ l.cause = 0) ∧
    (let p := oneFails ld true
     (∀ l ∈ (op1 p).lanes, l.chk = true ∨ l.fin = true ∨ l.cause ≠ 0) ∧ (∃ l ∈ (op1 p).lanes, l.cause = 0) ∧ parksFaults p = true ∧ isStoreKind (op1 p).kind = false ∧
     (p.split ⟨(op1 p).w, (op1 p).k⟩).mask &&& ~~~(1 : Mask) ≠ 0) ∧
    (let d := ld.updOp 1 (fun x => { x with lanes := x.lanes.map (fun l => { l with fin := true }) })
     (op1 d).lanes.all (fun l => l.fin && l.cause == 0) = true ∧ (op1 { d with }).told = false ∧
       (op1 (d.updOp 1 (fun x => { x with told := true }))).performed = true ∧ hasResult (op1 d).kind = true ∧ (op1 d).space = .glob) ∧
    (let f := oneFails ld false
     (∀ l ∈ (op1 f).lanes, l.cause ≠ 0) ∧ 1 < f.nextId ∧ parksFaults f = true) ∧
    (let b := ld.updSplit split0 (fun x => { x with hold := .backoff 128 })
     (b.split split0).hold = .backoff 128 ∧ b.cyc 0 < 128 ∧ 128 ≤ { b with now := 128 }.cyc 0) := by decide +kernel
def anOp (k : OpKind) : Op := { blankOp (issueOf (placed (.nop c7)) c7 (curAt (placed (.nop c7))) (waveAt (placed (.nop c7)))) k [] with told := true }
/-- The placed state with operations under numbers 5 and 6. -/
def withOps (x y : Op) : State := { placed (.nop c7) with ops := [(5, x), (6, y)] }
theorem wit_ClosesAndOpensEnd : let ln := mkLane 0 (0x10040, false) noData noData
    let st : Op := { anOp (.store 4 false) with lanes := [ln] }
    let un : Op := { anOp .unseal with lanes := [{ ln with fin := true }] }
    (accepted (withOps (anOp .close) st) (anOp .close) = true ∧ (anOp .close).fin = false) ∧
    accepted (withOps { anOp .close with after := [6] } st) { anOp .close with after := [6] } = false ∧
    mayRequest (withOps (anOp (.openDev true)) st) (anOp (.openDev true)) = true ∧ (anOp (.openDev true)).after = [] ∧ ((withOps un st).op 5 = some un ∧ un.fin = false ∧ un.told = true ∧
    (∀ l ∈ un.lanes, l.fin = true ∧ l.cause = 0) ∧ un.inRq = false ∧ un.twin = 0 ∧ ∀ d ∈ List.range 18, leveeUp (withOps un st) d = false) := by decide +kernel
/-- phase, pf and wait at issue: lanes that pass and fail, a close in the way, and each fault of wait. -/
theorem wit_PhasesAndWaits : let wt : Instr := .wait c7 1 6 2 (.reg 4) (.reg 8) .eq false
    let at' (va : Nat) (w : Wave) : Wave := { w with s := [(2, ⟨BitVec.ofNat 32 va, false⟩), (3, ⟨BitVec.ofNat 32 (va / 2 ^ 32), false⟩)] }
    let va (s : State) (j : Issue) : Nat := (sreg64 s j.w 2).1.toNat
    let word (s : State) (j : Issue) : Nat := (homeWord (s.advance j.u 1) j.w.asid (va s j)).2.2.2
    Meets (placed (.pf c7 ga false 0x40)) (.pf c7 ga false 0x40) someE ∧ Meets (placed (.phase c7 4 true true)) (.phase c7 4 true true) (fun s j => j.e != 0 && !fenced (s.advance j.u 1) j) ∧
    (let s := placedW (.phase c7 4 true true) (fun w => { w with fences := [(5, 0xFFFFFFFF)] })
     Meets { s with ops := [(5, anOp .close)] } (.phase c7 4 true true) (fun s j => j.e != 0 && fenced (s.advance j.u 1) j)) ∧
    Meets (placedW wt (fun w => { at' 0x10040 w with s := [(2, ⟨0, true⟩)] })) wt (fun s j => j.e != 0 && (sreg64 s j.w 2).2) ∧
    Meets (placedW wt (at' 2)) wt (fun s j => j.e != 0 && !(sreg64 s j.w 2).2 && va s j % 4 != 0) ∧
    Meets (placedW wt (at' (2 ^ 56))) wt (fun s j => j.e != 0 && !(sreg64 s j.w 2).2 && decide (2 ^ 56 ≤ va s j)) ∧
    Meets (placedW wt (at' (2 ^ 56 - 4))) wt (fun s j => va s j % 4 == 0 && decide (va s j < 2 ^ 56) && word s j != 0) ∧
    Meets (placedW wt (at' 0x10040)) wt (fun s j => word s j == 0 && (ssrc s j.w (.reg 8)).v == 0) ∧
    Meets (placedW wt (fun w => { at' 0x10040 w with s := (at' 0x10040 w).s ++ [(4, ⟨7, false⟩), (8, ⟨100, false⟩)] })) wt
      (fun s j => word s j == 0 && (ssrc s j.w (.reg 8)).v != 0 && !wcond .eq 0 (ssrc s j.w (.reg 4)).v) ∧
    Meets { placedW wt (at' 0x10040) with ops := [(0, { anOp (.store 4 false) with lanes := [mkLane 0 (0x10040, false) noData noData] })] } wt
      (fun s j => bytesBusy (s.advance j.u 1) j.u.w j.w.asid (va s j) 4 (s.advance j.u 1).nextId) := by
  repeat' apply And.intro
  all_goals exact meets_of (by decide +kernel)

/-- A slot of a kind in the placed block's barrier slot 0. -/
def barIs (s : State) (b : Bar) : State := s.setBar 0 0 0 b
def barK (k : Nat) : Bar := { Bar.fresh with kind := k, wmask := 1, exp := 32 }
def slotOk (kinds : Nat → Bool) (bad : State → Bool) (s : State) (j : Issue) : Bool := j.e != 0 && !slotBad s j.w 0 kinds (bad (s.advance j.u 1))
def never (_ : State) : Bool := false
theorem wit_BarriersBeginAndComplete :
    Meets (placed (.barInitLane c7 (sr 4) (sr 5))) (.barInitLane c7 (sr 4) (sr 5)) (slotOk (fun _ => true) (fun s => decide (waitersOf s 0 0 0 ≠ 0))) ∧
    Meets (placed (.barInitByte c7 (sr 4) (sr 5))) (.barInitByte c7 (sr 4) (sr 5)) (slotOk (fun _ => true) (fun s => decide (waitersOf s 0 0 0 ≠ 0))) ∧
    Meets (placed (.barInitChunk c7 (sr 4))) (.barInitChunk c7 (sr 4)) (slotOk (fun _ => true) (fun s => decide (waitersOf s 0 0 0 ≠ 0))) ∧
    Meets (placed (.barInitLane c7 (.const 63) (sr 5))) (.barInitLane c7 (.const 63) (sr 5)) someE ∧
    (let s := placedW (.barInitChunk c7 (sr 4)) (fun w => { w with s := [(4, ⟨0, true⟩)] })
     Meets s (.barInitChunk c7 (sr 4)) (fun s j => j.e != 0 && (ssrc s j.w (sr 4)).psn)) ∧
    (let s := barIs (placed (.nop c7)) (barK 1)
     let t := barIs (placed (.nop c7)) { barK 1 with count := 32 }
     (s.place 0 0).isSome = true ∧ (s.bar 0 0 0).kind = 1 ∧ (s.bar 0 0 0).count < (s.bar 0 0 0).exp ∧ (t.bar 0 0 0).kind = 1 ∧ (t.bar 0 0 0).exp ≤ (t.bar 0 0 0).count) :=
  ⟨meets_of (by decide +kernel), meets_of (by decide +kernel), meets_of (by decide +kernel), meets_of (by decide +kernel), meets_of (by decide +kernel), by decide +kernel⟩
theorem wit_BarrierOperations : let on (k : Nat) (i : Instr) : State := barIs (placed i) (barK k)
    Meets (on 1 (.barArrLane c7 3 (sr 4))) (.barArrLane c7 3 (sr 4)) (slotOk (· == 1) never) ∧
    Meets (on 2 (.barArrByte c7 (sr 4) (sr 5) (sr 6))) (.barArrByte c7 (sr 4) (sr 5) (sr 6)) (slotOk (fun _ => true) never) ∧
    Meets (on 1 (.barWait c7 (sr 4) (sr 5) true)) (.barWait c7 (sr 4) (sr 5) true) (slotOk (fun k => k == 1 || k == 2 || k == 4) never) ∧
    Meets (on 1 (.barSync c7 (sr 4) true)) (.barSync c7 (sr 4) true) (slotOk (· == 1) never) ∧ Meets (on 2 (.barExp c7 3 (sr 4) (sr 5) (sr 6))) (.barExp c7 3 (sr 4) (sr 5) (sr 6)) (slotOk (· == 2) never) ∧
    Meets (placed (.barWd c7)) (.barWd c7) someE ∧ Meets (on 0 (.barRd c7 3 (sr 4) (sr 5))) (.barRd c7 3 (sr 4) (sr 5)) (slotOk (fun _ => true) never) ∧
    Meets (on 3 (.cmapWait c7 (sr 4) (.reg 6))) (.cmapWait c7 (sr 4) (.reg 6)) (slotOk (· == 3) never) ∧ Meets (on 3 (.cmapTest c7 1 (sr 4) (.reg 6))) (.cmapTest c7 1 (sr 4) (.reg 6)) (slotOk (· == 3) never) ∧
    Meets (on 3 (.cmapClr c7 (sr 4) (.reg 6))) (.cmapClr c7 (sr 4) (.reg 6)) (slotOk (· == 3) never) ∧ Meets (on 4 (.cbar c7 (sr 4) false)) (.cbar c7 (sr 4) false) (slotOk (fun k => k == 0 || k == 4) never) ∧
    Meets (on 3 (.barArrLane c7 3 (sr 4))) (.barArrLane c7 3 (sr 4)) (fun s j => j.e != 0 && slotBad s j.w 0 (· == 1) false) := by
  repeat' apply And.intro
  all_goals exact meets_of (by decide +kernel)

/-! Waits, regions and splits (chapters 10, 11 and 17). -/

theorem wit_WaitsEnd : let p := placed (.nop c7)
    let st (x : SplitSt) : State := p.updSplit split0 (fun y => { y with st := x })
    ((st (.waitBar 0 true false true)).split split0).st = .waitBar 0 true false true ∧ ((st (.waitMap 0 1 true)).split split0).st = .waitMap 0 1 true ∧
    ((st (.waitBar 0 true false false)).split split0).st = .waitBar 0 true false false ∧
    (((st (.sleep 9)).split split0).st = .sleep 9 ∧ (st (.sleep 9)).cyc 0 < 9 ∧ 9 ≤ ({ st (.sleep 9) with now := 9 }).cyc 0) ∧
    (let s := { p with msgs := [(7, .credit 0 0 3 0 1 5), (8, .signal 0 0 3 true 0)] }
     tfind s.msgs 7 = some (.credit 0 0 3 0 1 5) ∧ msgFirst s 7 (.credit 0 0 3 0 1 5) = true ∧ savedOut s 0 0 = false ∧ tfind s.msgs 8 = some (.signal 0 0 3 true 0) ∧ msgFirst s 8 (.signal 0 0 3 true 0) = true) := by
  decide +kernel
def withCk (w : Wave) : Wave := { w with ck0 := 1 }
theorem wit_ChecksHintsAndRegions : AllIssue [.capRd c7 3 (sr 4), .ckacc c7 (rv 4), .ckaccClr c7, .chk c7 (.reg 4) true, .memhintCompute c7 (.const 20), .rgn c7 1] ∧
    Meets (placedW (.chk c7 (.reg 4) false) withCk) (.chk c7 (.reg 4) false) (fun s j => j.e != 0 && (spair s j.w (.reg 4)).1 != j.w.ck1 ++ j.w.ck0) ∧
    Meets (placed (.rgn c7 1)) (.rgn c7 1) (fun s j => j.e != 0 && rgnOk s j && !compares j) ∧
    Meets (placedW (.rgn c7 1) (fun w => { w with wsm := 1 })) (.rgn c7 1) (fun s j => j.e != 0 && !rgnOk s j) ∧
    Meets (placedW (.rgn c7 1) (fun w => { w with twin := true })) (.rgn c7 1) (fun s j => j.e != 0 && rgnOk s j && slackStall (s.advance j.u 1) j) ∧
    (let s := placedW (.rgn c7 1) (fun w => { w with twin := true })
     Meets (s.updKern 0 (fun k => { k with l := { k.l with slack := 1 } })) (.rgn c7 1) (fun s j => j.e != 0 && rgnOk s j && !slackStall (s.advance j.u 1) j && compares j)) :=
  ⟨allIssue_of (by decide +kernel), meets_of (by decide +kernel), meets_of (by decide +kernel), meets_of (by decide +kernel), meets_of (by decide +kernel), meets_of (by decide +kernel)⟩
theorem wit_SplitsMoveOn : let p := placed (.nop c7)
    let upd (f : Split → Split) : State := p.updSplit split0 f
    p.wave slot0 = some (waveAt p) ∧ ((upd (fun x => { x with st := .settle 4 })).split split0).st = .settle 4 ∧ p.cyc 0 < 4 ∧
    (let e := upd (fun x => { x with recheck := true })
     sliceAct e 0 0 0 = .enter split0) ∧ sliceAct p 0 0 0 ≠ .enter split0 ∧
    (let e := upd (fun x => { x with hold := .clause })
     (e.split split0).hold = .clause ∧ clauseReady e slot0 (waveAt e) (e.split split0).cw ((e.split split0).hdrw.getD 0) = true) ∧
    ((upd (fun x => { x with hold := .batch [4] })).split split0).hold = .batch [4] ∧ [4].all (mxFinished p) = true ∧ holdOver p slot0 (waveAt p) (p.split split0) = false ∧
    (fetchWord p (waveAt p) (p.split split0).pc).2.2 = 0 ∧ (let e := upd (fun x => { x with pc := 8 })
      canIssue e (waveAt e) (e.split split0) = true ∧ (fetchWord e (waveAt e) 8).2.2 ≠ 0) ∧
    ((upd (fun x => { x with hold := .replay })).split split0).hold = .replay := by decide +kernel
def entry (cp : Nat) (sig : W64) : TwinE := ⟨5, 0, cp, 0, 0, 0, 0, 0, 0, some sig, 0, false⟩
theorem wit_WatchesAndTwins : let st (t : Option Nat) (poll : Bool) (wk : Option W32) : SplitSt := .waitWatch 0x10040 .eq 7 t poll 1024 1 6 1 false 5 wk
    let s (x : SplitSt) : State := (placed (.nop c7)).updSplit split0 (fun y => { y with st := x })
    let tw (a b : W64) : State := { placed (.nop c7) with twins := [(5, entry 0 a), (6, entry 1 b)] }
    ((s (st none false (some 7))).split split0).st = st none false (some 7) ∧ ((s (st (some 9) false none)).split split0).st = st (some 9) false none ∧
    (s (st (some 9) false none)).cyc 0 < 9 ∧ ((s (st none true none)).split split0).st = st none true none ∧ (s (st none true none)).cyc 0 < 1024 ∧
    (tfind { tw 1 1 with twins := [(5, { entry 0 1 with sig := none }), (6, entry 1 1)] }.twins 5).any (fun x => x.sig == none) = true ∧
    (tfind (tw 1 1).twins 5 = some (entry 0 1) ∧ (tw 1 1).twins.find? (fun e => sameKey e.2 (entry 0 1) && e.2.copy != (entry 0 1).copy) = some (6, entry 1 1)) ∧
    ((entry 0 1).sig ≠ (entry 1 2).sig ∧ (tw 1 2).twins.find? (fun e => sameKey e.2 (entry 0 1) && e.2.copy != (entry 0 1).copy) = some (6, entry 1 2) ∧
      (tw 1 2).waves.find? (fun (z : WaveRef × Wave) => z.2.block == 0 && z.2.waveId == 0) = some (slot0, waveAt (tw 1 2))) ∧
    (let t := { tw 1 1 with twins := [(5, entry 0 1)] }
     tfind t.twins 5 = some (entry 0 1) ∧ t.twins.find? (fun e => sameKey e.2 (entry 0 1) && e.2.copy != (entry 0 1).copy) = none) := by decide +kernel

/-! Copies and matrix commands (chapters 15 and 16). -/

/-- A tensor record at 0x10040: 16 one-byte elements, rank 1; its pair is S2, and slot 0 is a CHUNK slot. -/
def recBytes : List Byte := leBytes 8 0x10000 ++ leBytes 8 (16 + 2 ^ 32) ++ leBytes 8 (1 + 2 ^ 32) ++ leBytes 8 1 ++ leBytes 8 (15 * 2 ^ 56) ++ leBytes 16 0 ++ leBytes 8 (2 ^ 45 + 2 ^ 42)
def withRec (s : State) : State :=
  let s := line512 s (fun l => { l with data := l.data.take 64 ++ recBytes })
  barIs (s.updWave slot0 (fun w => { w with s := [(2, ⟨0x10040, false⟩), (14, ⟨16, false⟩)], fd := [(0, 0x0010000000000003)] })) (barK 3)
def checked (r : CpRes) : Bool := match r with | .ok _ _ _ _ _ _ _ _ _ => true | _ => false
def copyReady (s : State) (j : Issue) : Bool := j.e != 0 && !copyStall (s.advance j.u 1) j true (some (sreg64 s j.w 2).1.toNat) && !spadStall (s.advance j.u 1) j
def lin0 : Instr := .cpLin c7 (.off (sr 5)) (.glob 2) (sr 14) (sr 6) .gs
theorem wit_CopiesAreAccepted :
    let chk (k : CopyKind) (m : Option SReg) (s : State) (j : Issue) : Bool := copyReady s j && checked (tileCheck (s.advance j.u 1) j k 2 8 (sr 5) (sr 6) m).2
    let i1 : Instr := .cpTile c7 2 8 (sr 5) (sr 6)
    let i2 : Instr := .cpTilest c7 2 8 (sr 5) (sr 6)
    let i3 : Instr := .cpGat c7 2 8 (sr 5) (sr 6) 16
    let i4 : Instr := .cpSca c7 2 8 (sr 5) (sr 6) 16
    Meets (withRec (placed i1)) i1 (chk .tile none) ∧ Meets (withRec (placed i2)) i2 (chk .tilest none) ∧ Meets (withRec (placed i3)) i3 (chk .gat (some 16)) ∧
    Meets (withRec (placed i4)) i4 (chk .sca (some 16)) ∧
    Meets (withRec (placed lin0)) lin0 (fun s j => copyReady s j && checked (linCheck (s.advance j.u 1) j (.off (sr 5)) (.glob 2) (sr 14) (sr 6) .gs)) ∧
    Meets { placed i1 with ops := (List.range 8).map (fun n => (n, { anOp (.mx 0) with told := false })) } i1 (fun s j => j.e != 0 && copyStall (s.advance j.u 1) j false none) ∧
    Meets (withRec { placed lin0 with blocks := [(0, ⟨0, 0, 0, [⟨0, 0, 0, 0, List.range 16, false, true⟩]⟩)] }) lin0
      (fun s j => j.e != 0 && atSaved (s.advance j.u 1) (linCheck (s.advance j.u 1) j (.off (sr 5)) (.glob 2) (sr 14) (sr 6) .gs)) := by
  repeat' apply And.intro
  all_goals exact meets_of (by decide +kernel)
/-- cp.tile.then with the mx.ldb of its next word. -/
def pair0 : Instr := .cpTileThen c7 2 8 (sr 5) (sr 6)
def ldb0 : Instr := .mxLdb c7 0 0 (sr 6) 1
def pairState (x : Instr) : State := withRec (atIssue 128 (((encode x).headD 0).toNat * 2 ^ 64 + ((encode pair0).headD 0).toNat))
def big : Instr := .mxLdb c7 0 0 (sr 6) 1
theorem wit_CopyPairsAndFences :
    let pass (s : State) (j : Issue) : Bool := decide (decode j.word1 none = .ok ldb0) && !boundsBad (s.advance j.u 2) j.w (refsOf ldb0) && !hazard (s.advance j.u 2) j.w (followCm ldb0 c7) (refsOf ldb0)
      && j.e != 0 && guardSet (s.advance j.u 2) j.w (followCm ldb0 c7) j.sp.mask != 0
    let stall (s : State) (j : Issue) : Bool := copyStall (s.advance j.u 2) j false (some (sreg64 (s.advance j.u 2) j.w 2).1.toNat) || followStall (s.advance j.u 2) j (followOf (s.advance j.u 2) j.w ldb0)
    Meets (pairState ldb0) pair0 (fun s j => pass s j && !stall s j && (match tileCheck (s.advance j.u 2) j .tile 2 8 (sr 5) (sr 6) none with
      | (t, .ok _ _ _ _ _ _ _ _ _) => (followBad t j (followOf t j.w ldb0)).isNone
      | _ => false)) ∧
    Meets { pairState ldb0 with ops := (List.range 8).map (fun n => (n, { anOp (.mx 0) with told := false })) } pair0 (fun s j => pass s j && stall s j) ∧
    Meets (withRec (placed (.recFence c7 2))) (.recFence c7 2) (fun s j => j.e != 0 && !(engStall (s.advance j.u 1) j true || !sluiceRoom (s.advance j.u 1) j.u.w.die j.u.w.core) && (sreg64 s j.w 2).1.toNat % 64 == 0) :=
  ⟨meets_of (by decide +kernel), meets_of (by decide +kernel), meets_of (by decide +kernel)⟩
/-- A copy of 512 bytes of line 512 into the placed block's scratchpad, in two chunks of one access each. -/
def acc (va c : Nat) : CAcc := ⟨some (.glob va), .spad 0 0 0, [], [], 8, c, false⟩
def copy0 (st : CopySt) : Copy := ⟨0, 0, slot0, 1, 0, 0, 0, 0x10008, st, [acc 0x10040 0, acc 0x10048 1], [], false, 0, 0, 0, 0, true, 2, [], 16, 16, 0, none, false, none⟩
def withCopy (c : Copy) : State := { barIs (placed (.nop c7)) (barK 3) with copies := [(3, c)] }
theorem wit_CopiesRun : let q := withCopy (copy0 .queued)
    let a := withCopy (copy0 .active)
    let d := withCopy { copy0 .active with accs := [{ acc 0x10040 0 with fin := true }, { acc 0x10048 1 with fin := true }], told := [0] }
    (tfind q.copies 3 = some (copy0 .queued) ∧ nextQueued q (copy0 .queued) = some 3 ∧ sluiceCopies q (copy0 .queued) (fun x => x.st == .stalled && x.released && copyHere q x) = []) ∧
    (tfind a.copies 3 = some (copy0 .active) ∧ (copy0 .active).accs[0]? = some (acc 0x10040 0) ∧ accReady a (copy0 .active) (acc 0x10040 0) = true ∧
      (accRead a (copy0 .active) (acc 0x10040 0)).2.2.1 = 0 ∧ (accWrite a (copy0 .active) (acc 0x10040 0) (leBytes 8 0)).2.1 = 0) ∧
    (accRead a (copy0 .active) (acc (2 ^ 56 - 8) 0)).2.2.1 ≠ 0 ∧
    (let c := { copy0 .active with accs := [{ acc 0x10040 0 with fin := true }, acc 0x10048 1] }
     c.fail = 0 ∧ 0 ∉ c.told ∧ c.told.length + 1 < c.nchunk ∧ savedOut (withCopy c) 0 0 = false ∧ c.accs.all (fun (x : CAcc) => x.chunk != 0 || x.fin) = true) ∧
    (copyHere d (copy0 .active) = true ∧ ∀ x ∈ d.copies, x.2.peer ≠ some 3) ∧
    (let c := { copy0 .stalled with released := true }
     c.st = .stalled ∧ c.released = true ∧ copyHere (withCopy c) c = true) := by decide +kernel
theorem wit_MatrixCommandsIssue : let i1 : Instr := .mx c7 0 0 (sr 6) 0 0 1 true true
    let i3 : Instr := .mxSt c7 0 (sr 6) (sr 14) none .f32 .rn
    let fdl : Instr := .fdl c7 3 (.reg 20)
    let rdy (i : Issue) (s : State) : Bool := !cmdStall (s.advance i.u 1) i false && decide (mxCount s i.w.uid < 8)
    let mac (s : State) : State := s.setCore 0 0 { s.core 0 0 with macros := [(0, { Macro.fresh with st := 2, fmt := 3, tag := 1, owner := 0 })] }
    Meets (mac (withRec (placed i1))) i1 (fun s j => j.e != 0 && rdy j s && (mxBad (s.advance j.u 1) j.w j.u.w 0 (tget 0 j.w.fd 0) (ssrc s j.w (sr 6)) 0 1 1 true true).isNone) ∧
    Meets (withRec (placed i1)) i1 (fun s j => j.e != 0 && rdy j s && (mxBad (s.advance j.u 1) j.w j.u.w 0 (tget 0 j.w.fd 0) (ssrc s j.w (sr 6)) 0 1 1 true true).isSome) ∧
    Meets (withRec (placed ldb0)) ldb0 (fun s j => j.e != 0 && rdy j s && (ldbBad (s.advance j.u 1) j.w 0 (tget 0 j.w.fd 0) (ssrc s j.w (sr 6))).isNone) ∧
    Meets (withRec (placed i3)) i3 (fun s j => j.e != 0 && rdy j s && (ssrc s j.w (sr 14)).v == 16) ∧
    Meets (placedW fdl (fun w => { w with s := [(20, ⟨3, false⟩), (21, ⟨0x00100000, false⟩)] })) fdl (fun s j => j.e != 0 && !fdBad (spair s j.w (.reg 20)).1) ∧
    Meets (placed fdl) fdl (fun s j => j.e != 0 && fdBad (spair s j.w (.reg 20)).1) := by
  repeat' apply And.intro
  all_goals exact meets_of (by decide +kernel)
/-- A matrix command of the placed wave. -/
def cmd0 (k : MxKind) (st : MxSt) : MxCmd := ⟨slot0, 1, 0, 0, 0, k, st, 0, 0, [], false, false, 0x10008, 0, [], false, false⟩
def withMx (s : State) (x : MxCmd) : State := { s with mxs := [(4, x)] }
theorem wit_TileAccess : let rd : Instr := .mxRd c7 (dv 8) 0 (sr 6)
    let wr : Instr := .mxWr c7 0 (sr 6) (dv 8)
    let zr : Instr := .mxZero c7 0
    let ok (s : State) (j : Issue) : Bool := j.e != 0 && decide (0 < tilesOf s j.w) && (ssrc s j.w (sr 6)).v == 0 && !(ssrc s j.w (sr 6)).psn
    let row (v : Val) (w : Wave) : Wave := { w with s := [(6, v)] }
    let run := cmd0 (.mx 0 3 0 0 1 true) .started
    Meets (placed rd) rd (fun s j => ok s j && !j.w.ilk) ∧ Meets (placed wr) wr (fun s j => ok s j && !mxAtArray s 0 0 0) ∧ Meets (placed zr) zr (fun s j => ok s j && !mxAtArray s 0 0 0) ∧
    Meets (withMx (placed wr) run) wr (fun s j => ok s j && mxAtArray s 0 0 0) ∧ Meets (withMx (placedW rd (fun w => { w with ilk := true })) run) rd (fun s j => ok s j && j.w.ilk && mxAtArray s 0 0 0) ∧
    Meets (placed (.mxZero c7 15)) (.mxZero c7 15) (fun s j => j.e != 0 && decide (15 < tilesOf s j.w)) ∧
    Meets ((placed zr).updKern 0 (fun k => { k with l := { k.l with tiles := 0 } })) zr (fun s j => j.e != 0 && decide (tilesOf s j.w ≤ 0)) ∧
    Meets (placedW rd (row ⟨16, false⟩)) rd (fun s j => j.e != 0 && decide (16 ≤ (ssrc s j.w (sr 6)).v.toNat)) ∧ Meets (placedW wr (row ⟨0, true⟩)) wr (fun s j => j.e != 0 && (ssrc s j.w (sr 6)).psn) := by
  repeat' apply And.intro
  all_goals exact meets_of (by decide +kernel)
theorem wit_MatrixBatches : let bt : Instr := .mxBatch c7 3
    let wt : Instr := .mxWait c7 1
    let st (n : BitVec 8) : Instr := .mxStat c7 3 n
    let busy (i : Instr) : State := withMx (placedW i (fun w => { w with batches := [⟨1, [4]⟩] })) (cmd0 (.mx 0 3 0 0 1 true) .started)
    Meets (placed bt) bt (fun s j => j.e != 0 && batchCmds s j.w ((j.w.bc + 1) % 32) == []) ∧ Meets (busy bt) bt (fun s j => j.e != 0 && batchCmds s j.w ((j.w.bc + 1) % 32) != []) ∧
    Meets (placed wt) wt (fun s j => j.e != 0 && batchCmds s j.w 1 == []) ∧ Meets (busy wt) wt (fun s j => j.e != 0 && batchCmds s j.w 1 != []) ∧
    Meets (placed (st 15)) (st 15) (fun s j => j.e != 0 && decide (15 < tilesOf s j.w)) ∧ Meets (placed (st 16)) (st 16) someE ∧
    Meets ((placed (st 15)).updKern 0 (fun k => { k with l := { k.l with tiles := 15 } })) (st 15) (fun s j => j.e != 0 && decide (tilesOf s j.w ≤ 15)) := by
  repeat' apply And.intro
  all_goals exact meets_of (by decide +kernel)
theorem wit_MatrixCommandsRun : let p := placed (.nop c7)
    let mx (st : MxSt) := cmd0 (.mx 0 3 0 0 1 true) st
    let ldb (st : MxSt) := cmd0 (.ldb 0 0x0010000000000003 0 1) st
    let sto := cmd0 (.st 0 0 16 0 false .f32 .rn) .started
    (tfind (withMx p (mx .waiting)).mxs 4 = some (mx .waiting) ∧ mxMayStart (withMx p (mx .waiting)) 4 (mx .waiting) = true) ∧ mxMayStart (withMx p (mx .started)) 4 (mx .started) = false ∧
    ((mx .started).startAt + mxBusy (mx .started) + 10 ≤ { p with now := 1000 }.cyc 0 ∧ p.cyc 0 < (mx .started).startAt + mxBusy (mx .started) + 10) ∧
    (savedOut (withMx p (ldb .waiting)) 0 0 = false ∧ mxBefore (withMx p (ldb .waiting)) 4 (ldb .waiting) = []) ∧
    (p.cyc 0 < (ldb .started).startAt + 16 * (macrosOf (ldb .started).kind).length ∧ (ldb .started).startAt + 16 * (macrosOf (ldb .started).kind).length ≤ { p with now := 1000 }.cyc 0) ∧
    (p.cyc 0 < sto.startAt + 16 ∧ sto.startAt + 16 ≤ { p with now := 1000 }.cyc 0 ∧ (p.place 0 0).isSome = true ∧ savedOut p 0 0 = false ∧ (tileAt p 0 0 0).isSome = true) := by decide +kernel

/-! Commands, queues and contexts (chapters 06 to 08). -/

theorem wit_CommandsAreSent : AllIssue
    [.fragList c7 4 (.reg 6) .any, .fragRead c7 4 (.reg 6) (sr 8), .fragResume c7 4 (.reg 6), .fragKill c7 4 (.reg 6), .fragPatch c7 4 (.reg 6) (sr 8) (sr 9),
     .qctlOpen c7 4 (sr 5) (.reg 6), .qctlPause c7 4 (sr 5) (.reg 6), .qctlResume c7 4 (sr 5) (.reg 6), .qctlDrain c7 4 (sr 5) (.reg 6), .qctlFlush c7 4 (sr 5) (.reg 6),
     .psyswCreate c7 4 (sr 5) (.reg 6), .psyswPreempt c7 4 (sr 5) (.reg 6), .psyswRestore c7 4 (sr 5) (.reg 6), .psyswDestroy c7 4 (sr 5) (.reg 6), .psyswSetdl c7 4 (sr 5) (.reg 6)] ∧
    (let i : Instr := .qctlOpen c7 4 (sr 5) (.reg 6)
     Meets (placed i) i (fun s j => j.e != 0 && !slackStall (s.advance j.u 1) j) ∧
     Meets (placedW i (fun w => { w with twin := true })) i (fun s j => j.e != 0 && slackStall (s.advance j.u 1) j)) :=
  ⟨allIssue_of (by decide +kernel), meets_of (by decide +kernel), meets_of (by decide +kernel)⟩
/-- A launch record with one block and one wave, for queue 0; and one whose GX is 0. -/
def launch0 (gx : Nat) : List Byte := leBytes 8 0x10000 ++ leBytes 8 gx ++ leBytes 8 (2 ^ 32 + 1) ++ leBytes 104 0
def openQ (pend : List Nat) : Queue := { Queue.fresh with st := .opened, qlog2 := 1, pend := pend, qpn := 9, msg := true }
theorem wit_CommandStatuses : let s := State.reset
    let o := s.setQueue 5 (openQ [])
    let full := s.setQueue 0 (openQ [1, 2])
    (5 < 1024 ∧ (o.queue 5).busy = false ∧ queueRow (o.queue 5).st 1 = false ∧ queueRow (o.queue 5).st 2 = true ∧ queueRow (s.queue 1023).st 1 = true) ∧
    ((s.setQueue 5 { openQ [] with busy := true }).queue 5).busy = true ∧
    ((s.ctx 4095).busy = false ∧ ctxRow (s.ctx 4095).st 1 = true ∧ ctxRow (s.ctx 4095).st 2 = false ∧ ((s.setCtx 7 { Ctx.fresh with busy := true }).ctx 7).busy = true) ∧
    parseLaunch (launch0 0) = none ∧ (parseLaunch (launch0 1)).map (·.queue) = some 0 ∧ (s.queue 0).st ≠ .opened ∧ (s.queue 0).st ≠ .paused ∧
    ((full.queue 0).asid = 0 ∧ (full.queue 0).st = .opened ∧ 2 ^ (full.queue 0).qlog2 ≤ (full.queue 0).pend.length) ∧
    (bits (2 ^ 44) 44 20 ≠ 0 ∧ bits 5 44 20 = 0 ∧ hDie 5 ≤ 15 ∧ hCore 5 ≤ 39 ∧ hAsid 5 ≠ 1) := by decide +kernel
theorem wit_LaunchAndInvalidate : let k : Instr := .klaunch c7 8 10
    Meets (placed k) k (fun s j => j.e != 0 && !cmdStall (s.advance j.u 1) j true && !(sreg64 s j.w 10).2) ∧
    Meets (placedW k (fun w => { w with s := [(10, ⟨0, true⟩)] })) k (fun s j => j.e != 0 && !cmdStall (s.advance j.u 1) j true && (sreg64 s j.w 10).2) ∧
    (let s := placedW k (fun w => { w with fences := [(9, 0xFFFFFFFF)] })
     Meets { s with ops := [(9, blankOp (issueOf s c7 (curAt s) (waveAt s)) .close [])] } k (fun s j => j.e != 0 && cmdStall (s.advance j.u 1) j true)) ∧
    AllIssue [.pgInvalPage c7 20 (.reg 18) (.reg 16), .pgInvalAsid c7 4 (sr 5), .pgInvalAll c7 4] ∧
    (let x : Op := { anOp (.cmd (.pgInval 0 4 5 0)) with left := true }
     (withOps x (anOp .close)).op 5 = some x ∧ x.kind = .cmd (.pgInval 0 4 5 0) ∧ x.left = true ∧ x.twin ≠ 3 ∧
     (withOps { x with left := false } (anOp .close)).op 5 = some { x with left := false }) ∧
    ((0 ≠ 2 ∧ 4095 < 4096) ∧ 2 ^ 56 ≤ (0x100000000000000 : W64).toNat) :=
  ⟨meets_of (by decide +kernel), meets_of (by decide +kernel), meets_of (by decide +kernel), allIssue_of (by decide +kernel), by decide +kernel, by decide +kernel⟩
/-- The placed kernel with completion phase n, host delivery on endpoint 9 and a window of w bytes, on a port in state st. -/
def hostSend (n w : Nat) (st : PortSt) (at' : Option Nat) : State :=
  let s := (placed (.nop c7)).updKern 0 (fun k => { k with st := .completing, phase := n, sendAt := at', l := { k.l with hqpn := 9, hoff := 0 } })
  { s.setQueue 5 (openQ []) with conns := [(9, ⟨9, 0, 0x1000, 7, w, 0, [], []⟩)], ports := [(0, st)], frames := [(0, 1)] }
def kern0 (s : State) : Kern := (s.kern 0).getD (Kern.pending Launch.zero 0 0)
theorem wit_KernelsEnd : let x := { anOp (.cmd .exit) with after := [] }
    let gone : State := { placed (.nop c7) with waves := [], ops := [] }
    (let s := (withOps x (anOp .close)).updWave slot0 (fun w => { w with exitOp := some 5 })
     s.wave slot0 = some (waveAt s) ∧ (waveAt s).exitOp = some 5 ∧ s.op 5 = some x ∧ accepted s x = true ∧ opsOf s (waveAt s).uid (fun k => isCapturedKind k || (match k with | .cmd c => c != .exit | _ => false)) = [] ∧ s.twins = []) ∧
    accepted (withOps { x with after := [6] } { anOp (.store 4 false) with lanes := [mkLane 0 (0x10040, false) noData noData] }) { x with after := [6] } = false ∧
    (waveAt (placed (.nop c7))).exitOp = none ∧
    (tfind gone.blocks 0 = some ⟨0, 0, 0, [⟨0, 0, 0, 0, List.range 16, false, false⟩]⟩ ∧ blockDone gone 0 ⟨0, 0, 0, [⟨0, 0, 0, 0, List.range 16, false, false⟩]⟩ = true ∧ (gone.kern 0).isSome = true ∧
      blockDone (placed (.nop c7)) 0 ⟨0, 0, 0, [⟨0, 0, 0, 0, List.range 16, false, false⟩]⟩ = false) ∧
    ((kern0 (hostSend 1 4 .active none)).phase = 1 ∧ (kern0 (hostSend 1 4 .active none)).st = .completing ∧ kernelQuiet (hostSend 1 4 .active none) 0 = true ∧
      kernelQuiet { hostSend 1 4 .active none with ops := [(5, { anOp (.store 4 false) with kernel := 0, left := true, lanes := [mkLane 0 (0x10040, false) noData noData] })] } 0 = false ∧ (kern0 (hostSend 1 4 .active none)).l.hqpn ≠ 0) ∧
    (let s := hostSend 2 4 .active none
     (kern0 s).phase = 2 ∧ endpointOf s 9 = some (5, openQ []) ∧ (openQ []).asid = (kern0 s).asid ∧ (tfind s.conns 9).any (fun c => decide ((kern0 s).l.hoff + 4 ≤ c.winLen)) = true ∧ s.port 0 = .active) ∧
    (hostSend 2 4 .training none).port 0 = .training ∧ (hostSend 2 4 .down none).port 0 = .down ∧ (tfind (hostSend 2 3 .active none).conns 9).any (fun c => decide (c.winLen < 4)) = true ∧
    ((kern0 (hostSend 4 4 .active none)).phase = 4 ∧ framesIn (hostSend 4 4 .active none) 0 1 = true) ∧ ((kern0 (hostSend 2 4 .down (some 0))).sendAt = some 0 ∧ 0 + 1100000000 < ({ hostSend 2 4 .down (some 0) with now := 1100000001 }).now) := by
  decide +kernel
/-- A message of queue 0; a kernel at its head. -/
def msg0 (gx : Nat) : List Byte := leBytes 8 0x4C01000000000000 ++ launch0 gx
def headAt (st : KernSt) (f : Launch → Launch) : State :=
  { State.reset.setQueue 0 { openQ [3] with deps := [⟨false, false, 0, false, true⟩, Dep.fresh] } with kerns := [(3, { Kern.pending (f { Launch.zero with nwave := 0 }) 0 1 with st := st })] }
theorem wit_QueueEngineActs : ((msg0 1).length = 136 ∧ recWord (msg0 1) 0 = 0x4C01000000000000 ∧ (parseLaunch ((msg0 1).drop 8)).isSome = true ∧ parseLaunch ((msg0 0).drop 8) = none ∧
      ((State.reset.setQueue 0 (openQ [])).queue 0).pend.length < 2 ^ ((State.reset.setQueue 0 (openQ [])).queue 0).qlog2 ∧ (openQ [1, 2]).pend.length = 2 ^ (openQ []).qlog2 ∧ (openQ []).msg = true) ∧
    (let s := headAt .pending id
     (s.queue 0).deps[0]? = some ⟨false, false, 0, false, true⟩ ∧ (s.queue 0).deps[1]? = some Dep.fresh ∧ (pendingHead s 0).isSome = true ∧ pendingHead s 1 = none) ∧
    ((openQ []).stale = false ∧ { openQ [] with stale := true }.stale = true ∧ { openQ [] with st := .draining }.pend = []) ∧
    (selectable State.reset = [] ∧ (firstBy [] (selectable (headAt .ready id))).isSome = true ∧ fitsEmpty (kern0 { State.reset with kerns := [(0, Kern.pending Launch.zero 0 1)] }).l = true ∧
      fitsEmpty { Launch.zero with nwave := 31, allot := 256 } = false) ∧
    (dispatchable State.reset = [] ∧ schedulerUp State.reset = true ∧
      (let s := headAt .dispatching id
       (handFirst s (dispatchable s).length (dispatchable s)).isSome = true)) := by decide +kernel
/-- ASID 0 in a state of Table 6.1. -/
def ctx0 (s : State) (st : CtxSt) : State := s.setCtx 0 { s.ctx 0 with st := st }
theorem wit_ContextsEnd : let s := ctx0 (placed (.nop c7)) .preempting
    let x : Block := ⟨0, 0, 0, [⟨0, 0, 0, 0, List.range 16, false, false⟩]⟩
    let y := s.updSplit split0 (fun z => { z with hold := .yielded })
    let st := s.updWave slot0 (fun w => { w with stopped := true })
    let e : State := { s with waves := [], blocks := [], kerns := [] }
    (tfind s.blocks 0 = some x ∧ (s.kern 0).isSome = true ∧ (s.ctx 0).st = .preempting ∧ ∀ p ∈ x.places, p.retired = false ∧ p.saved = false) ∧
    (blockAtRest y 0 = true ∧ blockWaves y 0 ≠ []) ∧ (blockAtRest st 0 = false ∧ blockDrained st 0 = true ∧ x.places.all (fun p => (tfind (st.core p.die p.core).deadlines 0).isNone) = true) ∧
    (blockAtRest s 0 = false ∧ blockDrained s 0 = false) ∧ ((placed (.nop c7)).ctx 0).st ≠ .preempting ∧
    (e.waves.any (fun (w : WaveRef × Wave) => w.2.asid == 0) = false ∧ e.blocks = [] ∧ e.ops = [] ∧ (e.ctx 0).st = .preempting) ∧
    (let d := ctx0 State.reset .draining
     (d.ctx 0).st = .draining ∧ d.waves = [] ∧ d.ops = [] ∧ d.copies = [] ∧ d.kerns = []) := by decide +kernel

/-! Links, ports, management, channels and power (chapters 18 and 19). -/

def link0 : LinkRef := ⟨0, 0, 0⟩
theorem wit_LinksChange : let s := State.reset
    let t := setLink s link0 { s.link link0 with st := .training, spareTx := 0 }
    linkOk ⟨18, 0, 0⟩ = false ∧ linkOk ⟨0, 4, 0⟩ = false ∧ linkOk link0 = true ∧ linkOk ⟨17, 3, 2⟩ = true ∧ linkOk ⟨0x31, 3, 2⟩ = false ∧ (s.link link0).st = .active ∧
    (stepDown (s.link link0).rate).isSome = true ∧ ((setLink s link0 { s.link link0 with rate := .g8 }).link link0).rate = .g8 ∧ (s.link link0).spareTx ≠ 0 ∧
    (t.link link0).st = .training ∧ (t.link link0).spareTx = 0 ∧ ((setLink s link0 { s.link link0 with st := .down }).link link0).st = .down := by decide +kernel
theorem wit_PortsAndPeers : let s := hostSend 0 4 .active none
    (2 ≤ 2 ∧ 1 < 2) ∧ (State.reset.die 0x31).st = .active ∧ ((State.reset.setDie 0x31 { State.reset.die 0x31 with st := .failed }).die 0x31).st ≠ .active ∧
    (let n := { s with conns := [] }
     framesIn n 0 1 = true ∧ (endpointOf n 9).isSome = true ∧ tfind n.conns 9 = none) ∧
    (framesIn s 0 1 = true ∧ (tfind s.conns 9).isSome = true ∧ framesIn { s with frames := [] } 0 1 = false ∧ tfind s.conns 8 = none ∧ tget false { s with secured := [(0, true)] }.secured 0 = true) ∧ peerOp s 9 1 1 = none ∧ peerOp s 9 0 2 = none ∧ peerOp s 9 0 1 = some (openQ [], 0) ∧ packets 2 = 1 ∧
    ((devWrite s 0 0x10040 [1, 2]).2.1 = 0 ∧ (devWrite s 0 (2 ^ 56 - 8) [1]).2.1 ≠ 0 ∧ (devRead s 0 0x10040 8).2.2.1 = 0 ∧ (devRead s 0 (2 ^ 56 - 8) 8).2.2.1 ≠ 0) ∧
    ((0x10040 : W64).toNat % 8 = 0 ∧ (0x10044 : W64).toNat % 8 ≠ 0 ∧ (match reachLine s 0 0x10040 .wr with | (_, .ok x) => !x.psn && !x.pp | _ => false) = true) := by decide +kernel
/-- A request in the management block: CMD, TARGET, LID, the arguments; and dies in the states it asks for. -/
def reqBytes (cmd target lid a0 : Nat) : List Byte := leBytes 8 0 ++ leBytes 8 (cmd * 2 ^ 56 + target * 2 ^ 48 + lid * 2 ^ 40 + 1) ++ leBytes 8 a0 ++ leBytes 104 0
def asked (s : State) (cmd target lid a0 : Nat) : State :=
  { s with mgmtPend := true, slines := [((0, Config.mgmtVa / 128), { slotLine [] with data := reqBytes cmd target lid a0 })] }
def dieIs (n : Nat) (st : DieSt) : State := State.reset.setDie n { State.reset.die n with st := st }
def takes (s : State) (cmd : Nat) (bad : Bool) : Bool :=
  let r := devRead s 0 Config.mgmtVa 64
  s.mgmtPend && s.mgmtBusy.isNone && r.2.2.1 == 0 && bits (recWord r.2.1 1) 56 8 == cmd && reqBad { r.1 with mgmtPend := false } r.2.1 == bad
theorem wit_ManagementRequests : (State.reset.mgmtPend = false ∧ takes (asked State.reset 1 16 0 0) 1 true = true ∧ takes (asked State.reset 9 0 0 0) 9 true = true) ∧
    (takes (asked State.reset 1 3 0 0) 1 false = true ∧ fenceOk State.reset 3 = true ∧ takes (asked State.reset 1 0x20 0 0) 1 false = true ∧ fenceOk State.reset 0x20 = false) ∧
    (takes (asked (dieIs 3 .quiesced) 2 3 0 0) 2 false = true ∧ ((dieIs 3 .quiesced).die 3).st = .quiesced ∧ takes (asked (dieIs 3 .quiesced) 3 3 0 0) 3 false = true ∧ takes (asked State.reset 2 3 0 0) 2 false = true) ∧
    (takes (asked (dieIs 3 .off) 4 3 0 0) 4 false = true ∧ ((dieIs 3 .off).die 3).st = .off) ∧
    (takes (asked (dieIs 3 .failed) 5 16 3 0) 5 false = true ∧ (dieIs 3 .failed).holder 3 = some 3 ∧ ((dieIs 3 .failed).die 16).st = .spareOff ∧
      takes (asked State.reset 5 17 15 0) 5 false = true ∧ (State.reset.die 15).st ≠ .failed ∧ (State.reset.setDie 3 { State.reset.die 3 with lid := none }).holder 3 = none) ∧
    (takes (asked State.reset 6 0 0 511) 6 false = true ∧ (startRetire State.reset 511 0).isSome = true ∧ startRetire (State.reset.setChan 511 { Chan.fresh with st := .retired }) 511 0 = none) ∧
    takes (asked State.reset 7 0 0 0x10000) 7 false = true ∧ (takes (asked State.reset 8 0 0 511) 8 false = true ∧ (State.reset.chan 511).st ≠ .retired ∧
      ((State.reset.setChan 511 { Chan.fresh with st := .retired }).chan 511).st = .retired ∧ (State.reset.die (cacheDieOf 511)).st = .active) := by decide +kernel
/-- A state whose chiplet n is in a state; one with a context of no kind, in which no page is affected. -/
def noCtx (ch : Nat) : State := { State.reset.setChan ch { Chan.fresh with st := .retiring } with ctxs := [] }
theorem affected_noCtx {s : State} (h : s.ctxs = []) (ch w0 : Nat) (k : Chan) : affected s ch k w0 = false := by
  have h : ∀ a, s.ctx a = Ctx.fresh := fun a => by rw [State.ctx, h]; rfl
  simp [affected, h, Ctx.fresh]
theorem foldl_keeps {α β : Type} {P : α → Prop} {f : α → β → α} (h : ∀ a b, P a → P (f a b)) {a : α} (k : P a) (l : List β) : P (l.foldl f a) := by
  induction l generalizing a with
  | nil => exact k
  | cons b t ih => exact ih (h a b k)
/-- A read of a table changes no context, and where no error is due it meets none. -/
def SameCtxs (s t : State) : Prop := t.ctxs = s.ctxs ∧ t.flaw = s.flaw
theorem touchRow_ctxs (s : State) (ch off : Nat) (d : Option (List Byte)) (m : Option (Option Nat)) : SameCtxs s (touchRow s ch off d m) := by
  refine foldl_keeps (P := SameCtxs s) (fun t k h => ?_) (foldl_keeps (P := SameCtxs s) (fun t r h => ?_) ⟨rfl, rfl⟩ _) _
  · unfold flushCheck; split <;> exact h
  · unfold flushImage; split <;> exact h
theorem touchWindow_ctxs (s : State) (ch off : Nat) : SameCtxs s (touchWindow s ch off) := by
  unfold touchWindow; split
  · exact ⟨rfl, rfl⟩
  · exact touchRow_ctxs s ch off none none
theorem tableBucket_ctxs {s : State} (h : s.flaw = 0) (c b : Nat) : SameCtxs s (tableBucket s c b) := by
  have k := touchWindow_ctxs s c (b * 128)
  have e : tableBucket s c b = touchWindow s c (b * 128) := by
    unfold tableBucket readBucket
    rw [if_neg (by rw [h]; omega)]
    dsimp only
    rw [if_neg (by rw [k.2, h]; omega), if_neg (by rw [k.2, h]; omega)]
  rw [e]; exact k
theorem nextPage_noCtx {s : State} (h : s.ctxs = []) (hf : s.flaw = 0) (ch : Nat) : (nextPage s ch).2 = none := by
  refine (foldl_keeps (P := fun r : State × Option (Nat × Nat × Nat) => (r.1.ctxs = [] ∧ r.1.flaw = 0) ∧ r.2 = none) (fun r b k => ?_) ⟨⟨h, hf⟩, rfl⟩ _).2
  have g := tableBucket_ctxs k.1.2 ch b
  refine ⟨⟨g.1.trans k.1.1, g.2.trans k.1.2⟩, ?_⟩
  show bucketPage _ _ _ _ = none
  unfold bucketPage; split
  · exact k.2
  · exact foldl_keeps (P := fun x : Option (Nat × Nat × Nat) => x = none) (fun a i q => by dsimp only; rw [affected_noCtx (g.1.trans k.1.1), q]; rfl) k.2 _
/-- The table of channel 0 has the entry of page 4 of ASID 0 in its first bucket, and its old map names it. -/
def onePage : State := { (State.reset.setChan 0 { Chan.fresh with st := .retiring, old := [(0, List.range 4096)] }) with
  slines := [((0, lineOf (windowVa 0 0)), { slotLine (leBytes 8 (2 ^ 63 + 4)) with chan := 0 })] }
theorem bucketPage_some {s : State} {c b : Nat} {a : Option (Nat × Nat × Nat)} (h : a ≠ none) : bucketPage s c b a ≠ none := by
  unfold bucketPage; split
  · exact h
  · refine foldl_keeps (P := fun x : Option (Nat × Nat × Nat) => x ≠ none) (fun x i k => ?_) h _
    dsimp only; split
    · cases x with
      | none => exact absurd rfl k
      | some y => unfold lowerEntry; dsimp only; split <;> simp
    · exact k
theorem nextPage_onePage : (nextPage onePage 0).2 ≠ none := by
  unfold nextPage
  rw [List.range_eq_range', List.range'_succ, List.foldl_cons]
  exact foldl_keeps (P := fun r : State × Option (Nat × Nat × Nat) => r.2 ≠ none) (fun r b k => bucketPage_some k) (by decide +kernel) _
theorem wit_ChipletsAndChannels : (isChiplet 18 = false ∧ isChiplet 0x24 = false ∧ isChiplet 0x31 = true ∧ 18 ≤ 18 ∧ (State.reset.die 17).st ≠ .active) ∧
    ((dieIs 3 .fencing).die 3).st = .fencing ∧ dieQuiet (dieIs 3 .fencing) 3 = true ∧ ((quiesceLinks (dieIs 3 .fencing) 3).die 3).err = false ∧
    ((quiesceLinks (State.reset.setDie 3 { State.reset.die 3 with st := .fencing, err := true }) 3).die 3).err = true ∧ ((dieIs 3 .reset).die 3).st = .reset ∧
    (let s := dieIs 3 .admitting
     (s.die 3).st = .admitting ∧ (modulesOf 3).any (fun l => (s.link l).st == .training) = false ∧ routersUp s 3 = true ∧ (s.die 3).lid = some 3 ∧
     (modulesOf 3).any (fun l => ((setLink s ⟨3, 0, 0⟩ { s.link ⟨3, 0, 0⟩ with st := .training }).link l).st == .training) = true) ∧
    (let s := dieIs 0x31 .admitting
     (s.die 0x31).st = .admitting ∧ routersUp s 0x31 = true ∧ (s.die 0x31).lid = none) ∧
    (let s := State.reset.setChan 511 { Chan.fresh with corr := List.replicate 65 (7, 0) }
     (s.chan 511).st = .active ∧ 64 < rowErrors s 511 7) ∧
    (State.reset.die 0x20).st = .active ∧ engineOf State.reset 0 = none ∧ engineOf (noCtx 0) 0 = some 0 ∧ hbmWf [(2 ^ 22, 5)] = true := by decide +kernel
/-- The engine's channel has a page left, and none. -/
theorem wit_ChipletsAndChannels_last : (nextPage { noCtx 0 with engines := tset (noCtx 0).engines 0 0 } 0).2 = none ∧ engineOf onePage 0 = some 0 ∧ (nextPage onePage 0).2 ≠ none :=
  ⟨nextPage_noCtx rfl rfl 0, by decide +kernel, nextPage_onePage⟩
theorem wit_BudgetKeepsTime : let s := State.reset
    (s.capPending = false ∧ { s with capPending := true, capSentAt := some 0, now := 109999 }.capSentAt.any (fun t => decide (109999 < t + 110000)) = true ∧
      { s with capPending := true, now := 110000 }.capSentAt = none) ∧
    (s.now < s.clkAt + 1100000 ∧ s.now < s.grantAt + 8800 ∧ arbiterUp { s with now := 8800 } = true ∧ 0 + 17600 ≤ { s with now := 17600 }.now ∧ (s.die 0x31).st = .active ∧
      arbiterUp { dieIs 0x31 .failed with arbMirror := true } = false) ∧
    (isCompute 0x30 = false ∧ isCache 0x30 = false ∧ isCompute 17 = true ∧ isCache 0x23 = true ∧ (s.die 17).st ≠ .active ∧ (s.die 3).grant < 151 ∧ 10 * 135 ≤ 9 * (s.die 3).grant ∧ 9 * (s.die 3).grant < 10 * 136 ∧
      (s.die 3).stepAt + 1100 ≤ 1100 ∧ (s.die 3).raiseAt + 8800 ≤ 8800) ∧
    (512 ≤ 512 ∧ (s.chan 511).hintTill ≤ s.now ∧ s.now < ((s.setChan 511 { Chan.fresh with hintTill := 1 }).chan 511).hintTill) := by decide +kernel

/-! Witnesses of the clauses on bad words and headers, returns, replays, moves and requests. -/

/-- A placed word, with the split of a wave of another context; and a word in a clause of another class. -/
def wordAt (w asid : Nat) : State :=
  let s := (State.reset.withFetchWord 64 w).updWave slot0 (fun x => { x with asid := asid })
  { s.setCtx asid (s.ctx 0) with slines := s.slines.map (fun e => ((asid, e.1.2), e.2)) }
def inClause (s : State) (h : W64) : State := s.updSplit split0 (fun x => { x with hdrw := some h })
def fits (s : State) : Bool :=
  fitsClause (((waveAt s).split 0).hdrw.getD 0) (fOp (turnRead s).2.1).toNat && !placementBad (turnRead s).2.1 (turnRead s).2.2.1 (wordsLeft ((waveAt s).split 0))
theorem wit_SoftwareTraps_words : let badOp := wordAt 0x1A70000000000000 0
    let badFunc := wordAt 0x4070000000000004 0
    let reserved := wordAt 0x0070000000000001 0
    let priv := wordAt 0xF274090000000000 5
    let other := inClause (wordAt 0x9070080400000004 0) 0
    (turnB badOp = true ∧ read0 badOp = .error .badOp) ∧ (turnB badFunc = true ∧ wordOk badFunc = true ∧ read0 badFunc = .error .badFunc) ∧
    (turnB reserved = true ∧ wordOk reserved = true ∧ read0 reserved = .error .reserved) ∧ (turnB other = true ∧ fits other = false ∧ read0 other ≠ .error .badOp) ∧
    (turnB priv = true ∧ fits priv = true ∧ read0 priv ≠ .error .badOp ∧ (waveAt priv).asid ≠ 0 ∧ isPriv (.qctlPause c7 4 (sr 5) (.reg 0)) = true) := by decide +kernel
/-- Split 0 stands at a header of value h, which it has not entered. -/
def headerIs (h : Nat) : State :=
  let s := State.reset.withFetchWord 64 0
  line512 (s.updSplit split0 (fun x => { x with pc := x.hdr, hdrw := none })) (fun l => { l with data := leBytes 8 h ++ l.data.drop 8 })
def headerRead (s : State) (h : W64) : Bool :=
  let b := begun s 0 s.agenda.tail
  let f := fetchWord b (waveAt s) ((waveAt s).split 0).hdr
  decide (s.agenda = .issue 0 0 0 :: s.agenda.tail) && decide (sliceAct b 0 0 0 = .enter split0) && decide (b.wave slot0 = some (waveAt s)) && !((waveAt s).split 0).recheck && f.2.1 == h && f.2.2 == 0
theorem wit_SoftwareTraps_headers : headerRead (headerIs 0x4000000000000000) 0x4000000000000000 = true ∧ headerRead (headerIs 1) 1 = true := by decide +kernel
/-- A frame of the placed wave in handler mode: its PC, its HDRPC, and STATE. -/
def frameOf (pc hdr st : Nat) : State :=
  withFrame (placedW (.tret c7) (fun w => { w with hmode := true, frame := 0x20000, rq := [5] })) (leBytes 8 pc ++ leBytes 8 hdr ++ leBytes 8 st)
def frameWord (s : State) (i : Nat) : Nat := leVal (((devRead s 0 (waveAt s).frame 256).2.1.drop (8 * i)).take 8)
theorem wit_TretReturns_frames : ((devRead (frameOf 0x10009 0 0) 0 0x20000 256).2.2.1 = 0 ∧ frameWord (frameOf 0x10009 0 0) 0 % 8 ≠ 0) ∧
    (frameWord (frameOf 0x10000 0x10000 0) 0 = frameWord (frameOf 0x10000 0x10000 0) 1 ∧ frameWord (frameOf 0x10000 0x10000 0) 0 % 8 = 0 ∧ (frameWord (frameOf 0x10000 0x10000 0) 2).testBit 32 = false) ∧
    (frameWord (frameOf 0x10008 0x10000 (2 ^ 32)) 2).testBit 32 = true ∧ (waveAt (frameOf 0x10008 0x10000 0)).rq = [5] ∧
    (devRead (frameOf 0x10008 0x10000 0) 0 0x20000 256).1.wave slot0 = some (waveAt (frameOf 0x10008 0x10000 0)) := by decide +kernel
/-- A captured store of the placed wave that has not left its core, behind a load. -/
theorem wit_TrapsAndHandlerEntry_replay : let s := withFrame (placed (.nop c7)) []
    let st : Op := { anOp (.store 4 false) with wuid := (waveAt s).uid, told := false, lanes := [mkLane 0 (0x10040, false) noData noData] }
    let ld : Op := { st with kind := .load 4 false false }
    let t := { s with ops := [(5, ld), (6, st)] }
    (waveAt t).hmode = false ∧ (t.ctx 0).handler ≠ 0 ∧ st.performed = false ∧ st.left = false ∧ isCapturedKind st.kind = true ∧ st.wuid = (waveAt t).uid ∧ isCapturedKind ld.kind = false ∧ 5 < 6 ∧
    (t.ops.all (fun o => o.2.wuid != (waveAt t).uid) = false) := by decide +kernel
/-- The wave's own credit to slot 0 on its way: a barrier instruction on the slot waits. -/
theorem wit_BarrierOperations_wait : let i : Instr := .barArrLane c7 3 (sr 4)
    let s := barIs (placed i) (barK 1)
    Meets { s with msgs := [(7, .credit 0 0 0 0 1 (waveAt s).uid)] } i (fun s j => j.e != 0 && slotOut (s.advance j.u 1) j.w 0) := meets_of (by decide +kernel)
theorem wit_LinksChange_times : let s := setLink State.reset link0 { State.reset.link link0 with eyeAt := some 0 }
    let t := setLink State.reset link0 { State.reset.link link0 with st := .training }
    (s.link link0).eyeAt.any (fun x => decide (s.now < x + 1100000)) = true ∧ (State.reset.link link0).eyeAt = none ∧ (t.link link0).rate = .g32 ∧ (t.link link0).st = .training := by decide +kernel
theorem wit_ManagementRequests_early : let s := { asked (dieIs 3 .quiesced) 2 3 0 0 with mgmtEarly := some 3 }
    takes s 2 false = true ∧ (s.die 3).st = .quiesced ∧ s.mgmtEarly = some 3 ∧ (asked (dieIs 3 .quiesced) 2 3 0 0).mgmtEarly = none := by decide +kernel
theorem wit_PortsAndPeers_strays : let s := hostSend 0 4 .active none
    tfind { s with conns := [] }.conns 9 = none ∧ framesIn { s with conns := [] } 0 1 = true ∧ (∀ p ∈ [0, 1], framesIn { s with frames := [] } p 1 = false) ∧
    (∀ c, tfind { s with conns := [] }.conns 9 = some c → framesIn s c.port 1 = false) := ⟨rfl, by decide +kernel, by decide +kernel, fun c h => by cases h⟩
theorem wit_PortsAndPeers_frames : let s := hostSend 0 4 .active none
    (s.port 0 = .active ∧ tget false { s with secured := [(0, true)] }.secured 0 = true ∧ tget false s.secured 0 = false) ∧ (2 ^ 56 : Nat) ≤ (0x100000000000000 : W64).toNat ∧
    peerOp { s with frames := [] } 9 0 1 = none := by decide +kernel
/-- A page in transit, at each of its steps, on a retiring channel. -/
def moving (n : Nat) : State := (noCtx 0).setChan 0 { (noCtx 0).chan 0 with transit := some ⟨0, 2 ^ 63, 0, n, 1, 0⟩ }
theorem wit_ChipletsAndChannels_moves : let run (n : Nat) : Bool := decide (engineOf (moving n) 0 = some 0) && ((moving n).chan 0).transit.any (fun t => t.step == n)
    ((noCtx 0).chan 0).pool = none ∧ run 1 = true ∧ run 2 = true ∧ run 3 = true ∧ run 4 = true ∧ (freeEntryAt State.reset 1 0 0).2 ≠ none := by decide +kernel
theorem wit_BudgetKeepsTime_changes : let s := { State.reset with capPending := true, capAt := 5, now := 6 }
    decide (s.now < s.capAt + 110000) = true ∧ { s with now := 200000 }.capSentAt = none ∧ ¬ 200000 < 5 + 110000 := by decide +kernel
theorem wit_ContextsEnd_pending : let s := ctx0 { State.reset with kerns := [(3, Kern.pending Launch.zero 0 1)] } .draining
    (s.ctx 0).st = .draining ∧ s.ops = [] ∧ s.copies = [] ∧ s.recq = [] ∧ ctxPending s 0 = [3] := by decide +kernel
theorem wit_QueueEngineActs_messages : let s := hostSend 0 4 .active none
    (openQ []).msg = true ∧ (s.queue 5).st = .opened ∧ peerOp s (s.queue 5).qpn 0 (packets 136) = some (openQ [], 0) ∧ peerOp s (s.queue 5).qpn 1 (packets 136) = none ∧ (s.queue 6).st = .closed := by
  decide +kernel
/-- A copy all of whose accesses are made, with the events of its chunks but the last delivered. -/
theorem wit_CopiesRun_end : let c := { copy0 .active with accs := [{ acc 0x10040 0 with fin := true }, { acc 0x10048 1 with fin := true }], told := [0] }
    let s := withCopy c
    tfind s.copies 3 = some c ∧ c.st = .active ∧ copyHere s c = true ∧ savedOut s c.tblock c.tcopy = false ∧ (∀ a ∈ c.accs, a.fin = true) ∧ c.nchunk ≤ c.told.length + 1 ∧
    (∀ x ∈ s.copies, x.2.peer ≠ some 3) ∧ (s.bar c.tblock c.tcopy c.slot).kind = 3 := by decide +kernel

/-! Witnesses of the clauses on held-back moves, records, scratchpads, the window, seals and waits. -/

/-- A fault queue of two places at 0x20000: PROD, CONS and DROPS as given. -/
def queueAt (prod cons : Nat) : State :=
  let s := withFrame (placed (.nop c7)) (leBytes 4 prod ++ leBytes 4 cons)
  s.setCtx 0 { s.ctx 0 with fqBase := 0x20000, fqLog2 := 1 }
def fill (s : State) : Option (Nat × Nat) := (fqLook s 0).2
theorem wit_TrapsAndHandlerEntry_records : (State.reset.ctx 7).fqBase = 0 ∧ (fqLook State.reset 7).2 = none ∧
    (let s := queueAt 5 4
     let r := (fqLook s 0).1
     (s.ctx 0).fqBase ≠ 0 ∧ (devRead s 0 0x20000 8).2.2.1 = 0 ∧ fill s = some (5, 1) ∧ 1 + placesKept r 0 ≠ 2 ∧ (devRead r 0 (0x20000 + 64 + 64) 64).2.2.1 = 0 ∧
     (devWrite r 0 (0x20000 + 64 + 64) (List.replicate 64 0)).2.1 = 0 ∧ (devWrite r 0 0x20000 (leBytes 4 6)).2.1 = 0) ∧
    (let s := queueAt 5 3
     fill s = some (5, 2) ∧ 2 + placesKept (fqLook s 0).1 0 = 2 ∧ (devRead (fqLook s 0).1 0 0x20008 4).2.2.1 = 0) ∧
    (devRead ((queueAt 0 0).setCtx 0 { (queueAt 0 0).ctx 0 with fqBase := 2 ^ 56 - 64 }) 0 (2 ^ 56 - 64) 8).2.2.1 ≠ 0 := by decide +kernel
theorem wit_StepRunsDecoded_held : State.reset.heldBack = false ∧ { State.reset with heldBack := true }.heldBack = true := by decide +kernel
/-- What a scratchpad asks of a request of operation 1 for line ln: nothing stands before it, and where it goes. -/
def asksPad (s : State) (ln : Nat) (ok : Option Place → Bool) : Bool :=
  let x := op1 s
  decide (s.op 1 = some x) && x.twin == 0 && mayRequest s x && lineLanes x ln != [] && !storeBlocked s 1 x (lineLanes x ln) && !spadWaits s 1 x (lineLanes x ln)
    && x.lanes.all (fun l => l.cause == 0) && decide (x.space ≠ .glob) && ok ((destOf s x ((lineLanes x ln).headD (mkLane 0 noData noData noData))).bind (fun d => s.place d.1 d.2.1))
def stands (p : Option Place) : Bool := p.any (fun p => !p.saved && !p.retired)
/-- The 32 lanes of a 4-byte access from an address on. -/
def wholeLine (a : Nat) (s : State) : State := s.updOp 1 (fun x => { x with lanes := (List.range 32).map (fun l => mkLane l (a + 4 * l, false) (l, false) noData) })
/-- The lanes of operation 1 go to rank 3, which no block has. -/
def awayFrom (s : State) : State := s.updOp 1 (fun x => { x with lanes := x.lanes.map (fun l => { l with addr := l.addr + 0x300000 }) })
theorem wit_AccessesArePerformed_scratchpad : let own := told (.sts c7 (rv 3) (rv 8) ld0 4)
    let win := told (.stc c7 (rv 3) (rv 8) ld0 4)
    let far := awayFrom win
    (op1 own).kind = .store 4 false ∧ asksPad own 0 stands = true ∧ (op1 own).space = .spad 0 0 ∧ asksPad win 0 stands = true ∧ (op1 win).space = .none ∧
    asksPad far (0x300000 / 128) (fun p => p.isNone) = true ∧ coversLine (laneCells 4 (lineLanes (op1 (wholeLine 0 own)) 0)) 0 = true ∧
    asksPad { win with blocks := win.blocks.map (fun b => (b.1, { b.2 with places := b.2.places.map (fun p => { p with retired := true }) })) } 0 (fun p => p.any (fun p => p.retired && !p.saved)) = true ∧
    (peerBlock win 0 0 = some 0 ∧ (tfind win.blocks 0).isSome = true) := by decide +kernel
/-- Whole lines of channel 1's window are stored to: the line's poison goes. -/
theorem wit_AccessesArePerformed_window : let s := wholeLine (windowVa 1 0x4000) (told (.st c7 (rv 3) ga ld0 0x10040))
    let ln := lineOf (windowVa 1 0x4000)
    mayRequest s (op1 s) = true ∧ lineLanes (op1 s) ln ≠ [] ∧ storeBlocked s 1 (op1 s) (lineLanes (op1 s) ln) = false ∧ holdsBack s 0 (128 * ln) = false ∧ inWindow 0 (128 * ln) = true ∧
    coversLine (laneCells 4 (lineLanes (op1 s) ln)) ln = true ∧ (match reachLine (arriveAt s 0 (128 * ln)) 0 (128 * ln) .wr with | (_, .ok _) => true | _ => false) = true := by decide +kernel
/-- A matched compared store whose partner is operation 9, and one that waits. -/
theorem wit_AccessesArePerformed_twin : let st := told (.st c7 (rv 3) ga ld0 0x10040)
    let x : Op := { op1 st with twin := 2, peer := 9 }
    let s : State := { st with ops := [(1, x), (9, { x with twin := 3, peer := 1 })] }
    mayRequest s x = true ∧ x.peer ≠ 1 ∧ lineLanes x 512 ≠ [] ∧ storeBlocked s 1 x (lineLanes x 512) = false ∧ (s.op x.peer).isSome = true ∧ (s.op 9).any (fun y => y.twin == 3) = true := by
  decide +kernel
theorem wit_FillsAndStatuses_others : let la := told (.lda c7 (dv 3) ga at0 0x10040)
    let pf := told (.pf c7 ga false 0x10040)
    let own := told (.lds c7 (dv 3) (rv 8) ld0 4)
    let win := told (.ldc c7 (dv 3) (rv 8) ld0 4)
    (op1 la).kind = .lda 4 ∧ asks la = true ∧ reaches la .rd false = true ∧ (op1 pf).kind = .pf false ∧ asks pf = true ∧ reaches pf .rd false = true ∧
    (let m : State := { pf with slines := [], ctxs := [] }
     asks m = true ∧ fails m .rd = true) ∧
    (op1 own).kind = .load 4 false false ∧ asksPad own 0 stands = true ∧ asksPad win 0 stands = true ∧ asksPad (awayFrom win) (0x300000 / 128) (fun p => p.isNone) = true := by
  decide +kernel
/-- An earlier store of the core to byte 4 of the scratchpad, which a load of it waits for. -/
theorem wit_FillsAndStatuses_ownStores : let m := mkLane 0 (4, false) (7, false) noData
    let st : Op := { anOp (.store 4 false) with space := .spad 0 0, lanes := [m] }
    let ld : Op := { st with kind := .load 4 false false }
    let s := withOps st ld
    s.op 6 = some ld ∧ lineLanes ld 0 = [m] ∧ shareByte s ld m st m = true ∧ 5 < 6 ∧ st.inRq = false ∧ m.fin = false ∧ m.cause = 0 ∧
    destOf s ld m = some (0, 0, 4) ∧ (s.place 0 0).any (fun p => !p.retired) = true := by
  decide +kernel
/-- A seal of the page of 0x10000, whose table entry is in its bucket. -/
def sealing (k : OpKind) : State :=
  let x : Op := { anOp k with lanes := [{ mkLane 0 (0x10040, false) noData noData with chk := true }] }
  withOps x { anOp (.store 4 false) with lanes := [] }
def tabled (s : State) : State :=
  { s with slines := s.slines ++ [((0, lineOf (windowVa 4 (128 * bucketOf 0 4))), { slotLine (leBytes 8 (2 ^ 63 + 4)) with chan := 4 })] }
theorem wit_ClosesAndOpensEnd_seals : let s := sealing .seal
    let x := (s.op 5).getD (anOp .close)
    let p := accessesOf 0 4
    (x.kind = .seal ∧ mayRequest s x = true ∧ lineLanes x 512 ≠ [] ∧ vpnOf (128 * 512) = 4 ∧ stillOut (flushLanes s p) p = false ∧ ((flushLanes s p).home 0 (16384 * 4)).isSome = true) ∧
    lineLanes x 3 = [] ∧ s.inTransit 0 4 = none ∧ (walk (tabled s) 4 0 4).2 = some (128 * bucketOf 0 4, 2 ^ 63 + 4, 0) ∧
    (let t := line512 s (fun l => { l with sealed := true })
     inWindow 0 0x10000 = false ∧ (t.home 0 0x10000).isSome = true ∧ (tfind t.slines (0, 512)).any (fun l => l.w && l.sealed) = true) := by decide +kernel
/-- An arrival that waits for a store holds bar.wd back. -/
theorem wit_BarrierOperations_withdraw : Meets { placed (.barWd c7) with ops := [(5, anOp (.cmd (.barSync 0 0 false)))] } (.barWd c7)
    (fun s j => j.e != 0 && syncsOut (s.advance j.u 1) j.w (fun _ => true)) := meets_of (by decide +kernel)
/-- A store of the wave to its frame holds tret back. -/
theorem wit_TretReturns_frameStores : Meets { placedW (.tret c7) (fun w => { w with hmode := true, frame := 0x20000 }) with
    ops := [(5, { anOp (.store 4 false) with left := true, lanes := [mkLane 0 (0x20010, false) noData noData] })] } (.tret c7)
    (fun s j => j.w.hmode && !storesOutL1 (s.advance j.u 1) j.w.uid && frameStores (s.advance j.u 1) j.w) := meets_of (by decide +kernel)
theorem wit_SplitsMoveOn_fetches : let p := placed (.nop c7)
    let bad (hw : Option W64) : State := p.updSplit split0 (fun x => { x with pc := 8, hdr := if hw.isNone then 8 else x.hdr, hdrw := hw, recheck := hw.isNone })
    let w := bad (waveAt p |>.split 0).hdrw
    let h := bad none
    (sliceAct w 0 0 0 = .word split0 ∧ (fetchWord w (waveAt w) 8).2.2 ≠ 0) ∧ (sliceAct h 0 0 0 = .enter split0 ∧ (fetchWord h (waveAt h) 8).2.2 ≠ 0) ∧
    ((p.updSplit split0 (fun x => { x with hold := .backoff 5 })).split split0).hold = .backoff 5 := by decide +kernel

theorem wit_CopiesRun_start : let c := copy0 .queued
    copyBlocks c ≠ [] ∧ (copyBlocks c).all (fun b => !savedOut (withCopy c) b.1 b.2) = true ∧ nextQueued (withCopy c) c = some 3 := by decide +kernel
/-- A request of the page that has passed its check with merged statuses and cannot be performed yet: a compared one without its match. -/
def waits (s : State) (sp : Space) (addr : Nat) : State :=
  { s with ops := s.ops ++ [(5, { anOp (.store 4 false) with wuid := (waveAt s).uid, space := sp, twin := 1, lanes := [{ mkLane 0 (addr, false) noData noData with chk := true }] })] }
theorem wit_LaunchAndInvalidate_waits : let cov := pgCovers 0 0 0x10000
    stillOut (flushPages (waits (placed (.nop c7)) .glob 0x10040) cov) (ofPages cov) = true ∧ stillOut (flushPages (placed (.nop c7)) cov) (ofPages cov) = false := by decide +kernel
/-- A copy of a block's place on a core. -/
def placeOn (core : Nat) (saved : Bool) : Place := ⟨0, core, 0, 0, List.range 16, false, saved⟩
/-- Block 0 of a group of two has nothing left; a wave of block 1 stands in slot 0. -/
def twoBlocks : State :=
  let s := (placedW (.nop c7) (fun w => { w with block := 1 })).updKern 0 (fun k => { k with l := { k.l with gx := 2, gsize := 1 } })
  { s with blocks := [(0, ⟨0, 0, 0, [placeOn 0 false]⟩), (1, ⟨0, 1, 0, [placeOn 0 false]⟩)] }
theorem wit_KernelsEnd_peers : (tfind twoBlocks.blocks 0).any (fun y => blockDone twoBlocks 0 y) = true ∧ peerOut (flushPeer twoBlocks 0 0) 0 = false ∧
    (let s := waits twoBlocks .none 4
     (tfind s.blocks 0).any (fun y => blockDone s 0 y) = true ∧ peerOut (flushPeer s 0 0) 0 = true) := by decide +kernel
theorem wit_QueueEngineActs_stray : let s := hostSend 0 4 .active none
    (s.queue 6).st = .closed ∧ framesIn s 0 (packets 136) = true ∧ (∀ p, p ∈ [0, 1] → framesIn { s with frames := [] } p (packets 136) = false) := by decide +kernel
theorem wit_ContextsEnd_saves : let s := ctx0 (placed (.nop c7)) .preempting
    let y := s.updSplit split0 (fun z => { z with hold := .yielded })
    let st := s.updWave slot0 (fun w => { w with stopped := true })
    let v := fun (s : State) => flushPeer s 0 0
    (peersDone (v y) 0 = true ∧ blockAtRest (v y) 0 = true ∧ blockWaves (v y) 0 ≠ []) ∧
    (peersDone (v st) 0 = true ∧ blockAtRest (v st) 0 = false ∧ expired (v st) 0 0 0 = true ∧ entriesLone (v st) 0 = true ∧ (blockWaves (v st) 0).all (fun w => w.2.stopped) = true ∧ blockDrained (startForced (v st) 0) 0 = true) ∧
    (blockWaves (v s) 0).all (fun w => w.2.stopped) = false ∧ peersDone (v (waits twoBlocks .none 4)) 0 = false ∧
    entriesLone (v { st with twins := [(5, entry 0 1), (6, entry 1 1)] }) 0 = false := by decide +kernel
/-- An engine command behind a phase close of its lanes, and without one. -/
theorem wit_MatrixEngines_closed : let held (i : Instr) : State :=
      let s := placedW i (fun w => { w with fences := [(9, 0xFFFFFFFF)] })
      { s with ops := [(9, blankOp (issueOf s c7 (curAt s) (waveAt s)) .close [])] }
    let closed (i : Instr) (s : State) (j : Issue) : Bool := j.e != 0 && closeHolds s (decCm ((encode i).headD 0)) (curAt s) j.w
    ∀ i ∈ [(.fdl c7 3 (.reg 20) : Instr), .mxZero c7 0, .mxRd c7 (dv 8) 0 (sr 6), .mxWr c7 0 (sr 6) (dv 8), .mxBatch c7 3, .mxWait c7 1, .mxStat c7 3 16],
      Meets (held i) i (closed i) ∧ Meets (placed i) i (fun s j => j.e != 0 && !closeHolds s (decCm ((encode i).headD 0)) (curAt s) j.w) := by
  intro held closed i h
  simp only [List.mem_cons, List.not_mem_nil, or_false] at h
  rcases h with rfl | rfl | rfl | rfl | rfl | rfl | rfl <;> exact ⟨meets_of (by decide +kernel), meets_of (by decide +kernel)⟩
theorem wit_MatrixCommandsRun_saved : let s := placed (.nop c7)
    savedOut { s with blocks := [(0, ⟨0, 0, 0, [placeOn 0 true]⟩)] } 0 0 = true ∧ savedOut s 0 0 = false := by decide +kernel
theorem wit_ChipletsAndChannels_waits : let here := fun (a v : Nat) => decide ((a, v) = pageOf (2 ^ 63))
    stillOut (flushPages (moving 2) here) (ofPages here) = false ∧ stillOut (flushPages (waits (moving 2) .glob 0x40) here) (ofPages here) = true ∧
    (freeEntryAt { State.reset with slines := [] } 1 0 0).2 = some (128 * bucketOf 0 0) := by decide +kernel

/-! Witnesses of the clauses on arrivals, scopes, fences, restarts, retired lines and clocks. -/

/-- An arrival that waits for a store holds exit back. -/
theorem wit_ExitRetiresLanes_arrival : Meets { placed (.exit c7) with ops := [(5, anOp (.cmd (.barSync 0 0 true)))] } (.exit c7)
    (fun s j => j.e != 0 && syncsOut (s.advance j.u 1) j.w (fun _ => true)) ∧
    Meets (placed (.exit c7)) (.exit c7) (fun s j => j.e != 0 && !syncsOut (s.advance j.u 1) j.w (fun _ => true)) := ⟨meets_of (by decide +kernel), meets_of (by decide +kernel)⟩
/-- A store with its statuses out and one with them merged, before closes at .blk and wider. -/
theorem wit_ClosesAndOpensEnd_scopes : let st : Op := { anOp (.store 4 false) with lanes := [{ mkLane 0 (0x10040, false) noData noData with chk := true }] }
    let cl (scp : Nat) : Op := { anOp .close with after := [6], reg := scp }
    (st.told = true ∧ closedAt (withOps (cl 1) st) 1 6 = true ∧ closedAt (withOps (cl 4) st) 4 6 = false) ∧
    closedAt (withOps (cl 1) { st with told := false }) 1 6 = false ∧ closedAt (withOps (cl 1) { st with kind := .seal }) 1 6 = false ∧
    closedAt (withOps (cl 1) { st with twin := 2 }) 1 6 = false := by decide +kernel
/-- A fence whose split has gone on or is held, with no die fenced and with one; aligned and misaligned. -/
def fencing (v : Nat) (held : Bool) (d : Bool) : State :=
  let s := withOps (anOp (.cmd (.recFence v))) (anOp .close)
  let s := if held then s.updSplit split0 (fun x => { x with hold := .op 5 }) else s
  if d then s.setDie 3 { s.die 3 with st := .fencing } else s
theorem wit_CopyPairsAndFences_ends :
    (∀ b ∈ [false, true], ∀ v ∈ [64, 65], ∀ d ∈ [false, true], (fencing v b d).op 5 = some (anOp (.cmd (.recFence v))) ∧ accepted (fencing v b d) (anOp (.cmd (.recFence v))) = true) ∧
    (anOp (.cmd (.recFence 64))).inRq = false ∧ (anOp (.cmd (.recFence 64))).twin = 0 ∧ (anOp (.cmd (.recFence 64))).fin = false ∧
    ((fencing 64 true false).split split0).hold = .op 5 ∧ ((fencing 64 false false).split split0).hold ≠ .op 5 ∧ fencedDies (fencing 64 true false) = [] ∧ fencedDies (fencing 64 true true) = [3] ∧
    Meets (withRec (placed (.recFence c7 2))) (.recFence c7 2) (fun s j => j.e != 0 && (fencedDies (s.advance j.u 1)).isEmpty) ∧
    Meets ((withRec (placed (.recFence c7 2))).setDie 3 { (placed (.recFence c7 2)).die 3 with st := .fencing }) (.recFence c7 2) (fun s j => j.e != 0 && fencedDies (s.advance j.u 1) == [3]) :=
  ⟨by decide +kernel, by decide +kernel, by decide +kernel, by decide +kernel, by decide +kernel, by decide +kernel, by decide +kernel, by decide +kernel, meets_of (by decide +kernel), meets_of (by decide +kernel)⟩
/-- A failing chk.restart of a twin wave, below eight restarts and at the eighth. -/
theorem wit_ChecksHintsAndRegions_twins : let i : Instr := .chk c7 (.reg 4) true
    let w (n : Nat) (w : Wave) : Wave := { withCk w with twin := true, region := { w.region with rcnt := n } }
    let fails (n : Nat) (s : State) (j : Issue) : Bool := j.e != 0 && !(spair s j.w (.reg 4)).2 && (spair s j.w (.reg 4)).1 != j.w.ck1 ++ j.w.ck0 && j.w.twin && j.w.region.rcnt == n
    Meets (placedW i (w 7)) i (fails 7) ∧ Meets (placedW i (w 8)) i (fails 8) := ⟨meets_of (by decide +kernel), meets_of (by decide +kernel)⟩
/-- A wave whose handler has exited with a store in its replay queue. -/
theorem wit_KernelsEnd_replay : (placedW (.nop c7) (fun w => { w with rq := [6] })).wave slot0 = some (waveAt (placedW (.nop c7) (fun w => { w with rq := [6] }))) ∧
    (waveAt (placedW (.nop c7) (fun w => { w with rq := [6] }))).rq ≠ [] ∧ (waveAt ((withOps (anOp (.cmd .exit)) (anOp .close)).updWave slot0 (fun w => { w with exitOp := some 5 }))).rq = [] := by decide +kernel
/-- A keyed and an unkeyed context with a dirty line in a slice, one in an L1 and a cached record; and the same with a fenced die. -/
def retiring (keyed : Bool) : State :=
  let s := (placed (.nop c7)).setCtx 5 { Ctx.fresh with st := .draining, keyed := keyed }
  let s := s.setCore 0 0 { s.core 0 0 with l1 := [⟨5, 512, leBytes 128 7, false, false⟩] }
  { s with slines := s.slines ++ [((5, 512), { slotLine (leBytes 8 7) with dirty := true })], recs := [((0, 0), [(5, 0x10040, leBytes 64 1)])] }
theorem wit_ContextsEnd_retires : (fencedDies (retiring true) = [] ∧ ((retiring true).ctx 5).keyed = true) ∧ (fencedDies (retiring false) = [] ∧ ((retiring false).ctx 5).keyed = false) ∧
    leveeUp (retiring false) 0 = false ∧ ((retiring false).core 0 0).l1 ≠ [] ∧ (retireAsid (retiring false) 5).slines.all (fun e => e.1.1 != 5) = true ∧
    ((retireAsid (retiring false) 5).core 0 0).l1 = [] ∧ ((retiring false).slines.any (fun e => e.1.1 == 5)) = true := by decide +kernel
/-- A millisecond after reset, with the clock of die 3 at the word's value and below it. -/
theorem wit_BudgetKeepsTime_clocks : let s : State := { State.reset with now := 1100000 }
    let t := s.setDie 3 { s.die 3 with mhz := 1000 }
    s.clkAt + 1100000 ≤ s.now ∧ (∀ n ∈ List.range 16, s.holder n = some n ∧ inService s n = true ∧ (s.die n).refAt < s.now ∧ meanMhz s n = tget 1100 s.capMhz n) ∧
    t.holder 3 = some 3 ∧ inService t 3 = true ∧ meanMhz t 3 = 1000 ∧ tget 1100 t.capMhz 3 = 1100 ∧ (dieIs 3 .failed).holder 3 = some 3 ∧ inService (dieIs 3 .failed) 3 = false := by decide +kernel

/-! ### Single steps with results the spec gives -/

/-- The lane's value of the last write that a placed instruction puts in flight. -/
def wrote (i : Instr) (f : Wave → Wave) (l : Nat) : Option Val :=
  ((waveAt (nextOf (exec i (placedW i f)))).pend.getLast?).bind (fun p => (p.vals.find? (fun v => v.1 == l)).map (·.2))
def vregs (a b : W32) (w : Wave) : Wave := { w with v := [(4, List.replicate 32 ⟨a, false⟩), (5, List.replicate 32 ⟨b, false⟩)] }
/-- Table 4.3 with SAT: 0x7FFFFFFF + 1 saturates in the signed type; a carry of 2^32 − 1 + 1; R107's lowest bit. -/
theorem test_integer : wrote (.vadd c7 (dv 3) (rv 4) (rv 5) ⟨0, 0, true, .s⟩) (vregs 0x7FFFFFFF 1) 0 = some ⟨0x7FFFFFFF, false⟩ ∧
    wrote (.vadd c7 (dv 3) (rv 4) (rv 5) fS) (vregs 0x7FFFFFFF 1) 31 = some ⟨0x80000000, false⟩ ∧
    wrote (.vaddc c7 (dv 3) (rv 4) (rv 5) ⟨1, 0, false, .b⟩) (vregs 0xFFFFFFFF 1) 0 = some ⟨1, false⟩ ∧
    wrote (.vshl c7 (dv 3) (rv 4) (rv 5) fB) (vregs 1 32) 0 = some ⟨0, false⟩ ∧ wrote (.vshr c7 (dv 3) (rv 4) (rv 5) fS) (vregs 0x80000000 40) 0 = some ⟨0xFFFFFFFF, false⟩ := by decide +kernel
/-- R106: division by zero, and the most negative number by −1. -/
theorem test_sdiv : let sg (a b : W32) (w : Wave) : Wave := { w with s := [(5, ⟨a, false⟩), (6, ⟨b, false⟩)] }
    wrote (.sdiv c7 4 (sr 5) (sr 6) fS) (sg 7 0) 0 = some ⟨0xFFFFFFFF, false⟩ ∧ wrote (.sdiv c7 4 (sr 5) (sr 6) fS) (sg 0x80000000 0xFFFFFFFF) 0 = some ⟨0x80000000, false⟩ ∧
    wrote (.sdiv c7 4 (sr 5) (sr 6) fS) (sg 0xFFFFFFF9 2) 0 = some ⟨0xFFFFFFFD, false⟩ := by decide +kernel
/-- 2^24 + 1 ties to even; frnd.rz of a value below one keeps its sign (R120); the flags of fcls for −0. -/
theorem test_float : wrote (.fadd c7 (dv 3) (rv 4) (rv 5) fF) (vregs 0x4B800000 0x3F800000) 0 = some ⟨0x4B800000, false⟩ ∧
    wrote (.frnd c7 (dv 3) (rv 4) ⟨0, 0, false, .rz⟩) (vregs 0xBE99999A 0) 0 = some ⟨0x80000000, false⟩ ∧ wrote (.fmul c7 (dv 3) (rv 4) (rv 5) fF) (vregs 0x7F800000 0) 0 = some ⟨0x7FC00000, false⟩ ∧
    wrote (.fcls c7 (rv 4) (rv 5) fF) (vregs 0x80000000 8) 0 = some ⟨1, false⟩ := by decide +kernel
/-- A poisoned source poisons the result (R257, R113). -/
theorem test_poison : wrote (.vxor c7 (dv 3) (rv 4) (rv 4) fB) (fun w => { w with v := [(4, List.replicate 32 ⟨5, true⟩)] }) 0 = some ⟨0, true⟩ := by decide +kernel
/-- Chapter 10's brm: lanes by residue go to headers 5, 8, 11 and 14 words after the brm at 0x10008. -/
theorem test_brm_targets : let w : Wave := { waveAt (placed (.nop c7)) with p := [(0, (0x22222222, 0)), (1, (0x44444444, 0)), (2, (0x88888888, 0))] }
    (List.range 4).map (fun l => (brmLane (placed (.nop c7)) w 0x10008 0x10058 l [(0, 5), (1, 8), (2, 11)]).1) = [0x10058, 0x10030, 0x10048, 0x10060] := by decide +kernel
/-- Chapter 06: the frame of slot 21, core 17 of logical die 3 with FRAME_BASE 0x40_0000_0000 is at 0x40_0022_5500; trap #5 has cause 0x045. -/
theorem test_frame_address : frameAddr (State.reset.setCtx 0x2A { Ctx.fresh with frameBase := 0x4000000000 }) ⟨3, 17, 21⟩ { slotWave 1 with asid := 0x2A } = 0x4000225500 ∧
    ((waveAt (nextOf (exec (.trap c7 5) { withFrame (placed (.trap c7 5)) [] with ops := [(0, { anOp (.store 4 false) with left := true, told := false, lanes := [mkLane 0 (0x10040, false) noData noData] })] }))).trap).map
      (fun t => (t.cause, t.info)) = some (0x045, 5) := by decide +kernel
/-- Chapter 12: with ALLOT 8 a 64-bit load into v7 is out of bounds, and so is the address pair v7 and v8 (R260); v6 is in bounds. -/
theorem test_bounds : let w : Wave := { slotWave 1 with allot := 8 }
    let bad (d a : Nat) (z : Sz) : Bool := boundsBad State.reset w (refsOf (.ld c7 (dv d) (.vec (dv a)) ⟨0, false, z⟩ 0))
    bad 7 0 .b64 = true ∧ bad 4 7 .b32 = true ∧ bad 6 6 .b64 = false := by decide +kernel
/-- Lanes of an atomic on one word: the old values of chapter 12's examples, and what the word ends with. -/
def atLanes (xs : List Nat) : List LaneA := xs.mapIdx (fun i x => mkLane i (0, false) (x, false) noData)
def word0 (l : List Byte) : Nat := leVal (l.take 4)
/-- The word after the last step of an atomic. -/
def lastOf (l : List (Nat × List Byte)) : Nat := word0 (((l.getLast?).map (·.2)).getD [])
def fourSums : List LaneA := atLanes [0x4B800000, 0x3F800000, 0x3F800000, 0x3F800000]
theorem test_atomic_lanes : (atomLanes 0 4 false (leBytes 128 0) (atLanes [1, 2, 3, 4])).2.map (·.got) = [0, 1, 3, 6] ∧
    lastOf (atomLanes 0 4 false (leBytes 128 0) (atLanes [1, 2, 3, 4])).1 = 10 := by decide +kernel
theorem test_float_sums : lastOf (atomLanes 11 4 false (leBytes 128 0) fourSums).1 = 0x4B800000 ∧
    lastOf (redbLanes 11 4 fourSums (leBytes 128 0) [0]) = 0x4B800001 := by decide +kernel
/-- Chapter 11: a LANE slot at COUNT 63 of 64 completes with the last lane; a BYTE slot fed early completes with 2048 bytes carried and OVF. -/
theorem test_barriers : let s := barIs (placed (.nop c7)) { Bar.fresh with kind := 1, wmask := 3, count := 63, exp := 64 }
    let t := creditBytes (barIs (placed (.nop c7)) { Bar.fresh with kind := 2, named := 3, epost := 3, cnt := [(1, 4096)], expi := [(1, 2048), (0, 8192)] }) 0 0 0 0 8192
    ((laneCheck s 0 0 0).bar 0 0 0 = s.bar 0 0 0) ∧ (let r := (arriveLanes s 0 0 0 1).bar 0 0 0
      r.ph = true ∧ r.count = 0 ∧ r.ovf = false) ∧
    ((t.bar 0 0 0).ph = true ∧ (t.bar 0 0 0).ovf = true ∧ tget 0 (t.bar 0 0 0).cnt 1 = 2048 ∧ tget 0 (t.bar 0 0 0).cnt 0 = 0) := by decide +kernel
/-- Chapter 18: compute die 5's module 1 of router 2 steps from 32 to 24 GT/s: STEPPED, 3008 GB/s, GEN one higher. -/
theorem test_link_step : let t := nextOf (exec (.eyeMeasure ⟨5, 2, 1⟩ true) State.reset)
    dieGb State.reset 5 = 3072 ∧ dieGb t 5 = 3008 ∧ (t.link ⟨5, 2, 1⟩).st = .stepped ∧ t.gen = State.reset.gen + 1 := by decide +kernel
/-- Chapter 15: the gather's record has a 256-byte box row and a box of 16384 bytes, and is valid; rows 0, 2, 4 and 63 of the mask are rows 60, 62, 64 and 123. -/
theorem test_tensor_record : let r := tensorRec (leBytes 8 0x4000000000 ++ leBytes 8 (256 + 100 * 2 ^ 32) ++ leBytes 8 (1 + 2 ^ 32) ++ leBytes 8 1 ++ leBytes 8 (127 * 2 ^ 56 + 63 * 2 ^ 48 + 512) ++ leBytes 16 0 ++ leBytes 8 (2 * 2 ^ 45 + 2 * 2 ^ 42))
    r.bad = false ∧ r.row = 256 ∧ r.boxBytes = 16384 ∧ (maskRows r [0, 60, 0, 0, 0] 0x8000000000000015).map (fun n => n.headD 0) = [60, 62, 64, 123] := by decide +kernel

/-- A unit read early keeps its bytes when a later store changes them; the next unit does not (R338). -/
theorem test_mx_unit_read_early : let s := spadPut (withMx (placed (.nop c7)) (cmd0 (.ldb 0 0x0010000000000003 0 1) .waiting)) 0 0 0 [(0, 1), (8, 1)]
    let t := spadPut (mxUnit 4 0 s) 0 0 0 [(0, 2), (8, 2)]
    ((tfind t.mxs 4).map (fun x => ((arrayRead x.units t 0 0 0 1).1, (arrayRead x.units t 0 0 8 1).1))) = some ([1], [2]) := by decide +kernel
end Sys2Proof.Tests
end

section
/-! SUPPORT. Chiplets, channels and the migration engine: what each event and each step of a page move answers, case by case (R8, R369 to R375, R392),
and the statement about them. -/

namespace Sys2Proof.Machine

/-! ### The meaning of each event -/

@[simp] theorem exec_fencingQuiesced (ch : Nat) (s : State) : exec (.fencingQuiesced ch) s = execFencingQuiesced ch s := rfl
@[simp] theorem exec_dieResetComplete (ch : Nat) (s : State) : exec (.dieResetComplete ch) s = execDieResetComplete ch s := rfl
@[simp] theorem exec_dieAdmitResult (ch : Nat) (pass : Bool) (s : State) : exec (.dieAdmitResult ch pass) s = execDieAdmitResult ch pass s := rfl
@[simp] theorem exec_dieErrorFence (n : Nat) (s : State) : exec (.dieErrorFence n) s = execDieErrorFence n s := rfl
@[simp] theorem exec_ioDie1Fault (s : State) : exec .ioDie1Fault s = .next (fenceForError s 0x31) := rfl
@[simp] theorem exec_coldReset (s : State) : exec .coldReset s = .next (packageReset s) := rfl
@[simp] theorem exec_ioDie0UnitFault (unit : IoUnit) (s : State) : exec (.ioDie0UnitFault unit) s = execIoDie0UnitFault unit s := rfl
@[simp] theorem exec_channelAutoRetire (ch : Nat) (s : State) : exec (.channelAutoRetire ch) s = execChannelAutoRetire ch s := rfl
@[simp] theorem exec_cacheDieFault (n : Nat) (s : State) : exec (.cacheDieFault n) s = execCacheDieFault n s := rfl
@[simp] theorem exec_pageMove (n : Nat) (s : State) : exec (.pageMove n) s = execPageMove n s := rfl

@[simp] theorem State.die_setDie (s : State) (n : Nat) (x : Chiplet) : (s.setDie n x).die n = x := tget_tset_same _ _ _ _

/-! ### Events of units that the package does not have (entry 52) -/

theorem chipletEvents_noSuchUnit {ch : Nat} (h : isChiplet ch = false) (pass : Bool) (s : State) :
    ∀ i ∈ [(.fencingQuiesced ch : Instr), .dieResetComplete ch, .dieAdmitResult ch pass], exec i s = .fault (.noSuchUnit ch) := by
  simp [execFencingQuiesced, execDieResetComplete, execDieAdmitResult, h]
theorem execDieErrorFence_noSuchUnit {n : Nat} (h : 18 ≤ n) (s : State) : execDieErrorFence n s = .fault (.noSuchUnit n) := by
  simp [execDieErrorFence, isCompute, Nat.not_lt.2 h]
theorem execCacheDieFault_noSuchUnit {n : Nat} (h : 4 ≤ n) (s : State) : execCacheDieFault n s = .fault (.noSuchUnit (0x20 + n)) := if_pos h
theorem execPageMove_noSuchUnit {n : Nat} (h : 4 ≤ n) (s : State) : execPageMove n s = .fault (.noSuchUnit (0x20 + n)) := if_pos h
theorem execChannelAutoRetire_noSuchUnit {n : Nat} (h : Config.nChan ≤ n) (s : State) : execChannelAutoRetire n s = .fault (.noSuchUnit n) := if_pos h

/-! ### Fences (R369 to R371) -/

theorem fenceForError_active {s : State} {n : Nat} (h : (s.die n).st = .active) : fenceForError s n = enterFencing s n true := by
  simp [fenceForError, h]
theorem fenceForError_other {s : State} {n : Nat} (h : (s.die n).st ≠ .active) : fenceForError s n = s := by
  simp [fenceForError, h]
theorem execDieErrorFence_compute {n : Nat} (h : n < 18) (s : State) : execDieErrorFence n s = .next (fenceForError s n) := by
  simp [execDieErrorFence, isCompute, h]

/-- A chiplet is cut off: its links are QUIESCED, and no operation of its cores is left. -/
def severed (s : State) (ch : Nat) : State :=
  let q := quiesceLinks s ch
  { q with ops := q.ops.filter (fun (o : Nat × Op) => !ofDie q ch o.2) }

theorem execFencingQuiesced_waits {s : State} {ch : Nat} (hc : isChiplet ch = true) (h : (s.die ch).st ≠ .fencing ∨ dieQuiet s ch = false) :
    execFencingQuiesced ch s = .next s := by
  rcases h with h | h <;> simp [execFencingQuiesced, hc, h]
theorem execFencingQuiesced_quiesced {s : State} {ch : Nat} (hc : isChiplet ch = true) (hf : (s.die ch).st = .fencing) (hq : dieQuiet s ch = true)
    (he : ((severed s ch).die ch).err = false) :
    execFencingQuiesced ch s = .next (mgmtFor (capChange ((severed s ch).setDie ch { (severed s ch).die ch with st := .quiesced })) [1] ch 0) := by
  unfold severed at he ⊢
  simp [execFencingQuiesced, hc, hf, hq, he]
theorem execFencingQuiesced_failed {s : State} {ch : Nat} (hc : isChiplet ch = true) (hf : (s.die ch).st = .fencing) (hq : dieQuiet s ch = true)
    (he : ((severed s ch).die ch).err = true) :
    let r := capChange ((severed s ch).setDie ch { (severed s ch).die ch with st := .failed })
    execFencingQuiesced ch s = .next (mgmtFor (record r 0 2 0x106 0 0 (ch * 256) (whoNone r)) [1] ch 0) := by
  unfold severed at he ⊢
  simp [execFencingQuiesced, hc, hf, hq, he]

/-! ### Reset and admission (Table 19.2) -/

theorem execDieResetComplete_reset {s : State} {ch : Nat} (hc : isChiplet ch = true) (h : (s.die ch).st = .reset) :
    execDieResetComplete ch s = .next (toAdmitting s ch) := by
  simp [execDieResetComplete, hc, h]
theorem execDieResetComplete_other {s : State} {ch : Nat} (hc : isChiplet ch = true) (h : (s.die ch).st ≠ .reset) :
    execDieResetComplete ch s = .next s := by
  simp [execDieResetComplete, hc, h]

/-- A link of a chiplet is in training. -/
def linksTrain (s : State) (ch : Nat) : Bool := (modulesOf ch).any (fun l => (s.link l).st == .training)

theorem execDieAdmitResult_waits {s : State} {ch : Nat} {pass : Bool} (hc : isChiplet ch = true) (h : (s.die ch).st ≠ .admitting ∨ linksTrain s ch = true) :
    execDieAdmitResult ch pass s = .next s := by
  unfold linksTrain at h
  have hw : ((s.die ch).st != .admitting || (modulesOf ch).any (fun l => (s.link l).st == .training)) = true := by simpa using h
  simp only [execDieAdmitResult, hc, hw, Bool.not_true, Bool.false_eq_true, if_false, if_true]

section
variable {s : State} {ch : Nat} {pass : Bool} (hc : isChiplet ch = true) (hs : (s.die ch).st = .admitting) (ht : linksTrain s ch = false)
include hc hs ht

theorem execDieAdmitResult_failed (hp : (pass && routersUp s ch) = false) :
    execDieAdmitResult ch pass s = .next (mgmtFor (s.setDie ch { s.die ch with st := .failed }) [2, 4, 5] ch 4) := by
  unfold linksTrain at ht
  simp [execDieAdmitResult, hc, hs, ht, hp]

variable (hp : pass = true) (hr : routersUp s ch = true)
include hp hr

theorem execDieAdmitResult_unnamed (hn : ch ≠ 0x31) (hl : (s.die ch).lid = none) :
    execDieAdmitResult ch pass s = .next (mgmtFor (capChange (s.setDie ch { s.die ch with st := .active })) [2, 4, 5] ch 0) := by
  unfold linksTrain at ht
  simp [execDieAdmitResult, hc, hs, ht, hp, hr, hn, hl]
theorem execDieAdmitResult_ioDie1 (hn : ch = 0x31) (hl : (s.die ch).lid = none) :
    execDieAdmitResult ch pass s = .next (mgmtFor (capChange (setPort (s.setDie ch { s.die ch with st := .active }) 1 .training)) [2, 4, 5] ch 0) := by
  subst hn
  unfold linksTrain at ht
  simp [execDieAdmitResult, hc, hs, ht, hp, hr, hl]
theorem execDieAdmitResult_named {lid : Nat} (hn : ch ≠ 0x31) (hl : (s.die ch).lid = some lid) :
    execDieAdmitResult ch pass s =
      .next (mgmtFor (capChange { s.setDie ch { s.die ch with st := .active } with capMhz := tset s.capMhz lid 1100 }) [2, 4, 5] ch 0) := by
  unfold linksTrain at ht
  simp [execDieAdmitResult, hc, hs, ht, hp, hr, hn, hl]
end

/-! ### Package reset (R8, R17) -/

/-- Dropping bytes of other addresses leaves a byte. -/
theorem hbmGet_filter (m : List Host.Cell) (p : Host.Cell → Bool) {a : Nat} (hm : hbmWf m = true) (hp : ∀ b, p (a, b) = true) :
    hbmGet (m.filter p) a = hbmGet m a := by
  induction m with
  | nil => rfl
  | cons c t ih =>
    obtain ⟨k, b⟩ := c
    have ht := ih (hbmWf_tail hm)
    by_cases hk : k = a
    · subst hk
      simp [hp b, hbmGet]
    · by_cases hpk : p (k, b) = true
      · simp [hpk, hbmGet, ht]
      · rw [List.filter_cons_of_neg hpk, ht]
        simp only [hbmGet, hk, if_false]
        split
        · rename_i hlt
          exact hbmGet_below t a (hbmAbove_trans (Nat.le_of_lt hlt) (hbmAbove_head hm))
        · rfl

theorem packageReset_hbmGet {s : State} (hm : hbmWf s.hbm = true) {a : Nat} (ha : 2 ^ 22 ≤ a % 2 ^ 31) :
    hbmGet (packageReset s).hbm a = hbmGet s.hbm a :=
  hbmGet_filter s.hbm _ hm (fun _ => decide_eq_true ha)
theorem packageReset_eq (s : State) :
    packageReset s = { State.reset with tick := s.tick, agenda := s.agenda, nextId := s.nextId, hbm := (packageReset s).hbm, hpsn := (packageReset s).hpsn } := rfl
theorem execIoDie0UnitFault_eq (unit : IoUnit) (s : State) : execIoDie0UnitFault unit s = .next (match unit with
    | .scheduler => { s with schedMirror := true } | .arbiter => { s with arbMirror := true } | .port => portDown s 0
    | .queueEngine => packageReset s | .root => packageReset s) := by
  cases unit <;> rfl

/-! ### Channels that begin to retire (R372, R362) -/

theorem execChannelAutoRetire_eq {n : Nat} (h : n < 512) (s : State) : execChannelAutoRetire n s =
    .next (if (s.chan n).st = .active ∧ ∃ e ∈ (s.chan n).corr, 64 < rowErrors s n e.1 then enterRetiring s n none else s) := by
  refine (if_neg (Nat.not_le.2 h)).trans (congrArg Host.Outcome.next (if_congr ?_ rfl rfl))
  simp

theorem execCacheDieFault_other {s : State} {n : Nat} (hn : n < 4) (h : (s.die (0x20 + n)).st ≠ .active) : execCacheDieFault n s = .next s := by
  simp [execCacheDieFault, Nat.not_le.2 hn, h]
theorem execCacheDieFault_active {s : State} {n : Nat} (hn : n < 4) (h : (s.die (0x20 + n)).st = .active) :
    let r := ((channelsOf (0x20 + n)).filter (fun c => (s.chan c).st == .active)).foldl (fun s c => enterRetiring s c none) s
    let r := r.setDie (0x20 + n) { r.die (0x20 + n) with err := true }
    execCacheDieFault n s = .next (if allRetired r (0x20 + n) then fenceForError r (0x20 + n) else r) := by
  simp [execCacheDieFault, Nat.not_le.2 hn, h]

/-! ### A turn of the migration engine (R373, R374) -/

/-- What an engine does once it has looked for the next page of its channel: it begins to move the one found, or ends the retirement. -/
def afterSearch (n c : Nat) (found : State × Option (Nat × Nat × Nat)) : State :=
  match found with
  | (s, some e) => takeFrame s n c ⟨e.1, e.2.1, e.2.2, 1, 0, 0⟩
  | (s, none) =>
    let f := flushPages s (pagesAt s c)
    if stillOut f (ofPages (pagesAt f c)) then f else channelRetired f c false
/-- The engine of a cache die works on a channel. -/
def engineOn (s : State) (n c : Nat) : State := { s with engines := tset s.engines n c }

theorem execPageMove_idle {s : State} {n : Nat} (hn : n < 4) (h : engineOf s n = none) : execPageMove n s = .next s := by
  simp [execPageMove, Nat.not_le.2 hn, h]

section
variable {s : State} {n c : Nat} (hn : n < 4) (he : engineOf s n = some c)
include hn he

section
variable {p : Transit} (ht : ((engineOn s n c).chan c).transit = some p)
include ht

/-- The page in transit takes the step that it has come to. -/
theorem execPageMove_transit : execPageMove n s = .next (
    let t := engineOn s n c
    if p.step = 1 then takeFrame t n c p
    else if p.step = 2 then afterPage t p (fun s => copyPage s c p)
    else if p.step = 3 then afterPage t p (fun s => placePage s n c p)
    else passPage t c p) := by
  unfold engineOn at ht
  simp only [execPageMove, if_neg (Nat.not_le.2 hn), he, ht]; rfl
theorem execPageMove_take (h1 : p.step = 1) : execPageMove n s = .next (takeFrame (engineOn s n c) n c p) := by
  simp [execPageMove_transit hn he ht, h1]
theorem execPageMove_behind (h : p.step = 2 ∨ p.step = 3) :
    let here := fun (a v : Nat) => decide ((a, v) = pageOf p.w0)
    let f := flushPages (engineOn s n c) here
    execPageMove n s = .next (if stillOut f (ofPages here) then f else if p.step = 2 then copyPage f c p else placePage f n c p) := by
  rcases h with h | h <;> simp [execPageMove_transit hn he ht, h, afterPage]
theorem execPageMove_pass (h : 3 < p.step) : execPageMove n s = .next (passPage (engineOn s n c) c p) := by
  simp [execPageMove_transit hn he ht, show p.step ≠ 1 by omega, show p.step ≠ 2 by omega, show p.step ≠ 3 by omega]
end

section
variable (ht : ((engineOn s n c).chan c).transit = none) {r : State}
include ht

/-- Where no page is in transit the engine looks for the next. The search reads a whole table: the proof names it by a variable, so that no reduction
runs it. -/
theorem execPageMove_search {found : State × Option (Nat × Nat × Nat)} (hp : nextPage (engineOn s n c) c = found) :
    execPageMove n s = .next (afterSearch n c found) := by
  obtain ⟨search, hs⟩ : ∃ f, f = nextPage := ⟨_, rfl⟩
  unfold engineOn at ht hp
  unfold execPageMove
  rw [← hs] at hp ⊢
  simp only [if_neg (Nat.not_le.2 hn), he, ht, hp]; rfl
theorem execPageMove_end (hp : nextPage (engineOn s n c) c = (r, none)) :
    let f := flushPages r (pagesAt r c)
    execPageMove n s = .next (if stillOut f (ofPages (pagesAt f c)) then f else channelRetired f c false) :=
  execPageMove_search hn he ht hp
theorem execPageMove_begin {e : Nat × Nat × Nat} (hp : nextPage (engineOn s n c) c = (r, some e)) :
    execPageMove n s = .next (takeFrame r n c ⟨e.1, e.2.1, e.2.2, 1, 0, 0⟩) :=
  execPageMove_search hn he ht hp
end
end

/-! ### The four steps of a page move (R373) -/

/-- What the frame pool at an address gives for the page of an entry. -/
def poolFor (s : State) (ch va w0 : Nat) : State × PoolRes :=
  let pg := pageOf w0
  poolNext va (s.chan ch).taken (s.stripe pg.1 (stripeIdx pg.1 pg.2)) (Config.chanFrames * Config.nChan) 0 s

section
variable {s : State} (n : Nat) {ch : Nat} {p : Transit}

theorem takeFrame_noPool (h : (s.chan ch).pool = none) : takeFrame s n ch p = haltEngine s n ch 3 := by
  simp [takeFrame, h]

section
variable {va i : Nat} {r : State} (h : (s.chan ch).pool = some va)
include h

theorem takeFrame_word {f : Nat} (hp : poolFor s ch va p.w0 = (r, .word i f)) :
    let pg := pageOf p.w0
    takeFrame s n ch p = r.setChan ch { r.chan ch with
      taken := i :: (r.chan ch).taken, bp := some pg, transit := some { p with step := 2, dest := s.stripe pg.1 (stripeIdx pg.1 pg.2), frame := f } } := by
  unfold poolFor at hp
  simp only [takeFrame, h, hp]
theorem takeFrame_empty (hp : poolFor s ch va p.w0 = (r, .empty)) : takeFrame s n ch p = haltEngine r n ch 3 := by
  unfold poolFor at hp
  simp only [takeFrame, h, hp]
theorem takeFrame_bad {cause : Nat} (hp : poolFor s ch va p.w0 = (r, .bad cause i)) :
    takeFrame s n ch p = haltEngine (record r 0 2 cause 0 0 i (whoNone r)) n ch 2 := by
  unfold poolFor at hp
  simp only [takeFrame, h, hp]
end

theorem haltEngine_eq (s : State) (n ch cause : Nat) : haltEngine s n ch cause = mgmtFor { s.setChan ch { s.chan ch with
    transit := (s.chan ch).transit.map (fun t => { t with step := 1 }), halt := cause } with engines := tdel s.engines n } [6] ch cause := rfl

theorem copyPage_eq (s : State) (ch : Nat) (p : Transit) :
    let pg := pageOf p.w0
    let u := copyFrame s pg.1 pg.2 ch (bits p.w1 0 17) p.dest p.frame
    copyPage s ch p = u.setChan ch { u.chan ch with transit := some { p with step := 3 } } := rfl

/-- A page's translations leave the cache of a channel. -/
def dropTlb (pg : Nat × Nat) (s : State) (c : Nat) : State :=
  s.setChan c { s.chan c with tlb := (s.chan c).tlb.filter (fun t => !(t.asid == pg.1 && t.vpn == pg.2)) }

section
variable {r : State}

theorem placePage_noEntry (h : freeEntryAt s p.dest (pageOf p.w0).1 (pageOf p.w0).2 = (r, none)) :
    placePage s n ch p = haltEngine (copyFrame r (pageOf p.w0).1 (pageOf p.w0).2 p.dest p.frame ch (bits p.w1 0 17)) n ch 2 := by
  simp only [placePage, h]
theorem placePage_entry {off : Nat} (h : freeEntryAt s p.dest (pageOf p.w0).1 (pageOf p.w0).2 = (r, some off)) :
    let u := (homeStore r 0 (windowVa p.dest off) (leBytes 8 p.w0 ++ leBytes 8 (p.w1 - bits p.w1 0 17 + p.frame))).1
    let u := (homeStore u 0 (windowVa ch p.off) (leBytes 8 (p.w0 - 2 ^ 63))).1
    placePage s n ch p = moveWatches (setTransit (dropTlb (pageOf p.w0) (dropTlb (pageOf p.w0) u ch) p.dest) ch { p with step := 4 })
      (pageOf p.w0).1 (pageOf p.w0).2 p.dest := by
  simp only [placePage, h]; rfl
end

theorem passPage_eq (s : State) (ch : Nat) (p : Transit) : passPage s ch p =
    s.setChan ch { s.chan ch with transit := none, conflict := [], bp := some ((pageOf p.w0).1, (pageOf p.w0).2 + 1) } := rfl
end

/-! ### The statement -/

/-- Settles O59: every event and every step of a page move falls under one of the cases above. -/
theorem chipletsAndChannels : Obligations.ChipletsAndChannels := by
  unfold Obligations.ChipletsAndChannels
  intro s n ch pass unit x training q0 q
  simp only [exec_fencingQuiesced, exec_dieResetComplete, exec_dieAdmitResult, exec_dieErrorFence, exec_ioDie1Fault, exec_coldReset, exec_ioDie0UnitFault,
    exec_channelAutoRetire, exec_cacheDieFault, exec_pageMove]
  refine ⟨fun h => chipletEvents_noSuchUnit h pass s, (execDieErrorFence_noSuchUnit · s), fun h => ⟨execCacheDieFault_noSuchUnit h s, execPageMove_noSuchUnit h s⟩,
    (execChannelAutoRetire_noSuchUnit · s), ?fence, ?noFence, ?ioFence, ?noIoFence, ?chiplet, ?cold, execIoDie0UnitFault_eq unit s, (execChannelAutoRetire_eq · s),
    execCacheDieFault_other, execCacheDieFault_active, execPageMove_idle, ?turn, ?steps⟩
  case fence => exact fun hn h => by rw [execDieErrorFence_compute hn, fenceForError_active h]
  case noFence => exact fun hn h => by rw [execDieErrorFence_compute hn, fenceForError_other h]
  case ioFence => exact fun h => by rw [fenceForError_active h]
  case noIoFence => exact fun h => by rw [fenceForError_other h]
  case chiplet =>
    exact fun hc => ⟨execFencingQuiesced_waits hc, execFencingQuiesced_quiesced hc, execFencingQuiesced_failed hc, execDieResetComplete_reset hc,
      execDieResetComplete_other hc, execDieAdmitResult_waits hc, execDieAdmitResult_failed hc, execDieAdmitResult_unnamed hc, execDieAdmitResult_ioDie1 hc,
      fun _ hs ht hp hr => execDieAdmitResult_named hc hs ht hp hr⟩
  case cold => exact ⟨packageReset s, rfl, packageReset_eq s, fun hm a => packageReset_hbmGet hm⟩
  case turn =>
    exact fun c hn he => ⟨fun p ht => ⟨execPageMove_take hn he ht, execPageMove_behind hn he ht, execPageMove_pass hn he ht⟩,
      fun _ ht => execPageMove_end hn he ht, fun _ _ ht => execPageMove_begin hn he ht⟩
  case steps =>
    exact fun p va i f cause r => ⟨takeFrame_noPool n, fun hv => ⟨takeFrame_word n hv, takeFrame_empty n hv, takeFrame_bad n hv⟩,
      haltEngine_eq s n ch cause, copyPage_eq s ch p, placePage_noEntry n, fun off => placePage_entry n, passPage_eq s ch p⟩

end Sys2Proof.Machine
end

section
/-! What each object of the machine holds after reset (R17, R18, R137, R167), and the statement O1. -/

namespace Sys2Proof.Machine

/-! ### Objects of the reset state -/

theorem reset_die (n : Nat) : State.reset.die n = if n < 18 then Chiplet.atReset n else Chiplet.active none := rfl
theorem reset_die_logical {n : Nat} (hn : n < 16) : State.reset.die n = Chiplet.active (some n) := by
  rw [reset_die, if_pos (by omega), Chiplet.atReset, if_pos hn]
theorem reset_die_spare {n : Nat} (hn : 16 ≤ n) (h : n < 18) : State.reset.die n = Chiplet.spare := by
  rw [reset_die, if_pos h, Chiplet.atReset, if_neg (by omega)]
theorem reset_die_other {n : Nat} (hn : 18 ≤ n) : State.reset.die n = Chiplet.active none := by
  rw [reset_die, if_neg (by omega)]

theorem reset_queue (q : Nat) : State.reset.queue q = Queue.fresh := rfl
theorem reset_chan (c : Nat) : State.reset.chan c = Chan.fresh := rfl

theorem reset_ctx_zero : State.reset.ctx 0 = Ctx.system := rfl
/-- ASID 0 alone is listed (R137). -/
theorem reset_ctx_other {a : Nat} (ha : a ≠ 0) : State.reset.ctx a = Ctx.fresh := if_neg ha.symm

/-! ### The statement -/

/-- Settles O1: the lists of the reset state are empty but for ASID 0's context, so that every other object has the value of one that is not listed. -/
theorem resetState : Obligations.ResetState := by
  refine ⟨rfl, rfl, rfl, rfl, rfl, ?active, ?spares, ?queues, ?contexts, ?system, ?channels, ?chiplets⟩
  case active =>
    intro n hn
    rw [reset_die_logical hn]; exact ⟨rfl, rfl⟩
  case spares =>
    intro n hn
    rw [reset_die_spare (by omega) (by omega)]; exact ⟨rfl, rfl⟩
  case queues => exact fun q => congrArg Queue.st (reset_queue q)
  case contexts => exact fun a ha => congrArg Ctx.st (reset_ctx_other ha)
  case system => exact congrArg Ctx.st reset_ctx_zero
  case channels => exact fun c => congrArg Chan.st (reset_chan c)
  case chiplets =>
    intro n hn
    rw [reset_die_other (by omega)]; rfl

end Sys2Proof.Machine
end

section
/-! The lane exchange of chapter 05, shfl, vred, vscan, v2s and vins (R96 to R98, R130 to R135): what an issue of each writes, and the statement O20. -/

namespace Sys2Proof.Machine

open Sys2Proof.Spec

/-! ### Sets of lanes -/

theorem mem_lanes {m : Mask} {l : Nat} : l ∈ lanes m ↔ l < 32 ∧ m.getLsbD l = true := by
  simp [lanes]

/-- A mask with a lane in it has a lowest lane. -/
theorem lanes_ne_nil {m : Mask} (h : m ≠ 0) : lanes m ≠ [] := fun hn =>
  h (BitVec.eq_of_getLsbD_eq fun l hl => by
    have hl' : l ∉ lanes m := by simp [hn]
    simpa [mem_lanes, hl] using hl')
theorem headD_lanes_mem {m : Mask} (h : m ≠ 0) : (lanes m).headD 0 ∈ lanes m := by
  obtain ⟨l, t, hl⟩ := List.exists_cons_of_ne_nil (lanes_ne_nil h)
  simp [hl]

/-- The mask of one lane. -/
theorem maskOf_eq_single {k : Nat} (hk : k < 32) : maskOf (fun l => l == k) = 1#32 <<< k := by
  have all : ∀ j : Fin 32, maskOf (fun l => l == j.val) = 1#32 <<< j.val := by decide
  exact all ⟨k, hk⟩
theorem lanes_single {k : Nat} (hk : k < 32) : lanes (1#32 <<< k) = [k] := by
  have all : ∀ j : Fin 32, lanes (1#32 <<< j.val) = [j.val] := by decide
  exact all ⟨k, hk⟩
theorem single_ne_zero {k : Nat} (hk : k < 32) : 1#32 <<< k ≠ 0 := fun h => by
  have := lanes_single hk
  rw [h] at this
  cases this

/-! ### Operands of an issue: reads of registers do not see the split move -/

section
variable (s : State) (u : SplitRef) (n : Nat) (w : Wave)

@[simp] theorem vsrc_advance (ty : OTy) (x : VSrc) (i l : Nat) : vsrc (s.advance u n) w ty x i l = vsrc s w ty x i l := rfl
@[simp] theorem ssrc_advance (x : SSrc) : ssrc (s.advance u n) w x = ssrc s w x := rfl
@[simp] theorem effV_advance (x : VDst) : effV (s.advance u n) w x = effV s w x := rfl
@[simp] theorem vecW_advance (r : Nat) (e : Mask) (f : Nat → Val) (lat : Nat) : vecW (s.advance u n) r e f lat = vecW s r e f lat := rfl
@[simp] theorem due_advance (r : Dst) (e : Mask) (vals : List (Nat × Val)) (lat : Nat) : due (s.advance u n) r e vals lat = due s r e vals lat := rfl
@[simp] theorem predW_advance (q : PReg) (e : Mask) (f : Nat → Bool × Bool) (lat : Nat) : predW (s.advance u n) q e f lat = predW s q e f lat := rfl
end

/-! ### The shapes of the lane exchange: results that the whole issue gives, not the wave alone -/

/-- Writes in flight leave the cycle, and so the writes that are added after them. -/
theorem cycleNow_adds (s : State) (r : WaveRef) (ps : List Pend) : cycleNow (adds s r ps) = cycleNow s := by
  induction ps generalizing s with
  | nil => rfl
  | cons p ps ih => exact ih (s.addPend r p)
theorem predW_adds (s : State) (r : WaveRef) (ps : List Pend) (q : PReg) (e : Mask) (f : Nat → Bool × Bool) (lat : Nat) :
    predW (adds s r ps) q e f lat = predW s q e f lat := by
  simp only [predW, due, cycleNow_adds]

section
variable {s : State} {i : Instr} {c : Cm} {cu : Cur} {w : Wave} {lat : Nat}

/-- An issue of one word whose body adds register writes. -/
theorem gives_issue1 {ps : List Pend} {body : State → Issue → State} (h : Issues s i c cu w) (he : exec i s = issue1 s i c body)
    (hb : body (s.advance cu.u 1) (issueOf s c cu w) = adds (s.advance cu.u 1) cu.u.w ps) : Gives i s c cu.u ps :=
  gives_of h he (congrArg some hb)

/-- A vector result that looks at the lanes of E. -/
theorem givesV_issue {d : VDst} {f : State → Issue → Nat → Val}
    (he : exec i s = issue1 s i c (fun s is => writeV s is.u.w (effV s is.w d) is.e (f s is) lat)) :
    GivesV s i c cu w d (f (s.advance cu.u 1) (issueOf s c cu w)) lat := by
  intro h
  refine gives_issue1 h he ?_
  simp [writeV_adds (cycleNow_of h.cur 1)]

/-- A vector result and a predicate result that look at the lanes of E. -/
theorem givesVP_issue {d : VDst} {q : PReg} {f : State → Issue → Nat → Val} {g : State → Issue → Nat → Bool × Bool}
    (he : exec i s = issue1 s i c (fun s is => writeP (writeV s is.u.w (effV s is.w d) is.e (f s is) lat) is.u.w q is.e (g s is) lat))
    (h : Issues s i c cu w) :
    Gives i s c cu.u (vecW s (effV s w d) (exSet s c cu w) (f (s.advance cu.u 1) (issueOf s c cu w)) lat ++
      predW s q (exSet s c cu w) (g (s.advance cu.u 1) (issueOf s c cu w)) lat) := by
  refine gives_issue1 h he ?_
  have k := cycleNow_of h.cur 1
  simp [writeV_adds k, writeP_adds (adds_cycle k _), predW_adds, adds_append]

/-- A scalar result that looks at the lanes of E: it is asked for only where E has a lane (R41). -/
theorem givesS_issue {d : Nat} {f : State → Issue → Val} {v : Val}
    (he : exec i s = issueS s i c (fun s is => writeS s is.u.w d (f s is) lat))
    (hv : exSet s c cu w ≠ 0 → f (s.advance cu.u 1) (issueOf s c cu w) = v) : GivesS s i c cu w d v lat := by
  intro h
  refine gives_issue1 (body := fun s is => if is.e = 0 then s else writeS s is.u.w d (f s is) lat) h he ?_
  by_cases h0 : exSet s c cu w = 0
  · simp [scaW, h0, adds]
  · simp only [issueOf_e, issueOf_u, if_neg h0, hv h0, writeS_adds (cycleNow_of h.cur 1), scaW, due_advance]
end

/-- One lane of a vector register. -/
theorem writeV_single {s : State} {r : WaveRef} (h : cycleNow s = s.cyc r.die) (n : Nat) {k : Nat} (hk : k < 32) (v : Val) (lat : Nat) :
    writeV s r n (maskOf (fun l => l == k)) (fun _ => v) lat = adds s r [due s (.v n) (1#32 <<< k) [(k, v)] lat] := by
  rw [writeV_adds h, maskOf_eq_single hk, vecW, if_neg (single_ne_zero hk), lanes_single hk]
  rfl

section
variable {s : State} {c : Cm} {cu : Cur} {w : Wave}

/-! ### shfl (R130) -/

/-- The lane of E that lane l takes its value from. -/
def sourceIn (e : Mask) (m l : Nat) (n : W32) : Option Nat := (shflSrc m l n).bind (fun j => if e.getLsbD j then some j else none)
theorem sourceIn_eq_match (e : Mask) (m l : Nat) (n : W32) : sourceIn e m l n = match shflSrc m l n with
    | some j => if e.getLsbD j then some j else none
    | none => none := by
  unfold sourceIn
  cases shflSrc m l n <;> rfl

/-- What shfl writes to each lane: the A value of a source that lies in E, else the lane's own C value. -/
def shuffled (s : State) (w : Wave) (e : Mask) (a b x : VSrc) (m l : Nat) : Val :=
  let n := vsrc s w .int b 0 l
  let r := match sourceIn e m l n.v with
    | some j => vsrc s w .int a 0 j
    | none => vsrc s w .int x 0 l
  ⟨r.v, r.psn || n.psn⟩
@[simp] theorem shuffled_advance (u : SplitRef) (n : Nat) (e : Mask) (a b x : VSrc) (m : Nat) :
    shuffled (s.advance u n) w e a b x m = shuffled s w e a b x m := rfl

theorem exec_shfl (d : VDst) (a b x : VSrc) (f : ShflF) : exec (.shfl c d a b x f) s = issue1 s (.shfl c d a b x f) c (fun s is =>
    writeP (writeV s is.u.w (effV s is.w d) is.e (shuffled s is.w is.e a b x f.m.toNat) 6) is.u.w f.pq is.e
      (fun l => ((sourceIn is.e f.m.toNat l (vsrc s is.w .int b 0 l).v).isSome, (vsrc s is.w .int b 0 l).psn)) 6) := by
  delta shuffled
  simp only [sourceIn_eq_match]; rfl

theorem shfl_gives (d : VDst) (a b x : VSrc) (f : ShflF) (h : Issues s (.shfl c d a b x f) c cu w) :
    Gives (.shfl c d a b x f) s c cu.u
      (vecW s (effV s w d) (exSet s c cu w) (shuffled s w (exSet s c cu w) a b x f.m.toNat) 6 ++
        predW s f.pq (exSet s c cu w)
          (fun l => ((sourceIn (exSet s c cu w) f.m.toNat l (vsrc s w .int b 0 l).v).isSome, (vsrc s w .int b 0 l).psn)) 6) := by
  simpa using givesVP_issue (exec_shfl d a b x f) h

/-! ### vred and vscan (R96 to R98, R132) -/

/-- The leaves of the tree: the values of the lanes of E, and the identity elsewhere. -/
def redLeaves (s : State) (w : Wave) (e : Mask) (f : RedF) (a : VSrc) : List Val :=
  perLane (fun l => if e.getLsbD l then vsrc s w (redTy f) a 0 l else ⟨redId f, false⟩)
@[simp] theorem redVals_issue (f : RedF) (a : VSrc) (n : Nat) :
    redVals (s.advance cu.u n) (issueOf s c cu w) f a = redLeaves s w (exSet s c cu w) f a := by
  simp [redVals, redLeaves]

/-- The result of vred from the leaves of its tree. -/
def reduced (f : RedF) (leaves : List Val) : Val := (treeRed (redStep f) 5 leaves).headD ⟨redId f, false⟩
/-- The result of vscan in lane l from the leaves of its tree; `redOut` puts the canonical NaN for any other (R71). -/
def scanned (f : RedF) (leaves : List Val) (l : Nat) : Val :=
  let r := scanRed (redStep f) ⟨redId f, false⟩ leaves
  redOut f (if f.excl then (if l = 0 then ⟨redId f, false⟩ else lget Val.zero r (l - 1)) else lget Val.zero r l)

theorem exec_vred (d : VDst) (a : VSrc) (f : RedF) : exec (.vred c d a f) s = issue1 s (.vred c d a f) c (fun s is =>
    writeV s is.u.w (effV s is.w d) is.e (fun _ => reduced f (redVals s is f a)) 14) := rfl
theorem exec_vscan (d : VDst) (a : VSrc) (f : RedF) : exec (.vscan c d a f) s = issue1 s (.vscan c d a f) c (fun s is =>
    writeV s is.u.w (effV s is.w d) is.e (scanned f (redVals s is f a)) 14) := rfl

theorem vred_gives (d : VDst) (a : VSrc) (f : RedF) :
    GivesV s (.vred c d a f) c cu w d (fun _ => reduced f (redLeaves s w (exSet s c cu w) f a)) 14 := by
  simpa using givesV_issue (exec_vred d a f)
theorem vscan_gives (d : VDst) (a : VSrc) (f : RedF) :
    GivesV s (.vscan c d a f) c cu w d (scanned f (redLeaves s w (exSet s c cu w) f a)) 14 := by
  simpa using givesV_issue (exec_vscan d a f)

/-! ### v2s and vins (R133, R134) -/

/-- The value of the lane that a selector names, with the selector's poison (R135). -/
def selectedLane (s : State) (w : Wave) (a : VSrc) (n : Val) : Val :=
  ⟨(vsrc s w .int a 0 n.v.toNat).v, (vsrc s w .int a 0 n.v.toNat).psn || n.psn⟩
/-- What v2s writes: the lane that a selector names where it lies in E, else 0. -/
def extractedLane (s : State) (w : Wave) (e : Mask) (a : VSrc) (n : Val) : Val :=
  if n.v.toNat < 32 ∧ e.getLsbD n.v.toNat = true then selectedLane s w a n else ⟨0, n.psn⟩
/-- The selector `.first`: the lowest lane of E. -/
def firstLane (e : Mask) : Val := ⟨BitVec.ofNat 32 ((lanes e).headD 0), false⟩

@[simp] theorem selectedLane_advance (u : SplitRef) (k : Nat) (a : VSrc) (n : Val) : selectedLane (s.advance u k) w a n = selectedLane s w a n := rfl
@[simp] theorem extractedLane_advance (u : SplitRef) (k : Nat) (e : Mask) (a : VSrc) (n : Val) :
    extractedLane (s.advance u k) w e a n = extractedLane s w e a n := rfl

/-- The value that execV2s puts together is `extractedLane`. -/
theorem extractedLane_eq (e : Mask) (a : VSrc) (n : Val) :
    (let x := if decide (n.v.toNat < 32) && e.getLsbD n.v.toNat then vsrc s w .int a 0 n.v.toNat else Val.zero
     (⟨x.v, x.psn || n.psn⟩ : Val)) = extractedLane s w e a n := by
  by_cases h : n.v.toNat < 32 ∧ e.getLsbD n.v.toNat = true <;> simp [extractedLane, selectedLane, h, Val.zero]

/-! Both forms of v2s take one lane: `.first` is the selector of the lowest lane. -/

theorem exec_v2s_first (r : SReg) (a : VSrc) : exec (.v2s c r a none) s = issueS s (.v2s c r a none) c (fun s is =>
    writeS s is.u.w r.toNat (extractedLane s is.w is.e a (firstLane is.e)) 6) := by
  simp only [← extractedLane_eq]; rfl
theorem exec_v2s (r : SReg) (a : VSrc) (x : SSrc) : exec (.v2s c r a (some x)) s = issueS s (.v2s c r a (some x)) c (fun s is =>
    writeS s is.u.w r.toNat (extractedLane s is.w is.e a (ssrc s is.w x)) 6) := by
  simp only [← extractedLane_eq]; rfl

/-- The lowest lane of a set that is not empty is a lane of it. -/
theorem extractedLane_firstLane {e : Mask} (h : e ≠ 0) (a : VSrc) : extractedLane s w e a (firstLane e) = vsrc s w .int a 0 ((lanes e).headD 0) := by
  obtain ⟨hl, he⟩ := mem_lanes.1 (headD_lanes_mem h)
  have hn : (firstLane e).v.toNat = (lanes e).headD 0 := by
    simp only [firstLane, BitVec.toNat_ofNat]; omega
  rw [extractedLane, if_pos (by rw [hn]; exact ⟨hl, he⟩), selectedLane, hn]
  simp [firstLane]

theorem v2s_first_gives (r : SReg) (a : VSrc) :
    GivesS s (.v2s c r a none) c cu w r.toNat (vsrc s w .int a 0 ((lanes (exSet s c cu w)).headD 0)) 6 :=
  givesS_issue (exec_v2s_first r a) (fun h => by simpa using extractedLane_firstLane h a)
theorem v2s_gives (r : SReg) (a : VSrc) (x : SSrc) :
    GivesS s (.v2s c r a (some x)) c cu w r.toNat (extractedLane s w (exSet s c cu w) a (ssrc s w x)) 6 :=
  givesS_issue (exec_v2s r a x) (fun _ => by simp)

theorem exec_vins (d : VDst) (a : VSrc) (x : SSrc) : exec (.vins c d a x) s = issue1 s (.vins c d a x) c (fun s is =>
    let n := ssrc s is.w x
    if decide (n.v.toNat < 32) && is.e.getLsbD n.v.toNat then
      writeV s is.u.w (effV s is.w d) (maskOf (fun l => l == n.v.toNat)) (fun _ => selectedLane s is.w a n) 4
    else s) := rfl

/-- vins writes the one lane that its selector names in E, else nothing. -/
theorem vins_gives (d : VDst) (a : VSrc) (x : SSrc) (h : Issues s (.vins c d a x) c cu w) :
    let n := ssrc s w x
    Gives (.vins c d a x) s c cu.u
      (if n.v.toNat < 32 ∧ (exSet s c cu w).getLsbD n.v.toNat = true then
        [due s (.v (effV s w d)) (1#32 <<< n.v.toNat) [(n.v.toNat, selectedLane s w a n)] 4]
       else []) := by
  refine gives_issue1 h (exec_vins d a x) ?_
  by_cases k : (ssrc s w x).v.toNat < 32 ∧ (exSet s c cu w).getLsbD (ssrc s w x).v.toNat = true
  · simp [k, writeV_single (cycleNow_of h.cur 1) _ k.1]
  · simp [k, adds]

end

/-! ### The statement -/

/-- Settles O20: each of the five instructions writes what the model's meaning of it puts together on the execution set of its issue. -/
theorem laneExchange : Obligations.LaneExchange := by
  unfold Obligations.LaneExchange
  intro s c cu w d a b e f g r n
  exact ⟨shfl_gives d a b e f, vred_gives d a g, vscan_gives d a g, v2s_first_gives r a, v2s_gives r a n, vins_gives d a n⟩

end Sys2Proof.Machine
end

section
/-! The integer instructions of chapter 04 (R100 to R114): the integers that patterns stand for, what each shape of meaning yields as a statement
term, and the statements O9 to O14. -/

namespace Sys2Proof.Machine

open Sys2Proof.Spec

/-! ### Patterns and the integers they stand for (R100, R102) -/

/-- A pattern read by any TY is the number it was, modulo 2^32. -/
@[simp] theorem ofInt_rdTy (ty : ITy) (x : W32) : BitVec.ofInt 32 (rdTy ty x) = x := by
  cases ty <;> simp [rdTy, BitVec.ofInt_natCast]
theorem ofInt_sub {n : Nat} (x y : Int) : BitVec.ofInt n (x - y) = BitVec.ofInt n x - BitVec.ofInt n y := by
  rw [Int.sub_eq_add_neg, BitVec.ofInt_add, BitVec.ofInt_neg, BitVec.sub_eq_add_neg]
/-- A carry or borrow as a word. -/
theorem ofNat_bool (k : Bool) : BitVec.ofNat 32 k.toNat = if k then 1 else 0 := by
  cases k <;> rfl

/-- The sum and the difference of vaddc and vsubb, modulo 2^32 (R108). -/
theorem add_carry (x y : W32) (k : Bool) : x + y + (if k then 1 else 0) = BitVec.ofNat 32 (x.toNat + y.toNat + k.toNat) := by
  simp [BitVec.ofNat_add, ofNat_bool]
theorem sub_borrow (x y : W32) (k : Bool) : x - y - (if k then 1 else 0) = BitVec.ofInt 32 (x.toNat - y.toNat - k.toNat) := by
  simp [ofInt_sub, BitVec.ofInt_natCast, ofNat_bool]

/-- shr by the type that an immediate shift names (R111). -/
theorem aluShr_arith (ar : Bool) (x y : W32) :
    aluShr (if ar then .s else .b) x y = BitVec.ofInt 32 ((if ar then x.toInt else (x.toNat : Int)) / (2 ^ min y.toNat 32 : Nat)) := by
  cases ar <;> rfl
theorem aluAbs_eq (f : IntF) (x : W32) : aluAbs f x = wrTy f.sat .s (x.toInt.natAbs : Int) := by
  have h : (if x.toInt < 0 then -x.toInt else x.toInt) = (x.toInt.natAbs : Int) := by split <;> omega
  rw [aluAbs, h]

/-! ### The shapes of the meanings, each with the statement term it yields

The result function of each rule is explicit, so that a use names the function of Table 4.3 that the instruction computes. -/

section
variable {s : State} {i : Instr} {c : Cm} {cu : Cur} {w : Wave} {lat : Nat}

/-! A scalar and a vector result of one, two and three sources. -/

theorem givesS_scal1 {d : SReg} {a : SSrc} (g : W32 → W32) (he : exec i s = scalOp s i c d lat (scal1 a g)) :
    GivesS s i c cu w d.toNat (scal1 a g s w) lat := givesS_of (f := scal1 a g) he
theorem givesS_scal2 {d : SReg} {a b : SSrc} (g : W32 → W32 → W32) (he : exec i s = scalOp s i c d lat (scal2 a b g)) :
    GivesS s i c cu w d.toNat (scal2 a b g s w) lat := givesS_of (f := scal2 a b g) he
theorem givesS_scal3 {d : SReg} {a b e : SSrc} (g : W32 → W32 → W32 → W32) (he : exec i s = scalOp s i c d lat (scal3 a b e g)) :
    GivesS s i c cu w d.toNat (scal3 a b e g s w) lat := givesS_of (f := scal3 a b e g) he

theorem givesV_lane1 {d : VDst} {a : VSrc} (g : W32 → W32) (he : exec i s = vecOp s i c d lat (lane1 .int a g)) :
    GivesV s i c cu w d (lane1 .int a g s w) lat := givesV_of (f := lane1 .int a g) he
theorem givesV_lane2 {d : VDst} {a b : VSrc} (g : W32 → W32 → W32) (he : exec i s = vecOp s i c d lat (lane2 .int a b g)) :
    GivesV s i c cu w d (lane2 .int a b g s w) lat := givesV_of (f := lane2 .int a b g) he
theorem givesV_lane3 {d : VDst} {a b e : VSrc} (g : W32 → W32 → W32 → W32) (he : exec i s = vecOp s i c d lat (lane3 .int a b e g)) :
    GivesV s i c cu w d (lane3 .int a b e g s w) lat := givesV_of (f := lane3 .int a b e g) he

/-- An immediate load: the value looks at no register (R112). -/
theorem givesS_const {d : SReg} (v : Val) (he : exec i s = scalOp s i c d lat (fun _ _ => v)) : GivesS s i c cu w d.toNat v lat :=
  givesS_of (f := fun _ _ => v) he
theorem givesV_const {d : VDst} (v : Val) (he : exec i s = vecOp s i c d lat (fun _ _ _ => v)) : GivesV s i c cu w d (fun _ => v) lat :=
  givesV_of (f := fun _ _ _ => v) he

/-- A 64-bit scalar result. -/
theorem givesS2_pairOp {d : SReg} {f : State → Wave → W64 × Bool} {x : W64 × Bool} (he : exec i s = pairOp s i c d lat f)
    (hx : f (s.advance cu.u 1) w = x) : GivesS2 s i c cu w d.toNat x lat := by
  subst hx
  have high : ∀ y : W64, (y >>> 32).setWidth 32 = y.extractLsb' 32 32 := fun _ => BitVec.setWidth_ushiftRight_eq_extractLsb
  have low : ∀ y : W64, y.setWidth 32 = y.extractLsb' 0 32 := fun _ => BitVec.setWidth_eq_extractLsb' (by decide)
  refine givesS2_of (f := f) (he.trans ?_)
  simp only [pairOp, high, low]

/-- A scalar and a vector compare, and a vector result in no shape of its own: the result is what the meaning computes before the split moves. -/
theorem givesP_scalCmp {q : PReg} {f : State → Wave → Bool × Bool} {x : Bool × Bool} (he : exec i s = scalCmp s i c q f)
    (hx : f (s.advance cu.u 1) w = x) : GivesP s i c cu w q (fun _ => x) 2 := by
  subst hx; exact givesSP_of he
theorem givesP_predOp {q : PReg} {f : State → Wave → Nat → Bool × Bool} {g : Nat → Bool × Bool} (he : exec i s = predOp s i c q lat f)
    (hg : f (s.advance cu.u 1) w = g) : GivesP s i c cu w q g lat := by
  subst hg; exact givesP_of he
theorem givesV_vecOp {d : VDst} {f : State → Wave → Nat → Val} {g : Nat → Val} (he : exec i s = vecOp s i c d lat f)
    (hg : f (s.advance cu.u 1) w = g) : GivesV s i c cu w d g lat := by
  subst hg; exact givesV_of he

@[simp] theorem carryIn_advance (u : SplitRef) (n : Nat) (f : IntF) (l : Nat) : carryIn (s.advance u n) w f l = carryIn s w f l := rfl
@[simp] theorem spair_advance (u : SplitRef) (n : Nat) (x : SPair) : spair (s.advance u n) w x = spair s w x := rfl

/-- A result and a carry or borrow that are written together (R108). -/
theorem givesVP_carryOp {d : VDst} {a b : VSrc} {f : IntF} {g : W32 → W32 → Bool → W32 × Bool} (h : Issues s i c cu w)
    (he : exec i s = carryOp s i c d a b f g) :
    let x := vsrc s w .int a 0
    let y := vsrc s w .int b 0
    let k := carryIn s w f
    let p := fun l => (x l).psn || (y l).psn || (k l).2
    Gives i s c cu.u (vecW s (effV s w d) (exSet s c cu w) (fun l => ⟨(g (x l).v (y l).v (k l).1).1, p l⟩) 4 ++
      predW s f.pq (exSet s c cu w) (fun l => ((g (x l).v (y l).v (k l).1).2, p l)) 4) := by
  simpa using givesVP_issue he h

/-! ### One issue that changes the wave alone -/

/-- The wave of the issue after its split has moved and `f` has changed it. -/
theorem advance_updWave {u : SplitRef} (h : s.wave u.w = some w) (n : Nat) (f : Wave → Wave) :
    (s.advance u n).updWave u.w f = s.setWave u.w (f (w.setSplit u.k (advanceSplit (s.cyc u.w.die) n (w.split u.k)))) := by
  have h' : tfind s.waves u.w = some w := h
  simp only [State.advance, State.updSplit, State.updWave, State.setWave, tupd, h', tfind_tset_same, tset_tset]
/-- Two changes of a wave in a row are one. -/
theorem updWave_updWave (s : State) (r : WaveRef) (f g : Wave → Wave) : (s.updWave r f).updWave r g = s.updWave r (fun w => g (f w)) := by
  cases h : tfind s.waves r <;> simp [State.updWave, tupd, h, tfind_tset_same, tset_tset]

/-- An issue of one word whose body leaves the wave as v, but for the split. -/
theorem endsAs_of {v : Wave} {body : State → Issue → Option State} (h : Issues s i c cu w) (he : exec i s = issueOp s i c 1 body)
    (hb : body (s.advance cu.u 1) (issueOf s c cu w) =
      some (s.setWave cu.u.w (v.setSplit cu.u.k (advanceSplit (s.cyc cu.u.w.die) 1 (v.split cu.u.k))))) : EndsAs i s c cu.u v := by
  have e := completes_of h he hb
  obtain ⟨only, same⟩ := finishIssue_keeps (s.setWave cu.u.w (v.setSplit cu.u.k (advanceSplit (s.cyc cu.u.w.die) 1 (v.split cu.u.k)))) cu.u c
  obtain ⟨x, hx, kx⟩ := same _ (wave_setWave_same _ _ _)
  exact ⟨e, _, x, e, onlyWave_trans (onlyWave_setWave _ _ _) only, hx, keepsWave_trans (keeps_setSplit _ _ _) kx⟩
end

/-! ### The meanings of the instructions that no shape with an explicit function covers -/

section
variable (s : State) (c : Cm) (d : SReg) (v : VDst) (a b : SSrc) (x y : VSrc) (p q : SPair) (f : IntF) (imm : W32) (k : CmpI)

theorem exec_scmp : exec (.scmp c a b f) s = execScmp c a b f s := rfl
theorem exec_scmpi (t : PReg) : exec (.scmpi c t d imm k) s = execScmpi c t d imm k s := rfl
theorem exec_sadd64 : exec (.sadd64 c d p q f) s = execSadd64 c d p q f s := rfl
theorem exec_ssub64 : exec (.ssub64 c d p q f) s = execSsub64 c d p q f s := rfl
theorem exec_sla : exec (.sla c d p b f) s = execSla c d p b f s := rfl
theorem exec_sdiv : exec (.sdiv c d a b f) s = execSdiv c d a b f s := rfl
theorem exec_vsel : exec (.vsel c v x y f) s = execVsel c v x y f s := rfl
theorem exec_vcmp : exec (.vcmp c x y f) s = execVcmp c x y f s := rfl
theorem exec_vcmpi (t : PReg) (r : VReg) : exec (.vcmpi c t r imm k) s = execVcmpi c t r imm k s := rfl
theorem exec_vaddc : exec (.vaddc c v x y f) s = execVaddc c v x y f s := rfl
theorem exec_vsubb : exec (.vsubb c v x y f) s = execVsubb c v x y f s := rfl
end

/-! ### The statements of chapter 04 -/

/-- Settles O9: each instruction is a scalar shape with its function of Table 4.3. -/
theorem scalarIntegerResults : Obligations.ScalarIntegerResults := by
  unfold Obligations.ScalarIntegerResults
  intro s c cu w d a b e f imm r g ar
  refine ⟨givesS_scal2 (aluAdd f) rfl, givesS_scal2 (aluSub f) rfl, givesS_scal2 (aluMul f) rfl, givesS_scal3 (aluMad f) rfl,
    givesS_scal2 (aluAnd f) rfl, givesS_scal2 (aluOr f) rfl, givesS_scal2 (aluXor f) rfl, givesS_scal2 aluShl rfl,
    givesS_scal2 (aluShr f.ty) rfl, givesS_scal2 (aluMin f) rfl, givesS_scal2 (aluMax f) rfl,
    givesS_scal3 (fun x y z => if z ≠ 0 then x else y) rfl, givesS_scal1 (fun x => x) rfl, givesS_scal1 (aluBit f) rfl,
    givesS_const ⟨imm, false⟩ rfl, givesS_scal1 (fun x => aluAdd (immF g) x imm) rfl, givesS_scal1 (fun x => x &&& imm) rfl,
    givesS_scal1 (fun x => x ||| imm) rfl, givesS_scal1 (fun x => x ^^^ imm) rfl, givesS_scal1 (fun x => aluShl x imm) rfl, ?_,
    givesS_scal1 (fun x => aluMul (immF g) x imm) rfl⟩
  simpa only [aluShr_arith] using givesS_scal1 (fun x => aluShr (if ar then .s else .b) x imm) rfl

/-- Settles O10: two compares, and three 64-bit results that are sums and differences modulo 2^64. -/
theorem scalarComparesAndPairs : Obligations.ScalarComparesAndPairs := by
  unfold Obligations.ScalarComparesAndPairs
  refine ⟨fun s c cu w a b f q r imm k => ⟨givesP_scalCmp (exec_scmp s c a b f) rfl, givesP_scalCmp (exec_scmpi s c r imm k q) rfl⟩,
    fun s c cu w d a b e f => ⟨?_, ?_, ?_⟩⟩
  · exact givesS2_pairOp (exec_sadd64 s c d a b f) (by simp [BitVec.ofNat_add])
  · exact givesS2_pairOp (exec_ssub64 s c d a b f) (by simp [ofInt_sub, BitVec.ofInt_natCast])
  · exact givesS2_pairOp (exec_sla s c d e a f) rfl

/-- Settles O11: with the divider free the body adds the write and takes the divider, in the wave of the issue alone. -/
theorem scalarDivide : Obligations.ScalarDivide := by
  unfold Obligations.ScalarDivide
  intro s c cu w d a b f h
  have he := exec_sdiv s c d a b f
  refine ⟨fun empty => gives_of h he ?_, fun lane busy => he.trans (issueOp_stall h 1 _ ?_), fun lane free => endsAs_of h he ?_⟩
  · simp [empty, adds]
  · have busy' : (s.advance cu.u 1).cyc cu.u.w.die < w.sdivTill := busy
    simp only [issueOf_e, issueOf_u, issueOf_w, if_neg lane, if_pos busy']
  · have free' : ¬ (s.advance cu.u 1).cyc cu.u.w.die < w.sdivTill := Nat.not_lt.2 free
    simp only [issueOf_e, issueOf_u, issueOf_w, if_neg lane, if_neg free', writeS_adds (cycleNow_of h.cur 1), due_advance]
    exact congrArg some ((updWave_updWave _ _ _ _).trans (advance_updWave h.wave 1 _))

/-- Settles O12: each instruction is a vector shape with its function of Table 4.3, R107 or R109. -/
theorem vectorIntegerResults : Obligations.VectorIntegerResults := by
  unfold Obligations.VectorIntegerResults
  intro s c cu w d a b e f
  refine ⟨givesV_lane2 (aluAdd f) rfl, givesV_lane2 (aluSub f) rfl, givesV_lane2 (aluMul f) rfl, givesV_lane3 (aluMad f) rfl,
    givesV_lane2 (aluAnd f) rfl, givesV_lane2 (aluOr f) rfl, givesV_lane2 (aluXor f) rfl, givesV_lane2 aluShl rfl,
    givesV_lane2 (aluShr f.ty) rfl, givesV_lane2 (aluMin f) rfl, givesV_lane2 (aluMax f) rfl, ?_, givesV_vecOp (exec_vsel s c d a b f) rfl,
    givesV_lane1 (fun x => x) rfl, givesV_lane1 (aluBit f) rfl, givesV_lane2 (aluBfe f) rfl, givesV_lane3 aluBfi rfl,
    givesV_lane3 (aluDp 8 4 f) rfl, givesV_lane3 (aluDp 16 2 f) rfl, givesV_lane3 (aluSad f) rfl⟩
  simpa only [funext (aluAbs_eq f)] using givesV_lane1 (aluAbs f) rfl

/-- Settles O13: the shapes of the register forms, with the immediate in the place of B. -/
theorem immediateResults : Obligations.ImmediateResults := by
  unfold Obligations.ImmediateResults
  refine ⟨fun s c cu w d a imm f ar q k => ?_, fun s c cu w d r imm => ⟨givesV_const ⟨imm, false⟩ rfl, givesS_const ⟨imm, false⟩ rfl⟩⟩
  refine ⟨givesV_lane1 (fun x => aluAdd (immF f) x imm) rfl, givesV_lane1 (fun x => aluMul (immF f) x imm) rfl,
    givesV_lane1 (fun x => x &&& imm) rfl, givesV_lane1 (fun x => x ||| imm) rfl, givesV_lane1 (fun x => x ^^^ imm) rfl,
    givesV_lane1 (fun x => aluShl x imm) rfl, ?_, givesP_predOp (exec_vcmpi s c imm k q a) rfl⟩
  simpa only [aluShr_arith] using givesV_lane1 (fun x => aluShr (if ar then .s else .b) x imm) rfl

/-- Settles O14: vaddc and vsubb by the sum and the difference with the carry, modulo 2^32. -/
theorem vectorCompareAndCarry : Obligations.VectorCompareAndCarry := by
  unfold Obligations.VectorCompareAndCarry
  intro s c cu w d a b f
  refine ⟨givesP_predOp (exec_vcmp s c a b f) rfl, fun h => ?_, fun h => ?_⟩
  · have carry := givesVP_carryOp h (exec_vaddc s c d a b f)
    simp only [add_carry, carryOut] at carry
    exact carry
  · have borrow := givesVP_carryOp h (exec_vsubb s c d a b f)
    simp only [sub_borrow, borrowOut] at borrow
    exact borrow

end Sys2Proof.Machine
end

section
/-! Facts about the integer results of Table 4.3 (R103, R106, R107), worked cases of chapters 03 and 05, and the statement O15. -/

namespace Sys2Proof.Machine

/-! ### Results with and without saturation (R102, R103) -/

section
variable {f : IntF}

theorem wrTy_wrap (ty : ITy) (x : Int) : wrTy false ty x = BitVec.ofInt 32 x := rfl

theorem aluAdd_wrap (h : f.sat = false) (a b : W32) : aluAdd f a b = a + b := by
  simp [aluAdd, h, wrTy_wrap, BitVec.ofInt_add]
theorem aluSub_wrap (h : f.sat = false) (a b : W32) : aluSub f a b = a - b := by
  simp [aluSub, h, wrTy_wrap, ofInt_sub]
theorem aluMul_wrap (h : f.sat = false) (hv : f.var = 0) (a b : W32) : aluMul f a b = a * b := by
  simp [aluMul, h, hv, wrTy_wrap, BitVec.ofInt_mul]
theorem aluMad_wrap (h : f.sat = false) (a b e : W32) : aluMad f a b e = a * b + e := by
  simp [aluMad, h, wrTy_wrap, BitVec.ofInt_add, BitVec.ofInt_mul]

/-- Sat of Table 0.3 takes a number to the nearest one within the bounds. -/
theorem satTo_eq {x lo hi : Int} (h : lo ≤ hi) : satTo x lo hi = max lo (min hi x) := by
  unfold satTo; split <;> omega
/-- A number within the bounds of its TY is the number its pattern is read as. -/
theorem rdTy_ofInt {ty : ITy} {x : Int} (hl : satLo ty ≤ x) (hh : x ≤ satHi ty) : rdTy ty (BitVec.ofInt 32 x) = x := by
  cases ty
  case s =>
    simp only [satLo, satHi] at hl hh
    exact BitVec.toInt_ofInt_eq_self (by decide) (by omega) (by omega)
  all_goals
    simp only [satLo, satHi] at hl hh
    simp only [rdTy, BitVec.toNat_ofInt]
    omega
theorem satLo_le_satHi (ty : ITy) : satLo ty ≤ satHi ty := by
  cases ty <;> decide
theorem rdTy_wrTy_sat (ty : ITy) (x : Int) : rdTy ty (wrTy true ty x) = max (satLo ty) (min (satHi ty) x) := by
  have h := satLo_le_satHi ty
  rw [wrTy, if_pos rfl, satTo_eq h]
  exact rdTy_ofInt (by omega) (by omega)

theorem aluAdd_sat (h : f.sat = true) (a b : W32) :
    rdTy f.ty (aluAdd f a b) = max (satLo f.ty) (min (satHi f.ty) (rdTy f.ty a + rdTy f.ty b)) := by
  rw [aluAdd, h, rdTy_wrTy_sat]

theorem aluAbs_min_wrap (h : f.sat = false) : aluAbs f 0x80000000 = 0x80000000 := by
  rw [aluAbs, h]; decide
theorem aluAbs_min_sat (h : f.sat = true) : aluAbs f 0x80000000 = 0x7FFFFFFF := by
  rw [aluAbs, h]; decide
end

/-! ### Bit operations -/

/-- The mask of the first n lanes of a predicate: the partial folds of `maskOf`. -/
theorem getLsbD_maskFold (p : Nat → Bool) (n i : Nat) (hi : i < 32) :
    ((List.range n).foldl (fun (m : Mask) l => if p l then m ||| (1#32 <<< l) else m) 0#32).getLsbD i = (decide (i < n) && p i) := by
  induction n with
  | zero => simp
  | succ n ih =>
    have one : (1#32 <<< n).getLsbD i = decide (i = n) := by
      simp only [BitVec.getLsbD_shiftLeft, BitVec.getLsbD_one]
      grind
    rw [List.range_succ, List.foldl_append, List.foldl_cons, List.foldl_nil]
    by_cases hp : p n
    · rw [if_pos hp, BitVec.getLsbD_or, ih, one]
      grind
    · rw [if_neg hp, ih]
      grind
theorem getLsbD_maskOf (p : Nat → Bool) {i : Nat} (hi : i < 32) : (maskOf p).getLsbD i = p i :=
  (getLsbD_maskFold p 32 i hi).trans (by simp [hi])

section
variable (f : IntF) (a : W32)

theorem aluBit_clz : aluBit { f with var := 1 } a = BitVec.ofNat 32 (clzFrom a 32) := rfl
theorem aluBit_ctz : aluBit { f with var := 2 } a = BitVec.ofNat 32 (ctzFrom a 0 32) := rfl
theorem aluBit_brev : aluBit { f with var := 3 } a = maskOf (fun i => a.getLsbD (31 - i)) := rfl
theorem aluBit_bswap : aluBit { f with var := 4 } a =
    a.extractLsb' 0 8 ++ a.extractLsb' 8 8 ++ a.extractLsb' 16 8 ++ a.extractLsb' 24 8 := rfl
end

/-- Byte i of the swapped word is byte 3 − i of the word. -/
theorem aluBit_bswap_byte (f : IntF) (a : W32) {i : Nat} (hi : i < 4) :
    (aluBit { f with var := 4 } a).extractLsb' (8 * i) 8 = a.extractLsb' (8 * (3 - i)) 8 := by
  rw [aluBit_bswap]
  refine BitVec.eq_of_getLsbD_eq fun j hj => ?_
  simp only [BitVec.getLsbD_extractLsb', BitVec.getLsbD_append]
  interval_cases i <;> grind

/-- Looking from bit n − 1 down, clz stops at the highest 1. -/
theorem clzFrom_highest {a : W32} {n : Nat} (h : ∃ j, j < n ∧ a.getLsbD j = true) :
    ∃ k, k < n ∧ clzFrom a n = n - 1 - k ∧ a.getLsbD k = true ∧ ∀ j, k < j → j < n → a.getLsbD j = false := by
  induction n with
  | zero => simp at h
  | succ n ih =>
    by_cases hn : a.getLsbD n = true
    · exact ⟨n, by omega, by simp [clzFrom, hn], hn, by omega⟩
    · have hn' : a.getLsbD n = false := by simpa using hn
      obtain ⟨j, hj, ha⟩ := h
      have hjn : j ≠ n := fun e => hn (e ▸ ha)
      obtain ⟨k, hk, hc, hb, hz⟩ := ih ⟨j, by omega, ha⟩
      refine ⟨k, by omega, by simp only [clzFrom, hn', hc, Bool.false_eq_true, if_false]; omega, hb, fun l hl hl' => ?_⟩
      rcases Nat.lt_succ_iff_lt_or_eq.1 hl' with hl' | rfl
      · exact hz l hl hl'
      · exact hn'
/-- Looking from bit i up, ctz stops at the lowest 1. -/
theorem ctzFrom_lowest {a : W32} {i n : Nat} (h : ∃ j, i ≤ j ∧ j < i + n ∧ a.getLsbD j = true) :
    ∃ k, i ≤ k ∧ k < i + n ∧ ctzFrom a i n = k - i ∧ a.getLsbD k = true ∧ ∀ j, i ≤ j → j < k → a.getLsbD j = false := by
  induction n generalizing i with
  | zero => omega
  | succ n ih =>
    by_cases hi : a.getLsbD i = true
    · exact ⟨i, by omega, by omega, by simp [ctzFrom, hi], hi, by omega⟩
    · have hi' : a.getLsbD i = false := by simpa using hi
      obtain ⟨j, hij, hj, ha⟩ := h
      have hji : j ≠ i := fun e => hi (e ▸ ha)
      obtain ⟨k, hk, hk', hc, hb, hz⟩ := ih (i := i + 1) ⟨j, by omega, by omega, ha⟩
      refine ⟨k, by omega, by omega, by simp only [ctzFrom, hi', hc, Bool.false_eq_true, if_false]; omega, hb, fun l hl hl' => ?_⟩
      rcases Nat.eq_or_lt_of_le hl with rfl | hl
      · exact hi'
      · exact hz l hl hl'

theorem exists_bit_of_ne_zero {a : W32} (h : a ≠ 0) : ∃ j, j < 32 ∧ a.getLsbD j = true := by
  obtain ⟨j, t, hj⟩ := List.exists_cons_of_ne_nil (lanes_ne_nil h)
  exact ⟨j, mem_lanes.1 (hj ▸ List.mem_cons_self)⟩

theorem aluBit_clz_ne_zero (f : IntF) {a : W32} (h : a ≠ 0) :
    ∃ n, n < 32 ∧ aluBit { f with var := 1 } a = BitVec.ofNat 32 (31 - n) ∧ a.getLsbD n = true ∧ ∀ j, n < j → a.getLsbD j = false := by
  obtain ⟨n, hn, hc, hb, hz⟩ := clzFrom_highest (exists_bit_of_ne_zero h)
  refine ⟨n, hn, by rw [aluBit_clz, hc], hb, fun j hj => ?_⟩
  rcases Nat.lt_or_ge j 32 with hj' | hj'
  · exact hz j hj hj'
  · exact BitVec.getLsbD_of_ge a j hj'
theorem aluBit_ctz_ne_zero (f : IntF) {a : W32} (h : a ≠ 0) :
    ∃ n, n < 32 ∧ aluBit { f with var := 2 } a = BitVec.ofNat 32 n ∧ a.getLsbD n = true ∧ ∀ j, j < n → a.getLsbD j = false := by
  obtain ⟨j, hj, ha⟩ := exists_bit_of_ne_zero h
  obtain ⟨n, -, hn, hc, hb, hz⟩ := ctzFrom_lowest (i := 0) (n := 32) ⟨j, j.zero_le, by omega, ha⟩
  exact ⟨n, by omega, by rw [aluBit_ctz, hc, Nat.sub_zero], hb, fun j => hz j j.zero_le⟩

/-! ### Division (R106) -/

theorem aluDiv_zero (f : IntF) (a : W32) : aluDiv f a 0 = if f.var = 1 then a else 0xFFFFFFFF := by
  have h : rdTy f.ty 0 = 0 := by cases f.ty <;> rfl
  exact if_pos h
/-- The one signed quotient that 32 bits do not hold, and its remainder. -/
theorem aluDiv_min_neg_one (f : IntF) : aluDiv { f with var := 0, ty := .s } 0x80000000 0xFFFFFFFF = 0x80000000 ∧
    aluDiv { f with var := 1, ty := .s } 0x80000000 0xFFFFFFFF = 0 := ⟨rfl, rfl⟩

/-! ### Bit fields (R107) -/

theorem testBit_bits (x lo w i : Nat) : (bits x lo w).testBit i = (decide (i < w) && x.testBit (i + lo)) := by
  simp [bits, Nat.testBit_mod_two_pow, Nat.testBit_div_two_pow]
/-- A field lies within the word. -/
theorem field_within (sp : W32) : fieldOff sp + fieldWidth sp ≤ 32 := by
  unfold fieldWidth fieldOff; omega
/-- vbfi puts the low bits of B into the field. -/
theorem getLsbD_aluBfi (a b sp : W32) {i : Nat} (hi : i < fieldWidth sp) : (aluBfi a b sp).getLsbD (i + fieldOff sp) = b.getLsbD i := by
  have h := field_within sp
  have hi' : i + fieldOff sp < 32 := by omega
  simp only [aluBfi, BitVec.getLsbD_or, BitVec.getLsbD_and, BitVec.getLsbD_not, BitVec.getLsbD_ofNat, Nat.testBit_mul_two_pow,
    Nat.testBit_two_pow_sub_one, BitVec.testBit_toNat]
  simp [hi, hi']
theorem aluBfe_unsigned {f : IntF} (h : f.ty ≠ .s) (a sp : W32) : aluBfe f a sp = BitVec.ofNat 32 (bits a.toNat (fieldOff sp) (fieldWidth sp)) := by
  by_cases h0 : fieldWidth sp = 0 <;> simp [aluBfe, h, h0, bits, Nat.mod_one]
theorem aluBfe_aluBfi {f : IntF} (h : f.ty ≠ .s) (a b sp : W32) :
    aluBfe f (aluBfi a b sp) sp = BitVec.ofNat 32 (b.toNat % 2 ^ fieldWidth sp) := by
  rw [aluBfe_unsigned h]
  congr 1
  refine Nat.eq_of_testBit_eq fun i => ?_
  rw [testBit_bits, Nat.testBit_mod_two_pow]
  by_cases hi : i < fieldWidth sp
  · simp [hi, BitVec.testBit_toNat, getLsbD_aluBfi a b sp hi]
  · simp [hi]

/-! ### Worked cases of chapters 03 and 05 -/

/-- 2^24 + 1 lies between two FP32 numbers: the four rounding modes (R72). -/
theorem fp32_add_between : fp32.add .rm 0x4B800000 0x3F800000 = 0x4B800000 ∧ fp32.add .rn 0x4B800000 0x3F800000 = 0x4B800000 ∧
    fp32.add .rz 0x4B800000 0x3F800000 = 0x4B800000 ∧ fp32.add .rp 0x4B800000 0x3F800000 = 0x4B800001 := by decide
/-- frnd keeps the sign of a result that is zero, and takes a tie to the even number (R120). -/
theorem frndOp_cases : frndOp .rz 0xBE99999A = 0x80000000 ∧ frndOp .rn 0x40200000 = 0x40000000 := by decide
/-- A number above the FP16 range: infinity, and with SAT the largest finite value (R124). -/
theorem cvtOp_overflow : cvtOp ⟨.n32, .f16, false, .rn, false⟩ 0xFFFFFFFF = 0x7C00 ∧ cvtOp ⟨.n32, .f16, true, .rn, false⟩ 0xFFFFFFFF = 0x7BFF := by
  decide
/-- The two zeros are equal (R118), and infinity times zero is the canonical NaN (R71). -/
theorem fp32_zeros_and_nan : fpCmp ⟨0, 0, false, .rn⟩ 0x80000000 0 = true ∧ fp32.mul .rn 0x7F800000 0 = 0x7FC00000 := by decide

/-- Settles O15, from the facts above. -/
theorem arithmeticFacts : Obligations.ArithmeticFacts := by
  unfold Obligations.ArithmeticFacts
  refine ⟨fun f a b e sp => ⟨?_, ?_, ?_, ?_, ?_, ?_, ?_, ?_, ?_, ?_, ?_, ?_⟩, ?_⟩
  · exact fun h => ⟨aluAdd_wrap h a b, aluSub_wrap h a b, fun hv => aluMul_wrap h hv a b, aluMad_wrap h a b e⟩
  · exact fun h => aluAdd_sat h a b
  · exact aluAbs_min_wrap
  · exact aluAbs_min_sat
  · exact fun i hi => by rw [aluBit_brev, getLsbD_maskOf _ hi]
  · exact fun i => aluBit_bswap_byte f a
  · exact aluBit_clz_ne_zero f
  · exact aluBit_ctz_ne_zero f
  · exact ⟨rfl, rfl⟩
  · exact aluDiv_min_neg_one f
  · exact ⟨aluDiv_zero _ a, aluDiv_zero _ a⟩
  · exact aluBfe_aluBfi (by simp) a b sp
  · obtain ⟨rm, rn, rz, rp⟩ := fp32_add_between
    exact ⟨rm, rn, rz, rp, frndOp_cases.1, frndOp_cases.2, cvtOp_overflow.1, cvtOp_overflow.2, fp32_zeros_and_nan⟩

end Sys2Proof.Machine
end

section
/-! The floating-point, packed and conversion instructions of chapter 05, and the instructions on predicates (R82, R117 to R129, R136, R196, R197): the
class of a pattern, what the divide unit, cvtn and the votes of an issue yield as a statement term, and the statements O16 to O19 and O21. -/

namespace Sys2Proof.Machine

open Sys2Proof.Spec

/-! ### The class of an FP32 pattern (R69, R119) -/

/-- The bit of B that a class names, read from the sign, exponent and fraction fields of the pattern. -/
def classBit (x : W32) : Nat :=
  let neg := x.getLsbD 31
  let e := x.extractLsb' 23 8
  let m := x.extractLsb' 0 23
  if e = 255 then (if m ≠ 0 then 8 else if neg then 0 else 7)
  else if e = 0 then (if m = 0 then (if neg then 3 else 4) else if neg then 2 else 5)
  else if neg then 1 else 6

theorem classBit_lt (x : W32) : classBit x < 32 := by
  unfold classBit
  dsimp only
  repeat' split
  all_goals decide

section
variable (x : W32)

/-! The fields that `Fmt.dec` divides out of a pattern are those of the word. -/

theorem fp32_sign : (x.toNat / fp32.signBit % 2 == 1) = x.getLsbD 31 :=
  Nat.testBit_eq_decide_div_mod_eq.symm
theorem fp32_exponent : x.toNat / 2 ^ 23 % 2 ^ 8 = (x.extractLsb' 23 8).toNat := by
  rw [BitVec.extractLsb'_toNat, Nat.shiftRight_eq_div_pow]
theorem fp32_fraction : x.toNat % 2 ^ 23 = (x.extractLsb' 0 23).toNat := by
  rw [BitVec.extractLsb'_toNat, Nat.shiftRight_zero]
theorem fp32_exponent_eq (k : BitVec 8) : x.toNat / 2 ^ 23 % 2 ^ 8 = k.toNat ↔ x.extractLsb' 23 8 = k := by
  rw [fp32_exponent, BitVec.toNat_inj]
theorem fp32_fraction_eq_zero : x.toNat % 2 ^ 23 = 0 ↔ x.extractLsb' 0 23 = 0 := by
  rw [fp32_fraction]; exact BitVec.toNat_inj (y := 0)

/-! The value of a pattern by its exponent: all ones is infinity or NaN, zero is a zero or a subnormal, and any other a normal number. -/

theorem dec_fp32_special (h : x.extractLsb' 23 8 = 255) :
    fp32.dec x.toNat = if x.extractLsb' 0 23 = 0 then .inf (x.getLsbD 31) else .nan := by
  have he := (fp32_exponent_eq x 255).2 h
  simp only [Fmt.dec, fp32_sign, ← fp32_fraction_eq_zero x]
  exact if_pos he
theorem dec_fp32_small (h : x.extractLsb' 23 8 = 0) :
    fp32.dec x.toNat = .fin (x.getLsbD 31) (x.toNat % 2 ^ 23) (1 - fp32.bias - fp32.fb) := by
  have he := (fp32_exponent_eq x 0).2 h
  simp only [Fmt.dec, fp32_sign]
  exact (if_neg (by rw [show fp32.fb = 23 from rfl, show fp32.eb = 8 from rfl, he]; decide)).trans (if_pos he)
theorem dec_fp32_normal (h : x.extractLsb' 23 8 ≠ 255) (h0 : x.extractLsb' 23 8 ≠ 0) :
    ∃ e, fp32.dec x.toNat = .fin (x.getLsbD 31) (2 ^ 23 + x.toNat % 2 ^ 23) e := by
  have he := mt (fp32_exponent_eq x 255).1 h
  have he0 := mt (fp32_exponent_eq x 0).1 h0
  simp only [Fmt.dec, fp32_sign]
  exact ⟨_, (if_neg he).trans (if_neg he0)⟩

theorem fclass_eq : fclass x.toNat = 2 ^ classBit x := by
  by_cases special : x.extractLsb' 23 8 = 255#8
  · simp only [fclass, classBit, dec_fp32_special x special]
    by_cases inf : x.extractLsb' 0 23 = 0#23 <;> cases x.getLsbD 31 <;> simp [special, inf]
  by_cases small : x.extractLsb' 23 8 = 0#8
  · have he : x.toNat / 8388608 % 256 = 0 := (fp32_exponent_eq x 0).2 small
    simp only [fclass, classBit, dec_fp32_small x small, fp32_fraction_eq_zero x]
    by_cases zero : x.extractLsb' 0 23 = 0#23 <;> cases x.getLsbD 31 <;> simp [small, zero, he]
  · obtain ⟨e, hd⟩ := dec_fp32_normal x special small
    have he : ¬ x.toNat / 8388608 % 256 = 0 := mt (fp32_exponent_eq x 0).1 small
    simp only [fclass, classBit, hd]
    cases x.getLsbD 31 <;> simp [special, small, he]

/-- fcls tests one bit of B, so no bit of B above the classes is looked at. -/
theorem fpCls_eq (m : W32) : fpCls x m = m.getLsbD (classBit x) := by
  have one : BitVec.ofNat 32 (fclass x.toNat) = BitVec.twoPow 32 (classBit x) :=
    BitVec.eq_of_toNat_eq (by rw [fclass_eq, BitVec.toNat_ofNat, BitVec.toNat_twoPow])
  have ne : BitVec.twoPow 32 (classBit x) ≠ 0#32 := by
    intro h
    have bit := congrArg (·.getLsbD (classBit x)) h
    simp [classBit_lt x] at bit
  rw [fpCls, one, BitVec.twoPow_and]
  cases m.getLsbD (classBit x) <;> simp [ne]
end

/-! ### What the shapes of these meanings yield -/

section
variable {s : State} {i : Instr} {c : Cm} {cu : Cur} {w : Wave} {lat : Nat}

/-- Writes added before leave the cycle of those that follow. -/
theorem vecW_adds (s : State) (r : WaveRef) (ps : List Pend) (n : Nat) (e : Mask) (f : Nat → Val) (lat : Nat) :
    vecW (adds s r ps) n e f lat = vecW s n e f lat := by
  simp only [vecW, due, cycleNow_adds]

/-- A predicate result that looks at the lanes of E. -/
theorem givesP_issue {q : PReg} {f : State → Issue → Nat → Bool × Bool}
    (he : exec i s = issue1 s i c (fun s is => writeP s is.u.w q is.e (f s is) lat)) :
    GivesP s i c cu w q (f (s.advance cu.u 1) (issueOf s c cu w)) lat := by
  intro h
  refine gives_issue1 h he ?_
  simp [writeP_adds (cycleNow_of h.cur 1)]
/-- A predicate is written in no lane of an empty E, so that the split-scalar rule of R41 asks for nothing more. -/
theorem issueS_writeP {q : PReg} {f : State → Issue → Nat → Bool × Bool} :
    issueS s i c (fun s is => writeP s is.u.w q is.e (f s is) lat) = issue1 s i c (fun s is => writeP s is.u.w q is.e (f s is) lat) := by
  unfold issueS
  congr 1
  funext t is
  split
  · rename_i empty; rw [empty, writeP_none]
  · rfl

/-- An issue of one word whose body leaves the wave as v, but for the split. -/
theorem endsAs_issue1 {v : Wave} {body : State → Issue → State} (h : Issues s i c cu w) (he : exec i s = issue1 s i c body)
    (hb : body (s.advance cu.u 1) (issueOf s c cu w) =
      s.setWave cu.u.w (v.setSplit cu.u.k (advanceSplit (s.cyc cu.u.w.die) 1 (v.split cu.u.k)))) : EndsAs i s c cu.u v :=
  endsAs_of h he (congrArg some hb)

/-- After an issue of one word that adds writes, nothing but its wave has changed, and there the writes are in flight. -/
theorem adds_finish_keeps (hw : s.wave cu.u.w = some w) (ps : List Pend) :
    OnlyWave s (finishIssue (adds (s.advance cu.u 1) cu.u.w ps) cu.u c) cu.u.w ∧
      Writes s (finishIssue (adds (s.advance cu.u 1) cu.u.w ps) cu.u c) cu.u.w ps := by
  obtain ⟨only1, same1⟩ := advance_keeps s cu.u 1
  obtain ⟨only2, writes⟩ := adds_keeps (advance_wave hw 1) ps
  obtain ⟨only3, same3⟩ := finishIssue_keeps (adds (s.advance cu.u 1) cu.u.w ps) cu.u c
  exact ⟨onlyWave_trans only1 (onlyWave_trans only2 only3), writes_after hw same1 (writes_same writes same3)⟩

/-! ### The divide unit (R136) -/

theorem divUnit_eq (d : VDst) (f : State → Wave → Nat → Val) : divUnit s i c d lat f = issueOp s i c 1 (fun s is =>
    if is.e = 0 then some s
    else if divFree s is.u.w then some (writeV (takesDiv s is.u.w) is.u.w (effV s is.w d) is.e (f s is.w) lat)
    else none) := by
  unfold divUnit
  congr 1
  funext t is
  by_cases empty : is.e = 0
  · rw [if_pos empty, if_pos empty]
  rw [if_neg empty, if_neg empty]
  by_cases busy : t.cyc is.u.w.die < (tget SliceSt.fresh (t.coreOf is.u.w).slices (sliceOfSlot is.u.w.slot)).divTill
  · have taken : ¬ divFree t is.u.w = true := by simpa [divFree] using busy
    rw [if_neg taken]; exact if_pos busy
  · have free : divFree t is.u.w = true := by simpa [divFree] using busy
    rw [if_pos free]; exact if_neg busy

/-- An issue to the divide unit: with no lane, while the unit is taken, and with the unit free. -/
theorem divUnit_gives {d : VDst} {f : State → Wave → Nat → Val} {g : Nat → Val} (he : exec i s = divUnit s i c d lat f)
    (hg : f (s.advance cu.u 1) w = g) (h : Issues s i c cu w) :
    (exSet s c cu w = 0 → Gives i s c cu.u []) ∧
    (exSet s c cu w ≠ 0 → divFree s cu.u.w = false → exec i s = .next s) ∧
    (exSet s c cu w ≠ 0 → divFree s cu.u.w = true →
      let ps := vecW s (effV s w d) (exSet s c cu w) g lat
      Completes i s c cu.u (adds (takesDiv (s.advance cu.u 1) cu.u.w) cu.u.w ps) ∧
      ∃ t, exec i s = .next t ∧ OnlyWave (takesDiv s cu.u.w) t cu.u.w ∧ Writes s t cu.u.w ps) := by
  subst hg
  replace he := he.trans (divUnit_eq d f)
  have unit : divFree (s.advance cu.u 1) cu.u.w = divFree s cu.u.w := rfl
  refine ⟨fun empty => gives_of h he ?_, fun lane taken => he.trans (issueOp_stall h 1 _ ?_), fun lane free => ?_⟩
  · simp [empty, adds]
  · simp only [issueOf_e, issueOf_u, if_neg lane, unit, taken, Bool.false_eq_true, if_false]
  · have done : Completes i s c cu.u (adds (takesDiv (s.advance cu.u 1) cu.u.w) cu.u.w
        (vecW s (effV s w d) (exSet s c cu w) (f (s.advance cu.u 1) w) lat)) := by
      refine completes_of h he ?_
      have cycle : cycleNow (takesDiv (s.advance cu.u 1) cu.u.w) = (takesDiv (s.advance cu.u 1) cu.u.w).cyc cu.u.w.die := cycleNow_of h.cur 1
      simp only [issueOf_e, issueOf_u, issueOf_w, if_neg lane, unit, free, if_true, writeV_adds cycle]
      rfl
    exact ⟨done, _, done, adds_finish_keeps (s := takesDiv s cu.u.w) h.wave _⟩

/-! ### cvtn (R125 to R127) -/

/-- The state after the split has moved is the state with its wave replaced, and so it is after writes are added to it. -/
theorem advance_eq_setWave {u : SplitRef} (h : s.wave u.w = some w) (n : Nat) :
    s.advance u n = s.setWave u.w (w.setSplit u.k (advanceSplit (s.cyc u.w.die) n (w.split u.k))) := by
  have h' : tfind s.waves u.w = some w := h
  simp only [State.advance, State.updSplit, State.updWave, State.setWave, tupd, h']
theorem updWave_setWave (r : WaveRef) (f : Wave → Wave) : (s.setWave r w).updWave r f = s.setWave r (f w) := by
  simp only [State.updWave, State.setWave, tupd, tfind_tset_same, tset_tset]
theorem adds_setWave (r : WaveRef) (ps : List Pend) : adds (s.setWave r w) r ps = s.setWave r { w with pend := w.pend ++ ps } := by
  induction ps generalizing w with
  | nil => simp [adds]
  | cons p ps ih =>
    have step : adds (s.setWave r w) r (p :: ps) = adds (s.setWave r { w with pend := w.pend ++ [p] }) r ps :=
      congrArg (adds · r ps) (updWave_setWave r _)
    simp [step, ih]
/-- NANDROP is sticky: a wave takes it where a NaN is dropped, and keeps it else (R82). -/
theorem nandrop_setWave (r : WaveRef) (drop : Bool) :
    (if drop then (s.setWave r w).updWave r (fun w => { w with nandrop := true }) else s.setWave r w) =
      s.setWave r { w with nandrop := w.nandrop || drop } := by
  cases drop
  · simp
  · simp [updWave_setWave]

@[simp] theorem readV_advance (u : SplitRef) (n r l : Nat) : readV (s.advance u n) w r l = readV s w r l := rfl
@[simp] theorem readP_advance (u : SplitRef) (n : Nat) (q : PReg) (l : Nat) : readP (s.advance u n) w q l = readP s w q l := rfl

theorem exec_cvtn (d : VDst) (a b : VSrc) (q : Option VDst) (f : CvtnF) : exec (.cvtn c d a b q f) s = execCvtn c d a b q f s := rfl

/-- cvtn without a scale: the write is in flight, and the wave has NANDROP where a lane of E dropped a NaN. -/
theorem cvtn_ends (d : VDst) (a b : VSrc) (f : CvtnF) (h : Issues s (.cvtn c d a b none f) c cu w) :
    let x := vsrc s w .f32 a 0
    let y := vsrc s w .f32 b 0
    let o := readV s w (effV s w d)
    let g := fun l => cvtnLane f (o l).v (x l).v (y l).v
    EndsAs (.cvtn c d a b none f) s c cu.u
      { w with
        pend := w.pend ++ vecW s (effV s w d) (exSet s c cu w) (fun l => ⟨(g l).1, (x l).psn || (y l).psn || (o l).psn⟩) 6
        nandrop := w.nandrop || (lanes (exSet s c cu w)).any (fun l => (g l).2) } := by
  refine endsAs_issue1 h (exec_cvtn d a b none f) ?_
  simp only [issueOf_e, issueOf_u, issueOf_w, writeV_adds (cycleNow_of h.cur 1), effV_advance, vsrc_advance, readV_advance, vecW_advance]
  rw [advance_eq_setWave h.wave, adds_setWave, nandrop_setWave]
  rfl

/-- cvtn with a scale: the codes and the scale, or the scale alone where it takes the codes' register. -/
theorem cvtn_scaled_gives (d q : VDst) (a b : VSrc) (f : CvtnF) (h : Issues s (.cvtn c d a b (some q) f) c cu w) :
    let x := vsrc s w .f32 a 0
    let y := vsrc s w .f32 b 0
    let o := readV s w (effV s w d)
    let e := exSet s c cu w
    let k := cvtnScale s w f a b e
    let psn := (lanes e).any (fun l => (x l).psn || (y l).psn)
    Gives (.cvtn c d a b (some q) f) s c cu.u
      ((if effV s w q = effV s w d then [] else vecW s (effV s w d) e (fun l => ⟨cvtnScLane f k (o l).v (x l).v (y l).v, psn || (o l).psn⟩) 10) ++
        vecW s (effV s w q) e (fun _ => ⟨BitVec.ofNat 32 k.1, psn⟩) 10) := by
  refine gives_issue1 h (exec_cvtn d a b (some q) f) ?_
  have cycle := cycleNow_of h.cur 1
  simp only [issueOf_e, issueOf_u, issueOf_w, effV_advance, vsrc_advance, readV_advance]
  by_cases same : effV s w q = effV s w d
  · rw [if_pos same, if_pos same, writeV_adds cycle]
    rfl
  · rw [if_neg same, if_neg same, writeV_adds cycle, writeV_adds (adds_cycle cycle _), vecW_adds, adds_append]
    rfl

/-! ### pmov, elect and vote (R129, R196, R197) -/

/-- The lanes of E in which a predicate is true, and whether it is poisoned in one of them. -/
def ballot (s : State) (w : Wave) (e : Mask) (a : PReg) : Mask := maskOf (fun l => e.getLsbD l && (readP s w a l).1)
def ballotPsn (s : State) (w : Wave) (e : Mask) (a : PReg) : Bool := (lanes e).any (fun l => (readP s w a l).2)
@[simp] theorem ballot_advance (u : SplitRef) (n : Nat) (e : Mask) (a : PReg) : ballot (s.advance u n) w e a = ballot s w e a := rfl
@[simp] theorem ballotPsn_advance (u : SplitRef) (n : Nat) (e : Mask) (a : PReg) : ballotPsn (s.advance u n) w e a = ballotPsn s w e a := rfl

theorem elect_gives (d : PReg) :
    GivesP s (.elect c d) c cu w d (fun l => (decide ((lanes (exSet s c cu w)).head? = some l), false)) 2 :=
  givesP_issue (f := fun _ is l => (decide ((lanes is.e).head? = some l), false)) rfl

/-- A vote with a predicate result writes one truth of the ballot to every lane of E. -/
theorem vote_givesP {k : VoteK} {d a : PReg} (g : Mask → Mask → Bool)
    (he : exec (.vote c k a) s = issueS s (.vote c k a) c (fun s is =>
      writeP s is.u.w d is.e (fun _ => (g (ballot s is.w is.e a) is.e, ballotPsn s is.w is.e a)) 4)) :
    GivesP s (.vote c k a) c cu w d
      (fun _ => (g (ballot s w (exSet s c cu w) a) (exSet s c cu w), ballotPsn s w (exSet s c cu w) a)) 4 := by
  simpa using givesP_issue (he.trans issueS_writeP)
/-- A vote with a scalar result writes one number of the ballot. -/
theorem vote_givesS {k : VoteK} {r : SReg} {a : PReg} (g : Mask → W32)
    (he : exec (.vote c k a) s = issueS s (.vote c k a) c (fun s is =>
      writeS s is.u.w r.toNat ⟨g (ballot s is.w is.e a), ballotPsn s is.w is.e a⟩ 4)) :
    GivesS s (.vote c k a) c cu w r.toNat ⟨g (ballot s w (exSet s c cu w) a), ballotPsn s w (exSet s c cu w) a⟩ 4 :=
  givesS_issue he (fun _ => by simp)
end

/-! ### The meanings of the instructions that no shape with an explicit function covers -/

section
variable (s : State) (c : Cm) (d : VDst) (a b e : VSrc)

theorem exec_fscl (f : FpF) : exec (.fscl c d a b f) s = execFscl c d a b f s := rfl
theorem exec_fcmp (f : FpF) : exec (.fcmp c a b f) s = execFcmp c a b f s := rfl
theorem exec_fcls (f : FpF) : exec (.fcls c a b f) s = execFcls c a b f s := rfl
theorem exec_hdot2 (f : PkF) : exec (.hdot2 c d a b e f) s = execHdot2 c d a b e f s := rfl
end

/-! ### The statements of chapter 05 -/

/-- Settles O16: each instruction is a vector or a predicate shape with its function of Tables 5.1 and 5.2. -/
theorem floatResults : Obligations.FloatResults := by
  unfold Obligations.FloatResults
  intro s c cu w d a b e f
  exact ⟨givesV_vecOp (f := lane2 .f32 a b (fpAdd f)) rfl rfl, givesV_vecOp (f := lane2 .f32 a b (fpSub f)) rfl rfl,
    givesV_vecOp (f := lane2 .f32 a b (fpMul f)) rfl rfl, givesV_vecOp (f := lane3 .f32 a b e (fpFma f)) rfl rfl,
    givesV_vecOp (f := lane2 .f32 a b fpMin) rfl rfl, givesV_vecOp (f := lane2 .f32 a b fpMax) rfl rfl,
    givesV_vecOp (f := lane1 .f32 a (fpRnd f)) rfl rfl, givesV_vecOp (f := lane1 .f32 a fpRcp) rfl rfl,
    givesV_vecOp (f := lane1 .f32 a fpRsq) rfl rfl, givesV_vecOp (f := lane1 .f32 a fpEx2) rfl rfl,
    givesV_vecOp (f := lane1 .f32 a fpLg2) rfl rfl, givesV_vecOp (exec_fscl s c d a b f) rfl,
    givesP_predOp (exec_fcmp s c a b f) rfl, givesP_predOp (exec_fcls s c a b f) rfl⟩

/-- Settles O17: the test of fcls is the bit of B that the class of A names. -/
theorem floatClasses : Obligations.FloatClasses := by
  unfold Obligations.FloatClasses
  intro s c cu w a b f h
  have classes := givesP_predOp (exec_fcls s c a b f) rfl h
  simp only [fpCls_eq] at classes
  exact classes

/-- Settles O18: fdiv and fsqrt are issues to the one divide unit, with their results and latencies. -/
theorem divideUnit : Obligations.DivideUnit := by
  unfold Obligations.DivideUnit
  intro s c cu w d a b f
  exact ⟨divUnit_gives (f := lane2 .f32 a b (fpDiv f)) rfl rfl, divUnit_gives (f := lane1 .f32 a (fpSqrt f)) rfl rfl⟩

/-- Settles O19: the packed instructions, cvt and pack are vector shapes; cvtn is one of its two forms. -/
theorem packedAndConversionResults : Obligations.PackedAndConversionResults := by
  unfold Obligations.PackedAndConversionResults
  refine ⟨fun s c cu w d a b e f k p => ?_, fun s c cu w d q a b f => ⟨cvtn_ends d a b f, cvtn_scaled_gives d q a b f⟩⟩
  exact ⟨givesV_vecOp (f := lane2 (pkTy f) a b (hpAdd f)) rfl rfl, givesV_vecOp (f := lane2 (pkTy f) a b (hpMul f)) rfl rfl,
    givesV_vecOp (f := lane3 (pkTy f) a b e (hpFma f)) rfl rfl, givesV_vecOp (f := lane2 (pkTy f) a b (hpMin f)) rfl rfl,
    givesV_vecOp (f := lane2 (pkTy f) a b (hpMax f)) rfl rfl, givesV_vecOp (f := lane2 (pkTy f) a b (hpCmp f)) rfl rfl,
    givesV_vecOp (exec_hdot2 s c d a b e f) rfl, givesV_vecOp (f := lane1 (cvtSrcTy k.st) a (cvtLane k)) rfl rfl,
    givesV_vecOp (f := lane2 (if p.var = 2 then .int else .f32) a b (packLane p)) rfl rfl⟩

/-- Settles O21: the predicate instructions and pmov are shapes of a lane's own result, elect and vote look at all lanes of E. -/
theorem predicatesAndVotes : Obligations.PredicatesAndVotes := by
  unfold Obligations.PredicatesAndVotes
  refine ⟨fun s c cu w d a b f x v => ?_, fun s c cu w d a r => ?_⟩
  · exact ⟨givesP_predOp (f := pred2 a b f.inv (fun x y => x && y)) rfl rfl, givesP_predOp (f := pred2 a b f.inv (fun x y => x || y)) rfl rfl,
      givesP_predOp (f := pred2 a b f.inv xor) rfl rfl, givesP_predOp (f := fun s w l => (!(readP s w a l).1, (readP s w a l).2)) rfl rfl,
      givesP_predOp (f := fun s w => readP s w a) rfl rfl,
      givesP_predOp (f := fun s w l => ((vsrc s w .int x 0 l).v.getLsbD l, (vsrc s w .int x 0 l).psn)) rfl rfl,
      givesP_predOp (f := fun s w l => ((vsrc s w .int x 0 l).v != 0, (vsrc s w .int x 0 l).psn)) rfl rfl,
      givesV_vecOp (f := fun s w l => ⟨if (readP s w a l).1 then 1 else 0, (readP s w a l).2⟩) rfl rfl⟩
  · exact ⟨elect_gives d, vote_givesP (fun t _ => t != 0) rfl, vote_givesP (fun t e => t == e) rfl,
      vote_givesP (fun t e => t == 0 || t == e) rfl, vote_givesS (fun t => t) rfl, vote_givesS (fun t => BitVec.ofNat 32 (popcount t)) rfl⟩

end Sys2Proof.Machine
end

section
/-! SUPPORT. The queue engine: what each of its events answers, case by case (R166, R167, R169, R171, R172, R177, R189, R366), and the statement about
them. -/

namespace Sys2Proof.Machine

/-! ### The meaning of each event -/

@[simp] theorem exec_launchMessage (q : Nat) (m : SendMsg) (poison : Bool) (s : State) :
    exec (.launchMessage q m poison) s = execLaunchMessage q m poison s := rfl
@[simp] theorem exec_dependenceWake (q d : Nat) (s : State) : exec (.dependenceWake q d) s = execDependenceWake q d s := rfl
@[simp] theorem exec_dependencePoll (q : Nat) (s : State) : exec (.dependencePoll q) s = execDependencePoll q s := rfl
@[simp] theorem exec_queueStatusRefresh (q : Nat) (s : State) : exec (.queueStatusRefresh q) s = execQueueStatusRefresh q s := rfl
@[simp] theorem exec_queueDrainComplete (q : Nat) (s : State) : exec (.queueDrainComplete q) s = execQueueDrainComplete q s := rfl
@[simp] theorem exec_kernelSelect (s : State) : exec .kernelSelect s = execKernelSelect s := rfl
@[simp] theorem exec_groupHandout (s : State) : exec .groupHandout s = execGroupHandout s := rfl

/-! ### Messages for a queue without an endpoint (R169) -/

/-- A free choice among some members is one of them. -/
theorem pick_mem {α : Type} [DecidableEq α] (s : State) (salt : Nat) (dflt : α) {l : List α} (h : l ≠ []) : pick s salt dflt l ∈ l := by
  cases l with
  | nil => exact absurd rfl h
  | cons x t =>
    have inRange : Config.choice s.tick salt % (t.length + 1) < (x :: t).length := Nat.mod_lt _ (Nat.succ_pos _)
    rw [pick]
    split
    · exact List.mem_cons_self
    · rw [List.getD_eq_getElem _ _ inRange]
      exact List.getElem_mem inRange

/-- The ports on which the frames of a message of n packets have come in. -/
def portsIn (s : State) (n : Nat) : List Nat := (List.range 2).filter (fun p => framesIn s p n)

theorem mem_portsIn {s : State} {n p : Nat} : p ∈ portsIn s n ↔ p < 2 ∧ framesIn s p n = true := by
  simp [portsIn]

theorem strayMessage_eq (s : State) (q psn n : Nat) : strayMessage s q psn n =
    if portsIn s n = [] then s
    else
      let t := reject (takeFrames s (pick s q 0 (portsIn s n)) n) q
      { t with acks := (pick s q 0 (portsIn s n), q, psn) :: t.acks } := by
  have ports : (List.range 2).filter (fun p => framesIn s p n) = portsIn s n := rfl
  rw [strayMessage, ports]
  cases portsIn s n with
  | nil => rfl
  | cons p t => rfl

theorem strayMessage_waits {s : State} {n : Nat} (h : ∀ p, p < 2 → framesIn s p n = false) (q psn : Nat) : strayMessage s q psn n = s := by
  have noPort : portsIn s n = [] :=
    List.eq_nil_iff_forall_not_mem.2 fun p hp => by
      obtain ⟨lt, arrived⟩ := mem_portsIn.1 hp
      simp [h p lt] at arrived
  rw [strayMessage_eq, if_pos noPort]

theorem strayMessage_acks {s : State} {n : Nat} (h : ∃ p, p < 2 ∧ framesIn s p n = true) (q psn : Nat) :
    ∃ p, p < 2 ∧ framesIn s p n = true ∧
      strayMessage s q psn n = { reject (takeFrames s p n) q with acks := (p, q, psn) :: (reject (takeFrames s p n) q).acks } := by
  obtain ⟨p, hp⟩ := h
  have somePort : portsIn s n ≠ [] := List.ne_nil_of_mem (mem_portsIn.2 hp)
  obtain ⟨lt, arrived⟩ := mem_portsIn.1 (pick_mem s q 0 somePort)
  exact ⟨_, lt, arrived, by rw [strayMessage_eq, if_neg somePort]⟩

/-! ### Messages for a queue with an endpoint (R169, R179, R366) -/

theorem takesLaunches_iff {x : Queue} : takesLaunches x = true ↔ x.st = .opened ∨ x.st = .paused := by
  simp [takesLaunches]

theorem queueFull_iff {x : Queue} : queueFull x = true ↔ 2 ^ x.qlog2 ≤ x.pend.length := decide_eq_true_iff

section
variable {s : State} {q n : Nat} {m : List Byte}

/-- The message is dropped, counted and acknowledged. -/
def dropMessage (s : State) (q n : Nat) : State := peerDone (reject s q) (s.queue q).qpn n []

theorem takeMessage_invalid {psn : Bool} (h : ¬(m.length = 136 ∧ recWord m 0 = 0x4C01000000000000) ∨ psn = true ∨ parseLaunch (m.drop 8) = none) :
    takeMessage s q n m psn = dropMessage s q n := by
  unfold takeMessage dropMessage
  split
  · rfl
  · rename_i valid
    simp only [not_or, Decidable.not_not] at valid
    obtain ⟨length, word, clean⟩ := valid
    obtain header | poisoned | unparsed := h
    · exact absurd ⟨length, word⟩ header
    · exact absurd poisoned clean
    · simp [unparsed]

section
variable {l : Launch} (h : m.length = 136 ∧ recWord m 0 = 0x4C01000000000000) (hl : parseLaunch (m.drop 8) = some l)
include h hl

/-- Of a message whose header and record are valid, its queue's number, state and room decide. -/
theorem takeMessage_valid : takeMessage s q n m false =
    if takesLaunches (s.queue q) = true ∧ l.queue = q then
      if queueFull (s.queue q) = true then reply s (s.queue q).qpn 4 []
      else peerDone (appendLaunch s (s.queue q).asid l) (s.queue q).qpn n []
    else dropMessage s q n := by
  have valid : ¬(m.length ≠ 136 ∨ recWord m 0 ≠ 0x4C01000000000000 ∨ false = true) := by simp [h]
  have refused : (!takesLaunches (s.queue q) || l.queue != q) = true ↔ ¬(takesLaunches (s.queue q) = true ∧ l.queue = q) := by
    simp [Decidable.imp_iff_not_or]
  simp only [takeMessage, if_neg valid, hl, refused, ite_not, dropMessage]

theorem takeMessage_refused (ht : ¬(((s.queue q).st = .opened ∨ (s.queue q).st = .paused) ∧ l.queue = q)) :
    takeMessage s q n m false = dropMessage s q n := by
  rw [← takesLaunches_iff] at ht
  rw [takeMessage_valid h hl, if_neg ht]

variable (ht : ((s.queue q).st = .opened ∨ (s.queue q).st = .paused) ∧ l.queue = q)
include ht

theorem takeMessage_full (hf : 2 ^ (s.queue q).qlog2 ≤ (s.queue q).pend.length) :
    takeMessage s q n m false = reply s (s.queue q).qpn 4 [] := by
  rw [← takesLaunches_iff] at ht
  rw [takeMessage_valid h hl, if_pos ht, if_pos (queueFull_iff.2 hf)]

theorem takeMessage_taken (hr : (s.queue q).pend.length < 2 ^ (s.queue q).qlog2) :
    takeMessage s q n m false = peerDone (appendLaunch s (s.queue q).asid l) (s.queue q).qpn n [] := by
  rw [← takesLaunches_iff] at ht
  rw [takeMessage_valid h hl, if_pos ht, if_neg (fun full => Nat.not_le.2 hr (queueFull_iff.1 full))]
end
end

section
variable {s : State} {q : Nat} {m : SendMsg} {psn : Bool}

theorem execLaunchMessage_stray (h : (s.queue q).msg = false ∨ (s.queue q).st = .closed) :
    execLaunchMessage q m psn s = .next (strayMessage s q m.psn (packets m.data.length)) := by
  have stray : (!(s.queue q).msg || (s.queue q).st == .closed) = true := by simpa using h
  simp only [execLaunchMessage, stray, if_true]

variable (hm : (s.queue q).msg = true) (hc : (s.queue q).st ≠ .closed)
include hm hc

theorem execLaunchMessage_notNext (h : peerOp s (s.queue q).qpn m.psn (packets m.data.length) = none) : execLaunchMessage q m psn s = .next s := by
  simp [execLaunchMessage, hm, hc, h]

theorem execLaunchMessage_next {z : Queue} {p : Nat} (h : peerOp s (s.queue q).qpn m.psn (packets m.data.length) = some (z, p)) :
    execLaunchMessage q m psn s =
      .next (takeMessage (takeFrames s p (packets m.data.length)) q (packets m.data.length) m.data psn) := by
  simp [execLaunchMessage, hm, hc, h]
end

/-! ### Dependences of a queue's head (R171) -/

section
variable {s : State} {q d : Nat} {z : Dep}

theorem execDependenceWake_met (hz : (s.queue q).deps[d]? = some z) (hw : z.woken = true) (hp : (pendingHead s q).isSome = true) :
    execDependenceWake q d s = .next (newHead (updDep s q d (fun y => { y with met := true, woken := false })) q) := by
  simp only [execDependenceWake, hz, hw, hp, Bool.and_self, if_true]

theorem execDependenceWake_asleep (hz : (s.queue q).deps[d]? = some z) (hw : z.woken = false) : execDependenceWake q d s = .next s := by
  simp only [execDependenceWake, hz, hw, Bool.false_and, Bool.false_eq_true, if_false]

theorem execDependencePoll_noHead (h : pendingHead s q = none) : execDependencePoll q s = .next s := by
  simp only [execDependencePoll, h]

/-- The signal word of dependence i of a queue's head is to be read again: it is neither met nor watched, and its time has come. -/
def depDue (s : State) (q i : Nat) : Bool := (s.queue q).deps[i]?.any (fun y => !y.met && !y.armed && !y.woken && decide (y.next ≤ s.now))

theorem execDependencePoll_reads {k : Nat} {x : Kern} (h : pendingHead s q = some (k, x)) : execDependencePoll q s = .next (newHead
    ((x.l.deps.mapIdx (fun i d => (i, d))).foldl (fun s d => if depDue s q d.1 then evalDep s q x.asid d.1 d.2 false else s) s) q) := by
  simp only [execDependencePoll, h]
  refine congrArg (fun read => Host.Outcome.next (newHead (List.foldl read s _) q)) (funext fun t => funext fun d => ?_)
  obtain absent | ⟨y, present⟩ := Option.eq_none_or_eq_some (t.queue q).deps[d.1]?
  · simp only [depDue, absent, Option.any_none]
  · simp only [depDue, present, Option.any_some]
end

/-! ### Counts and the end of a drain (R166, R167) -/

theorem execQueueStatusRefresh_eq (q : Nat) (s : State) : execQueueStatusRefresh q s =
    .next (if (s.queue q).stale = true ∧ (s.queue q).st ≠ .closed then queueCounts s q else s) := by
  simp [execQueueStatusRefresh]

theorem execQueueDrainComplete_eq (q : Nat) (s : State) : execQueueDrainComplete q s =
    .next (if (s.queue q).st = .draining ∧ (s.queue q).pend = [] ∧ ∀ k ∈ s.kerns, k.2.l.queue = q → k.2.finished = true then
      closeQueue (s.setQueue q { s.queue q with result := 0 }) q else s) := by
  have kernelsDone : s.kerns.all (fun (k : Nat × Kern) => k.2.l.queue != q || k.2.finished) = true ↔
      ∀ k ∈ s.kerns, k.2.l.queue = q → k.2.finished = true := by
    simp [← Decidable.imp_iff_not_or]
  simp only [execQueueDrainComplete, Bool.and_eq_true, beq_iff_eq, List.isEmpty_iff, kernelsDone, and_assoc]

/-! ### The next kernel (R172, R189) -/

theorem kern_updKern_other (s : State) {j k : Nat} (f : Kern → Kern) (h : j ≠ k) : (s.updKern k f).kern j = s.kern j := tfind_tupd_other _ _ h

/-- What is counted of the candidates that a choice passes by leaves the chosen kernel as it was. -/
theorem kern_foldl_others (f : Kern → Kern) (k : Nat) (cs : List (Nat × Nat × Nat)) (s : State) :
    (cs.foldl (fun (s : State) (x : Nat × Nat × Nat) => if x.2.1 = k then s else s.updKern x.2.1 f) s).kern k = s.kern k := by
  induction cs generalizing s with
  | nil => rfl
  | cons c t ih =>
    rw [List.foldl_cons, ih]
    split
    · rfl
    · rename_i other
      exact kern_updKern_other s f (Ne.symm other)

/-- The state once kernel k of queue q at priority p is chosen: the round-robin position, and the counts of those passed by. -/
def chosen (s : State) (q k p : Nat) : State :=
  (selectable s).foldl (fun (s : State) (x : Nat × Nat × Nat) => if x.2.1 = k then s else s.updKern x.2.1 (fun y => { y with selPassed := y.selPassed + 1 }))
    { s with selRr := tset s.selRr p q }

theorem kern_chosen (s : State) (q k p : Nat) : (chosen s q k p).kern k = s.kern k := kern_foldl_others _ k _ _

section
variable {s : State} {q k p : Nat} {x : Kern}

theorem execKernelSelect_none (h : selectable s = []) : execKernelSelect s = .next s := by
  simp only [execKernelSelect, h, firstBy]

theorem execKernelSelect_some (h : firstBy s.selRr (selectable s) = some (q, k, p)) (hk : s.kern k = some x) :
    execKernelSelect s = .next (newHead (if fitsEmpty x.l then
      (leaveQueue (chosen s q k p) q k).updKern k (fun y => { y with st := .dispatching, tstart := (chosen s q k p).ns, selPassed := 0 })
      else abortKernel (chosen s q k p) k 5 0) q) := by
  have same : (chosen s q k p).kern k = some x := (kern_chosen s q k p).trans hk
  unfold chosen at same
  simp only [execKernelSelect, h, same, Option.map_some, Option.getD_some, chosen]
end

/-! ### The next group (R177, R371) -/

section
variable {s : State}

theorem execGroupHandout_idle (h : dispatchable s = [] ∨ schedulerUp s = false) : execGroupHandout s = .next s := by
  have none_waits : (if schedulerUp s then dispatchable s else []) = [] := by
    obtain none | down := h
    · rw [none, ite_self]
    · rw [down]; rfl
  simp only [execGroupHandout, none_waits, List.length_nil, handFirst]

theorem execGroupHandout_full (hu : schedulerUp s = true) (h : handFirst s (dispatchable s).length (dispatchable s) = none) :
    execGroupHandout s = .next s := by
  simp only [execGroupHandout, hu, if_true, h]

theorem execGroupHandout_placed {t : State} {q k p : Nat} (hu : schedulerUp s = true)
    (h : handFirst s (dispatchable s).length (dispatchable s) = some (t, q, k, p)) : execGroupHandout s = .next ((dispatchable s).foldl
      (fun (t : State) (x : Nat × Nat × Nat) => if x.2.1 = k then t else t.updKern x.2.1 (fun y => { y with passed := y.passed + 1 }))
      { t with outRr := tset t.outRr p q }) := by
  simp only [execGroupHandout, hu, if_true, h]
end

/-! ### The statement -/

/-- Settles O54: each event's answer in each of its cases. -/
theorem queueEngineActs : Obligations.QueueEngineActs := by
  unfold Obligations.QueueEngineActs
  intro s q k p d pn m psn l x
  refine ⟨fun stray => ?_, fun hm hc notNext => ?_, fun z p hm hc next => ?_, fun z hz => ?_, execDependencePoll_noHead, execDependencePoll_reads,
    fun stale opened => ?_, fun kept => ?_, fun draining empty done => ?_, fun busy => ?_, execKernelSelect_none, fun first hk => ?_,
    execGroupHandout_idle, execGroupHandout_full, fun t => execGroupHandout_placed⟩
  · rw [exec_launchMessage, execLaunchMessage_stray stray]
    refine ⟨fun waits => by rw [strayMessage_waits waits], fun arrived => ?_⟩
    obtain ⟨p, lt, framed, acked⟩ := strayMessage_acks arrived q pn
    exact ⟨p, lt, framed, congrArg _ acked⟩
  · exact execLaunchMessage_notNext hm hc notNext
  · rw [exec_launchMessage, execLaunchMessage_next hm hc next]
    refine ⟨fun invalid => congrArg _ (takeMessage_invalid invalid), fun header clean parsed => ?_⟩
    subst clean
    exact ⟨fun refused => congrArg _ (takeMessage_refused header parsed refused), fun takes full => congrArg _ (takeMessage_full header parsed takes full),
      fun takes room => congrArg _ (takeMessage_taken header parsed takes room)⟩
  · exact ⟨execDependenceWake_met hz, execDependenceWake_asleep hz⟩
  · rw [exec_queueStatusRefresh, execQueueStatusRefresh_eq, if_pos ⟨stale, opened⟩]
  · rw [exec_queueStatusRefresh, execQueueStatusRefresh_eq, if_neg]
    rintro ⟨stale, opened⟩
    exact kept.elim (by simp [stale]) opened
  · rw [exec_queueDrainComplete, execQueueDrainComplete_eq, if_pos ⟨draining, empty, done⟩]
  · rw [exec_queueDrainComplete, execQueueDrainComplete_eq, if_neg]
    rintro ⟨draining, empty, -⟩
    exact busy.elim (absurd draining) (absurd empty)
  · rw [exec_kernelSelect, execKernelSelect_some first hk]
    exact ⟨fun fits => by rw [if_pos fits]; rfl, fun wide => by rw [if_neg (by simp [wide])]; rfl⟩

end Sys2Proof.Machine
end

section
/-! SUPPORT. Launches, invalidations and the end of kernels: what klaunch and pg.inval do at their issue and at their completion (R179, R298, R303,
R304), with the statement about them; and a done block that waits for a peer's request, which refutes the statement on the end of kernels (R181, R298). -/

namespace Sys2Proof.Machine

open Sys2Proof.Spec

/-! ### The meaning of each instruction and event -/

section
variable (s : State)

@[simp] theorem exec_klaunch (c : Cm) (d r : SReg) : exec (.klaunch c d r) s = execKlaunch c d r s := rfl
@[simp] theorem exec_pgInvalComplete (o : Nat) : exec (.pgInvalComplete o) s = execPgInvalComplete o s := rfl
@[simp] theorem exec_blockRetire (b : Nat) : exec (.blockRetire b) s = execBlockRetire b s := rfl
end

/-! ### klaunch (R179, R298) -/

/-- Of the body of a command only its value at the issue counts. -/
theorem sends_congr {s : State} {i : Instr} {c : Cm} {cu : Cur} {w : Wave} {n : Nat} {stall : State → Issue → Bool} {body body' : State → Issue → State}
    (h : Sends s i c cu w n stall body) (e : body (s.advance cu.u n) (issueOf s c cu w) = body' (s.advance cu.u n) (issueOf s c cu w)) :
    Sends s i c cu w n stall body' := by
  unfold Sends at h ⊢
  dsimp only at h ⊢
  rwa [← e]

section
variable {s : State} {c : Cm} {cu : Cur} {w : Wave} {d r : SReg}

/-- The lane of a klaunch: its record's address, as captured or, where the word is no replay, read at issue. -/
def klaunchLane (s : State) (i : Issue) (w : Wave) (r : SReg) : LaneA :=
  match i.cap with
  | some cp => cp.lanes.headD (mkLane 0 noData noData noData)
  | none => mkLane ((lanes i.e).headD 0) ((sreg64 s w r).1.toNat, (sreg64 s w r).2) noData noData

/-- A klaunch that does not stall: its lanes fault where the address is poisoned, else the word is held. -/
def sendKlaunch (s : State) (i : Issue) (d : SReg) (l : LaneA) : State :=
  if l.apsn then faultEntry s i true (spread true i.e [{ l with fin := false, cause := 0x104 }]) true [l.addr]
  else startKlaunch s i d { l with fin := false, cause := 0 }

theorem sendKlaunch_poisoned {i : Issue} {l : LaneA} (h : l.apsn = true) :
    sendKlaunch s i d l = faultEntry s i true (spread true i.e [{ l with fin := false, cause := 0x104 }]) true [l.addr] := if_pos h
theorem sendKlaunch_clean {i : Issue} {l : LaneA} (h : l.apsn = false) : sendKlaunch s i d l = startKlaunch s i d { l with fin := false, cause := 0 } :=
  if_neg (Bool.eq_false_iff.1 h)

theorem execKlaunch_eq : execKlaunch c d r s = issueOp s (.klaunch c d r) c 1 (fun s i =>
    if i.e = 0 then some s else if cmdStall s i true then none else some (sendKlaunch s i d (klaunchLane s i i.w r))) := by
  refine congrArg (issueOp s _ c 1) (funext fun t => funext fun i => ite_congr rfl (fun _ => rfl) fun _ => ite_congr rfl (fun _ => rfl) fun _ => ?_)
  unfold sendKlaunch klaunchLane
  cases i.cap <;> dsimp only <;> split <;> rfl

theorem klaunch_sends : Sends s (.klaunch c d r) c cu w 1 (fun s i => cmdStall s i true) (fun s i => sendKlaunch s i d (klaunchLane s i w r)) :=
  sends_congr (sends_of ((exec_klaunch s c d r).trans execKlaunch_eq)) (by rw [issueOf_w])
end

/-! ### pg.inval (R303, R304) -/

/-- A pg.inval that does not stall: its lanes fault where an operand is poisoned, else the command is sent. -/
def sendPgInval (var : Nat) (d : SReg) (asid : Val) (va : W64 × Bool) (blocks : List Nat) (s : State) (i : Issue) : State :=
  if asid.psn || va.2 then faultEntry s i false (faultMask i.e 0x104) true blocks
  else command s i (.pgInval var d asid.v.toNat va.1) true blocks (cmdAfter s i) (some d) 1 (runPgInval var d asid.v.toNat va.1)

theorem pgIssue_eq (var : Nat) (d : SReg) (asid : Val) (va : W64 × Bool) (blocks : List Nat) (s : State) (i : Issue) :
    pgIssue var d asid va blocks s i =
      if i.e = 0 then some s else if slackStall s i then none else some (sendPgInval var d asid va blocks s i) := by
  unfold pgIssue sendPgInval
  rw [apply_ite some]

/-- A pg.inval is sent with the operands it has at issue, which are the same with the split past the word as before it. -/
theorem pgInval_sends {s : State} {i : Instr} {c : Cm} {cu : Cur} {w : Wave} {var : Nat} {d : SReg} {asid : State → Wave → Val}
    {va : State → Wave → W64 × Bool} {blocks : State → Wave → List Nat}
    (he : exec i s = issueOp s i c 1 (fun s j => pgIssue var d (asid s j.w) (va s j.w) (blocks s j.w) s j))
    (ha : asid (s.advance cu.u 1) w = asid s w) (hv : va (s.advance cu.u 1) w = va s w) (hb : blocks (s.advance cu.u 1) w = blocks s w) :
    Sends s i c cu w 1 slackStall (sendPgInval var d (asid s w) (va s w) (blocks s w)) := by
  simp only [pgIssue_eq] at he
  refine sends_congr (sends_of he) ?_
  rw [issueOf_w, ha, hv, hb]

section
variable {s : State} {o var asid : Nat} {d : SReg} {va : W64}

theorem execPgInvalComplete_left {x : Op} (hx : s.op o = some x) (hk : x.kind = .cmd (.pgInval var d asid va)) (hl : x.left = true) (ht : x.twin ≠ 3) :
    execPgInvalComplete o s = .next (giveStatus { s with copies := s.copies.map (fun (c : Nat × Copy) =>
      let l := c.2.stallVa.map (fun a => (a.1, a.2 || pgCovers var asid va c.2.asid (vpnOf a.1)))
      if c.2.st == .stalled then (c.1, { c.2 with stallVa := l, released := l.all (fun a => a.2) }) else c) } o d [0]) := by
  have taken : ¬(!x.left || x.twin == 3) = true := by simp [hl, ht]
  simp only [execPgInvalComplete, hx, hk, if_neg taken]

theorem execPgInvalComplete_waits {x : Op} (hx : s.op o = some x) (hl : x.left = false) : execPgInvalComplete o s = .next s := by
  simp only [execPgInvalComplete, hx, hl, Bool.not_false, Bool.true_or, if_true]
  split <;> rfl

theorem runPgInval_bad (h : (var ≠ 2 ∧ 4095 < asid) ∨ (var = 0 ∧ 2 ^ 56 ≤ va.toNat)) : runPgInval var d asid va s o = giveStatus s o d [1] := if_pos h

section
variable (h : ¬((var ≠ 2 ∧ 4095 < asid) ∨ (var = 0 ∧ 2 ^ 56 ≤ va.toNat)))
include h

theorem runPgInval_waits (hs : stillOut (flushPages s (pgCovers var asid va)) (ofPages (pgCovers var asid va)) = true) :
    runPgInval var d asid va s o = flushPages s (pgCovers var asid va) := (if_neg h).trans (if_pos hs)

theorem runPgInval_drops (hs : stillOut (flushPages s (pgCovers var asid va)) (ofPages (pgCovers var asid va)) = false) :
    runPgInval var d asid va s o =
      (dropRecs (leavePages s (pgCovers var asid va)) (fun a rec => pgCovers var asid va a (vpnOf rec))).updOp o (fun x => { x with left := true }) :=
  (if_neg h).trans (if_neg (by simp [hs]))
end
end

/-- Settles O52: klaunch and the three forms of pg.inval are commands that are sent; then what pg.inval does once its close is done. -/
theorem launchAndInvalidate : Obligations.LaunchAndInvalidate := by
  unfold Obligations.LaunchAndInvalidate
  intro s c cu w d r p b o var asid va x
  refine ⟨fun issues noLane => ?_, fun issues lane stalls => ?_, fun issues lane ready => ?_,
    pgInval_sends (asid := fun s w => ssrc s w b) (va := fun s w => spair s w p) (blocks := fun s w => [(spair s w p).1.toNat, (ssrc s w b).v.toNat])
      rfl rfl rfl rfl,
    pgInval_sends (asid := fun s w => ssrc s w b) (va := fun _ _ => (0, false)) (blocks := fun s w => [(ssrc s w b).v.toNat]) rfl rfl rfl rfl,
    pgInval_sends (asid := fun _ _ => Val.zero) (va := fun _ _ => (0, false)) (blocks := fun _ _ => []) rfl rfl rfl rfl,
    execPgInvalComplete_left, execPgInvalComplete_waits, fun asidOk vaOk => ?_, runPgInval_bad⟩
  · obtain ⟨-, nothing, -, -⟩ := klaunch_sends (d := d) (r := r) issues
    exact nothing noLane rfl
  · obtain ⟨-, -, again, -⟩ := klaunch_sends (d := d) (r := r) issues
    exact again lane stalls
  · obtain ⟨-, -, -, sent⟩ := klaunch_sends (d := d) (r := r) issues
    exact ⟨fun psn => sendKlaunch_poisoned psn ▸ sent lane ready, fun clean => sendKlaunch_clean clean ▸ sent lane ready⟩
  · have covered := not_or.2 ⟨asidOk, vaOk⟩
    exact ⟨runPgInval_waits covered, runPgInval_drops covered⟩

/-! ### The end of a block (R181, R298) -/

/-- The state once every checked request of a block's peers that can be performed has been. -/
def flushPeers (s : State) (b : Nat) (y : Block) : State := (List.range y.places.length).foldl (fun s j => flushPeer s b j) s

/-- A done block that waits for one request of a peer leaves them all unperformed: the model takes the flushed state only to ask whether it may retire. -/
theorem execBlockRetire_waits {s : State} {b : Nat} {y : Block} (hy : tfind s.blocks b = some y) (hd : blockDone s b y = true)
    (hp : peerOut (flushPeers s b y) b = true) : execBlockRetire b s = .next s := by
  unfold flushPeers at hp
  simp only [execBlockRetire, hy, hd, hp, Bool.not_true, Bool.false_eq_true, if_false, if_true]

/-! A group of two blocks: block 0 on core 0 is done; two waves of block 1, on core 1, have stores through the cluster window to block 0's scratchpad, all past
their check. The first wave's are at offsets 0 and 4, the statuses of the second not merged yet; the second wave's, at 8, is held back by it (R264), so that
block 0 cannot retire. The store at 0 can be performed. -/

def doneBlock : Block := ⟨0, 0, 0, [⟨0, 0, 0, 0, [], false, false⟩]⟩
def peerWave (slot : Nat) : Wave := { slotWave 64 with uid := slot + 1, block := 1, waveId := slot }
/-- A checked store of the value 1 to a word of rank 0, whose statuses are merged or not. -/
def peerStore (slot off : Nat) (merged : Bool) : Op :=
  { blankOp (issueOf State.reset ⟨false, 7, false⟩ ⟨⟨⟨0, 1, slot⟩, 0⟩, 0, 0⟩ (peerWave slot)) (.store 4 false) [] with
    space := .none, told := merged, left := true, lanes := [{ mkLane 0 (off, false) (1, false) noData with chk := true }] }
def pairKernel : Kern := { Kern.pending { Launch.zero with gx := 2, gy := 1, gz := 1, gsize := 1, nwave := 1, spad := 1 } 0 1 with st := .running, nextGroup := 1 }
def besidePeer : State :=
  { State.reset with
    kerns := [(0, pairKernel)]
    blocks := [(0, doneBlock), (1, ⟨0, 1, 0, [⟨0, 1, 0, 0, [], false, false⟩]⟩)]
    waves := [(⟨0, 1, 0⟩, peerWave 0), (⟨0, 1, 1⟩, peerWave 1)]
    ops := [(5, peerStore 0 0 true), (6, peerStore 0 4 false), (7, peerStore 1 8 true)] }

theorem besidePeer_done : blockDone besidePeer 0 doneBlock = true := by decide
theorem besidePeer_waits : peerOut (flushPeers besidePeer 0 doneBlock) 0 = true := by decide +kernel
theorem besidePeer_flushed : (spadRead (flushPeers besidePeer 0 doneBlock) 0 0 0 1).1 = [1] := by decide +kernel
theorem besidePeer_unflushed : (spadRead besidePeer 0 0 0 1).1 = [0] := by decide +kernel

/-- Refutes O53, at its clause for a done block of which a peer's request cannot be performed yet: the step is to perform those that can be (R298), and
leaves the state as it was. In `besidePeer` the first store's byte stays 0 where the flushed state has 1. -/
theorem not_kernelsEnd : ¬ Obligations.KernelsEnd := by
  unfold Obligations.KernelsEnd
  intro holds
  obtain ⟨-, -, -, peersPerformed, -⟩ := holds besidePeer ⟨0, 1, 0⟩ (peerWave 0) 0 0 0 pairKernel doneBlock (peerStore 0 0 true)
  have performed : execBlockRetire 0 besidePeer = .next (flushPeers besidePeer 0 doneBlock) := peersPerformed rfl besidePeer_done besidePeer_waits
  have unchanged : besidePeer = flushPeers besidePeer 0 doneBlock :=
    Host.Outcome.next.inj ((execBlockRetire_waits rfl besidePeer_done besidePeer_waits).symm.trans performed)
  have sameByte : (spadRead besidePeer 0 0 0 1).1 = (spadRead (flushPeers besidePeer 0 doneBlock) 0 0 0 1).1 := congrArg (fun t => (spadRead t 0 0 0 1).1) unchanged
  exact absurd (besidePeer_unflushed.symm.trans (sameByte.trans besidePeer_flushed)) (by decide)

end Sys2Proof.Machine
end

section
/-! SUPPORT. The ends of waits: what a wake-up of a barrier or map wait, the end of a sleep, and the arrival of a byte credit or of a phase signal
answer, case by case (R199, R232, R235, R236, R243), with the statement about them. -/

namespace Sys2Proof.Machine

section
variable (s : State)

@[simp] theorem exec_barWake (u : SplitRef) : exec (.barWake u) s = execBarWake u s := rfl
@[simp] theorem exec_sleepExpiry (u : SplitRef) : exec (.sleepExpiry u) s = execSleepExpiry u s := rfl
@[simp] theorem exec_byteCredit (m : Nat) : exec (.byteCredit m) s = execByteCredit m s := rfl
@[simp] theorem exec_clusterSignal (m : Nat) : exec (.clusterSignal m) s = execClusterSignal m s := rfl
end

section
variable {s : State} {u : SplitRef}

/-! ### Barrier and map waits (R236, R243) -/

section
variable {slot : Nat} {phase opens : Bool} {bits : W64}

theorem execBarWake_phaseOver (h : (s.split u).st = .waitBar slot phase opens true) : execBarWake u s = .next (resumeSplit s u opens) := by
  simp only [execBarWake, h]
theorem execBarWake_bitsSet (h : (s.split u).st = .waitMap slot bits true) : execBarWake u s = .next (resumeSplit s u false) := by
  simp only [execBarWake, h]
theorem execBarWake_phaseOpen (h : (s.split u).st = .waitBar slot phase opens false) : execBarWake u s = .next s := by
  simp only [execBarWake, h]
end

/-! ### Sleeps (R199) -/

section
variable {till : Nat}

theorem execSleepExpiry_over (h : (s.split u).st = .sleep till) (elapsed : till ≤ s.cyc u.w.die) :
    execSleepExpiry u s = .next (wakeSplit (s.updSplit u (fun x => { x with recheck := x.hdrw.isSome })) u) := by
  simp only [execSleepExpiry, h, if_neg (Nat.not_lt.2 elapsed)]
theorem execSleepExpiry_early (h : (s.split u).st = .sleep till) (early : s.cyc u.w.die < till) : execSleepExpiry u s = .next s := by
  simp only [execSleepExpiry, h, if_pos early]
end

/-! ### Credits and signals on their way (R22, R232, R235, R244) -/

section
variable {m b cp n src : Nat}

theorem execByteCredit_arrives {prod k : Nat} (sent : tfind s.msgs m = some (.credit b cp n prod k src)) (present : savedOut s b cp = false)
    (first : msgFirst s m (.credit b cp n prod k src) = true) :
    execByteCredit m s = .next (creditBytes { s with msgs := tdel s.msgs m } b cp n prod k) := by
  simp only [execByteCredit, sent, present, first, Bool.not_false, Bool.and_self, if_true]
theorem execClusterSignal_arrives {phase : Bool} (sent : tfind s.msgs m = some (.signal b cp n phase src)) (present : savedOut s b cp = false)
    (first : msgFirst s m (.signal b cp n phase src) = true) :
    execClusterSignal m s = .next (peerSignal { s with msgs := tdel s.msgs m } b cp n phase) := by
  simp only [execClusterSignal, sent, present, first, Bool.not_false, Bool.and_self, if_true]
end

end

/-- Settles O39: each event is its case in the state of the split or in the message on its way. -/
theorem waitsEnd : Obligations.WaitsEnd := by
  unfold Obligations.WaitsEnd
  intro s u slot b cp n p k t m src tok o q mk
  exact ⟨execBarWake_phaseOver, execBarWake_bitsSet, execBarWake_phaseOpen, execSleepExpiry_over, execSleepExpiry_early,
    execByteCredit_arrives, execClusterSignal_arrives⟩

end Sys2Proof.Machine
end

section
/-! SUPPORT. Division of a split (R207, R208): the lane sets of a list of destinations, the entries and stack places that they take, and the statement
O24, that each lane stands afterwards where it was to go. -/

namespace Sys2Proof.Machine

open Sys2Proof.Spec

/-! ### Entries of a split table -/

section
variable {w : Wave} {j k : Nat} {x : Split}

theorem split_setSplit_same (h : k < w.splits.length) : (w.setSplit k x).split k = x := by
  simp [Wave.split, Wave.setSplit, lget, lset, h]
theorem split_setSplit_other (h : j ≠ k) : (w.setSplit k x).split j = w.split j := by
  simp [Wave.split, Wave.setSplit, lget, lset, List.getElem?_set_ne h.symm]
theorem length_setSplit : (w.setSplit k x).splits.length = w.splits.length := List.length_set
theorem split_eq_getElem (h : k < w.splits.length) : w.split k = w.splits[k] := (List.getElem_eq_getD _).symm
/-- Beyond the table stands no split. -/
theorem lt_length_of_inUse (h : (w.split k).inUse = true) : k < w.splits.length := by
  by_contra beyond
  simp [Wave.split, lget, List.getElem?_eq_none (Nat.not_lt.1 beyond), Split.free, Split.inUse] at h

/-- The entries of a table that are not in use. -/
def Wave.freeEntries (w : Wave) : Nat := (w.splits.filter (fun x => !x.inUse)).length

theorem freeEntries_setSplit (hk : k < w.splits.length) (hx : x.inUse = true) :
    (w.setSplit k x).freeEntries = w.freeEntries - if (w.split k).inUse then 0 else 1 := by
  rw [split_eq_getElem hk]
  simp only [Wave.freeEntries, Wave.setSplit, lset, ← List.countP_eq_length_filter, List.countP_set hk, hx]
  cases w.splits[k].inUse <;> rfl
/-- Where an entry is free, one is found. -/
theorem exists_freeEntry (h4 : w.splits.length = 4) (free : 0 < w.freeEntries) : ∃ k, w.freeEntry = some k := by
  obtain ⟨y, hy⟩ := List.length_pos_iff_exists_mem.1 free
  obtain ⟨mem, unused⟩ := List.mem_filter.1 hy
  obtain ⟨k, hk, rfl⟩ := List.mem_iff_getElem.1 mem
  refine Option.isSome_iff_exists.1 (List.find?_isSome.2 ⟨k, List.mem_range.2 (h4 ▸ hk), ?_⟩)
  rwa [split_eq_getElem hk]
theorem freeEntry_spec (h : w.freeEntry = some k) : k < 4 ∧ (w.split k).inUse = false :=
  ⟨List.mem_range.1 (List.mem_of_find?_eq_some h), by simpa using List.find?_some h⟩
/-- A new split takes a free entry. -/
theorem newSplit_takes (h4 : w.splits.length = 4) (free : 0 < w.freeEntries) (x : Split) :
    ∃ k n, k < 4 ∧ (w.split k).inUse = false ∧ w.newSplit x = w.setSplit k { x with age := n } := by
  obtain ⟨k, found⟩ := exists_freeEntry h4 free
  obtain ⟨hk, unused⟩ := freeEntry_spec found
  exact ⟨k, (w.splits.filter Split.inUse).length, hk, unused, by simp only [Wave.newSplit, found]⟩
@[simp] theorem newSplit_stack : (w.newSplit x).stack = w.stack := by
  unfold Wave.newSplit; split <;> rfl
end

/-- Entry k holds a split in use with the lanes of a set, at the set's destination. -/
def Stands (w : Wave) (x : Mask × Addr) (k : Nat) : Prop :=
  k < 4 ∧ (w.split k).inUse = true ∧ (w.split k).mask = x.1 ∧ (w.split k).pc = x.2
theorem stands_congr {w v : Wave} {x : Mask × Addr} {k : Nat} (h : Stands w x k) (e : v.split k = w.split k) : Stands v x k := by
  unfold Stands; rw [e]; exact h

/-! ### Arrival (R211) leaves a split where it stands -/

section
variable {w : Wave} {j k : Nat}

@[simp] theorem goOn_ne_unused (x : Split) : (x.goOn != .unused) = true := by unfold Split.goOn; split <;> rfl
@[simp] theorem goOn_ne_exited (x : Split) : (x.goOn != .exited) = true := by unfold Split.goOn; split <;> rfl

theorem arrive_split_other (a : Addr) (h : j ≠ k) : (arrive w k a).split j = w.split j := split_setSplit_other h
theorem stands_arrive {x : Mask × Addr} (h : Stands w x j) (k : Nat) : Stands (arrive w k (w.split k).pc) x j := by
  by_cases same : j = k
  · subst same
    obtain ⟨h4, used, mask, pc⟩ := h
    unfold Stands arrive
    rw [split_setSplit_same (lt_length_of_inUse used)]
    refine ⟨h4, ?_, mask, pc⟩
    simp only [Split.inUse]
    split
    · rfl
    · simp
  · exact stands_congr h (arrive_split_other _ same)
end

/-! ### The lane sets of a list of destinations -/

/-- A set holds only lanes that go to its destination. -/
theorem mem_of_mem_laneSets {d : List (Nat × Addr)} {x : Mask × Addr} {l : Nat} (h : x ∈ laneSets d) (hl : x.1.getLsbD l = true) :
    (l, x.2) ∈ d := by
  induction d generalizing x with
  | nil => cases h
  | cons e t ih =>
    obtain ⟨l', a⟩ := e
    simp only [laneSets, List.mem_cons, List.mem_filter] at h
    rcases h with rfl | ⟨mem, -⟩
    · simp only [getLsbD_maskOf _ (BitVec.lt_of_getLsbD hl), Bool.or_eq_true, List.any_eq_true, Bool.and_eq_true, beq_iff_eq] at hl
      rcases hl with rfl | ⟨y, mem, same, bit⟩
      · exact List.mem_cons_self
      · have there := ih mem bit
        rw [same] at there
        exact List.mem_cons_of_mem _ there
    · exact List.mem_cons_of_mem _ (ih mem hl)
/-- Every lane stands in the set of its destination. -/
theorem exists_laneSet {d : List (Nat × Addr)} {l : Nat} {a : Addr} (h : (l, a) ∈ d) (hl : l < 32) :
    ∃ x ∈ laneSets d, x.1.getLsbD l = true ∧ x.2 = a := by
  induction d with
  | nil => cases h
  | cons e t ih =>
    obtain ⟨l', b⟩ := e
    simp only [laneSets]
    rcases List.mem_cons.1 h with same | tail
    · cases same
      exact ⟨_, List.mem_cons_self, by simp [getLsbD_maskOf _ hl], rfl⟩
    · obtain ⟨x, mem, bit, rfl⟩ := ih tail
      by_cases same : x.2 = b
      · refine ⟨_, List.mem_cons_self, ?_, same.symm⟩
        simp only [getLsbD_maskOf _ hl, Bool.or_eq_true, List.any_eq_true, Bool.and_eq_true, beq_iff_eq]
        exact .inr ⟨x, mem, same, bit⟩
      · exact ⟨x, List.mem_cons_of_mem _ (List.mem_filter.2 ⟨mem, by simpa using same⟩), bit, rfl⟩

section
variable {m : Mask} {dest : Nat → Addr}

/-- The destinations of the lanes of a mask. -/
def destsOf (m : Mask) (dest : Nat → Addr) : List (Nat × Addr) := (lanes m).map (fun l => (l, dest l))
theorem mem_destsOf {l : Nat} {a : Addr} : (l, a) ∈ destsOf m dest ↔ (l < 32 ∧ m.getLsbD l = true) ∧ dest l = a := by
  simp [destsOf, mem_lanes]

theorem exists_laneSet_of_lane {l : Nat} (hl : l < 32) (h : m.getLsbD l = true) :
    ∃ x ∈ laneSets (destsOf m dest), x.1.getLsbD l = true ∧ x.2 = dest l :=
  exists_laneSet (mem_destsOf.2 ⟨⟨hl, h⟩, rfl⟩) hl
theorem laneSets_ne_nil (h : m ≠ 0) : laneSets (destsOf m dest) ≠ [] := fun empty => by
  obtain ⟨hl, bit⟩ := mem_lanes.1 (headD_lanes_mem h)
  obtain ⟨x, mem, -⟩ := exists_laneSet_of_lane (dest := dest) hl bit
  rw [empty] at mem
  cases mem
/-- A set of lanes of m and a mask apart from m are not one, unless they are empty. -/
theorem laneSet_ne_of_disjoint {x : Mask × Addr} {n : Mask} (h : x ∈ laneSets (destsOf m dest)) (hn : n ≠ 0) (apart : n &&& m = 0) : x.1 ≠ n := by
  rintro rfl
  refine hn (BitVec.eq_of_getLsbD_eq fun l _ => ?_)
  have bit : (x.1 &&& m).getLsbD l = false := by rw [apart]; simp
  rw [BitVec.getLsbD_and, Bool.and_eq_false_iff] at bit
  rcases bit with out | out
  · simpa using out
  · have : x.1.getLsbD l ≠ true := fun hl => by
      simpa [out] using (mem_destsOf.1 (mem_of_mem_laneSets h hl)).1.2
    simpa using this
end

/-! ### The parts of a division (R207) -/

/-- The split that a lane set becomes. -/
def splitFor (rpc : W64) (x : Mask × Addr) : Split :=
  { Split.free with pc := x.2, hdr := x.2, rpc := rpc, mask := x.1, st := .runnable, frozen := false }
/-- The issuing split goes on with the first set. -/
def keepFirst (k : Nat) (rpc : W64) (x : Mask × Addr) (w : Wave) : Wave :=
  w.setSplit k { w.split k with mask := x.1, rpc := rpc, pc := x.2, hdr := x.2, hdrw := none, recheck := false }
/-- Sets that take entries of the table. -/
def takeEntries (rpc : W64) (now : List (Mask × Addr)) (w : Wave) : Wave := now.foldl (fun w x => w.newSplit (splitFor rpc x)) w
/-- Sets that go onto the stack, counted by SPLOVF (R208). -/
def pushSets (rpc : W64) (later : List (Mask × Addr)) (w : Wave) : Wave :=
  { w with
    stack := later.map (fun x => ⟨x.1, x.2, rpc⟩) ++ w.stack
    splovf := BitVec.ofNat 32 (min (w.splovf.toNat + later.length) 0xFFFFFFFF) }
/-- The new splits arrive (R211). -/
def arriveNew (k : Nat) (now : List (Mask × Addr)) (w : Wave) : Wave :=
  (List.range 4).foldl (fun w j =>
    if j ≠ k && (w.split j).inUse && now.any (fun x => x.1 == (w.split j).mask) then arrive w j (w.split j).pc else w) w
/-- A wave whose split k divides into a first set and others, in the order in which the model does it. -/
def dividedWave (k : Nat) (rpc : W64) (first : Mask × Addr) (others : List (Mask × Addr)) (w : Wave) : Wave :=
  arriveNew k (others.take w.freeEntries) (pushSets rpc (others.drop w.freeEntries) (takeEntries rpc (others.take w.freeEntries) (keepFirst k rpc first w)))

section
variable {s : State} {i : Issue} {dests : List (Nat × Addr)} {rpc : W64}

theorem divide_none (h : laneSets dests = []) : divide s i dests rpc = s := by
  unfold divide; rw [h]
/-- Lanes that form one set go there whole. -/
theorem divide_one {m : Mask} {a : Addr} (h : laneSets dests = [(m, a)]) :
    divide s i dests rpc = s.updSplit i.u (fun x => { x with st := .runnable, pc := a, hdr := a, hdrw := none, recheck := false }) := by
  unfold divide; rw [h]
theorem divide_many {w : Wave} {x y : Mask × Addr} {t : List (Mask × Addr)} (h : laneSets dests = x :: y :: t) (hw : s.wave i.u.w = some w) :
    divide s i dests rpc = s.setWave i.u.w (dividedWave i.u.k rpc x (y :: t) w) := by
  unfold divide; rw [h]; simp only [hw]; rfl
end

/-! ### Where the sets stand after each part -/

section
variable {w : Wave} {rpc : W64} {k : Nat} {now later : List (Mask × Addr)} {x : Mask × Addr}

theorem stands_keepFirst (h4 : k < 4) (used : (w.split k).inUse = true) : Stands (keepFirst k rpc x w) x k := by
  unfold Stands keepFirst
  rw [split_setSplit_same (lt_length_of_inUse used)]
  exact ⟨h4, used, rfl, rfl⟩
theorem freeEntries_keepFirst (used : (w.split k).inUse = true) : (keepFirst k rpc x w).freeEntries = w.freeEntries := by
  have e := freeEntries_setSplit (x := { w.split k with mask := x.1, rpc := rpc, pc := x.2, hdr := x.2, hdrw := none, recheck := false })
    (lt_length_of_inUse used) used
  rw [used] at e
  exact e

/-- Sets that find entries take free ones: a split in use stays as it was, and every set stands in an entry. -/
theorem takeEntries_stands (h4 : w.splits.length = 4) (room : now.length ≤ w.freeEntries) :
    (∀ j, (w.split j).inUse = true → (takeEntries rpc now w).split j = w.split j) ∧
      ∀ x ∈ now, ∃ j, Stands (takeEntries rpc now w) x j := by
  induction now generalizing w with
  | nil => exact ⟨fun _ _ => rfl, fun _ h => by cases h⟩
  | cons x t ih =>
    rw [List.length_cons] at room
    obtain ⟨k, n, hk, free, takes⟩ := newSplit_takes h4 (by omega) (splitFor rpc x)
    have hk' : k < w.splits.length := by omega
    have here : Stands (w.setSplit k { splitFor rpc x with age := n }) x k := by
      unfold Stands; rw [split_setSplit_same hk']; exact ⟨hk, rfl, rfl, rfl⟩
    have left : (w.setSplit k { splitFor rpc x with age := n }).freeEntries = w.freeEntries - 1 := by
      rw [freeEntries_setSplit hk' rfl, free]; rfl
    obtain ⟨kept, stand⟩ := ih (length_setSplit.trans h4) (show t.length ≤ _ by rw [left]; omega)
    have first : takeEntries rpc (x :: t) w = takeEntries rpc t (w.setSplit k { splitFor rpc x with age := n }) := congrArg (takeEntries rpc t) takes
    rw [first]
    refine ⟨fun j used => ?_, fun y mem => ?_⟩
    · have same : (w.setSplit k { splitFor rpc x with age := n }).split j = w.split j :=
        split_setSplit_other (by rintro rfl; simp [free] at used)
      exact (kept j (by rw [same]; exact used)).trans same
    · rcases List.mem_cons.1 mem with rfl | tail
      · exact ⟨k, stands_congr here (kept k here.2.1)⟩
      · exact stand y tail
@[simp] theorem takeEntries_stack : (takeEntries rpc now w).stack = w.stack :=
  List.foldlRecOn now _ (motive := fun (v : Wave) => v.stack = w.stack) rfl (fun _ h _ _ => newSplit_stack.trans h)

theorem stands_arriveNew {j : Nat} (h : Stands w x j) : Stands (arriveNew k now w) x j := by
  refine List.foldlRecOn _ _ (motive := fun (v : Wave) => Stands v x j) h (fun v hv n _ => ?_)
  split
  · exact stands_arrive hv n
  · exact hv
/-- A split with the lanes of none of the new sets does not arrive. -/
theorem arriveNew_split {j : Nat} (h : ∀ x ∈ now, x.1 ≠ (w.split j).mask) : (arriveNew k now w).split j = w.split j := by
  refine List.foldlRecOn _ _ (motive := fun (v : Wave) => v.split j = w.split j) rfl (fun v hv n _ => ?_)
  split
  · rename_i arrives
    have ne : j ≠ n := by
      rintro rfl
      simp only [Bool.and_eq_true, List.any_eq_true, beq_iff_eq, hv] at arrives
      obtain ⟨-, y, mem, same⟩ := arrives
      exact h y mem same
    exact (arrive_split_other _ ne).trans hv
  · exact hv
@[simp] theorem arriveNew_stack : (arriveNew k now w).stack = w.stack := by
  refine List.foldlRecOn _ _ (motive := fun (v : Wave) => v.stack = w.stack) rfl (fun v hv n _ => ?_)
  split
  · exact hv
  · exact hv
end

/-! ### Where the sets stand after the division -/

section
variable {w : Wave} {k : Nat} {rpc : W64} {first : Mask × Addr} {others : List (Mask × Addr)}

theorem dividedWave_stack :
    (dividedWave k rpc first others w).stack = (others.drop w.freeEntries).map (fun x => ⟨x.1, x.2, rpc⟩) ++ w.stack := by
  simp only [dividedWave, arriveNew_stack, pushSets, takeEntries_stack]; rfl

section
variable (h4 : w.splits.length = 4) (used : (w.split k).inUse = true)
include h4 used

/-- The sets that find entries, and the splits that were in use, before the new splits arrive. -/
theorem takeEntries_keepFirst :
    let v := takeEntries rpc (others.take w.freeEntries) (keepFirst k rpc first w)
    (∀ j, ((keepFirst k rpc first w).split j).inUse = true → v.split j = (keepFirst k rpc first w).split j) ∧
      ∀ x ∈ others.take w.freeEntries, ∃ j, Stands v x j :=
  takeEntries_stands (length_setSplit.trans h4) (by rw [freeEntries_keepFirst used]; exact List.length_take_le _ _)

/-- Every set stands in an entry or on the stack. -/
theorem dividedWave_places (hk : k < 4) {x : Mask × Addr} (h : x ∈ first :: others) :
    (∃ j, Stands (dividedWave k rpc first others w) x j) ∨
      ∃ e ∈ (dividedWave k rpc first others w).stack, e.mask = x.1 ∧ e.target = x.2 := by
  obtain ⟨kept, stand⟩ := takeEntries_keepFirst (rpc := rpc) (first := first) (others := others) h4 used
  rcases List.mem_cons.1 h with rfl | tail
  · have here := stands_keepFirst (rpc := rpc) (x := x) hk used
    exact .inl ⟨k, stands_arriveNew (stands_congr here (kept k here.2.1))⟩
  · rw [← List.take_append_drop w.freeEntries others, List.mem_append] at tail
    rcases tail with entry | place
    · obtain ⟨j, here⟩ := stand x entry
      exact .inl ⟨j, stands_arriveNew (stands_congr here rfl)⟩
    · refine .inr ⟨⟨x.1, x.2, rpc⟩, ?_, rfl, rfl⟩
      rw [dividedWave_stack]
      exact List.mem_append_left _ (List.mem_map.2 ⟨x, place, rfl⟩)
/-- A split in use that is not the issuing one, with the lanes of none of the sets, is as it was. -/
theorem dividedWave_split_other {j : Nat} (ne : j ≠ k) (hj : (w.split j).inUse = true) (h : ∀ x ∈ others, x.1 ≠ (w.split j).mask) :
    (dividedWave k rpc first others w).split j = w.split j := by
  obtain ⟨kept, -⟩ := takeEntries_keepFirst (rpc := rpc) (first := first) (others := others) h4 used
  have first_other : (keepFirst k rpc first w).split j = w.split j := split_setSplit_other ne
  have taken : (takeEntries rpc (others.take w.freeEntries) (keepFirst k rpc first w)).split j = w.split j :=
    (kept j (by rw [first_other]; exact hj)).trans first_other
  refine (arriveNew_split fun x mem => ?_).trans taken
  exact (h x (List.mem_of_mem_take mem)).trans_eq (congrArg Split.mask taken).symm
end
end

/-- Settles O24: one set takes the whole split; of several, the first takes the issuing entry and each other one a free entry or a place on the stack. -/
theorem divisionPlacesEveryLane : Obligations.DivisionPlacesEveryLane := by
  unfold Obligations.DivisionPlacesEveryLane
  intro s i w dest rpc hw h4 hk used mask lane _
  show ∃ v, (divide s i (destsOf i.sp.mask dest) rpc).wave i.u.w = some v ∧ _
  match e : laneSets (destsOf i.sp.mask dest) with
  | [] => exact absurd e (laneSets_ne_nil lane)
  | [(m, a)] =>
    refine ⟨_, by rw [divide_one e, State.updSplit, wave_updWave_same, hw]; rfl, fun l hl bit => .inl ⟨i.u.k, hk, ?_⟩,
      fun j _ ne _ _ _ => split_setSplit_other ne, 0, rfl⟩
    obtain ⟨x, mem, -, goes⟩ := exists_laneSet_of_lane (dest := dest) hl bit
    rw [e, List.mem_singleton] at mem
    subst mem
    rw [split_setSplit_same (lt_length_of_inUse used)]
    exact ⟨rfl, by rw [mask]; exact bit, goes⟩
  | first :: y :: t =>
    refine ⟨_, by rw [divide_many e hw, wave_setWave_same], fun l hl bit => ?_, fun j _ ne hj nonempty apart => ?_, _,
      (congrArg _ dividedWave_stack).trans List.drop_left⟩
    · obtain ⟨x, mem, bit, goes⟩ := exists_laneSet_of_lane (dest := dest) hl bit
      rcases dividedWave_places h4 used hk (e ▸ mem) with ⟨j, hj, inUse, set, pc⟩ | ⟨p, mem, set, target⟩
      · exact .inl ⟨j, hj, inUse, by rw [set]; exact bit, pc.trans goes⟩
      · exact .inr ⟨p, mem, by rw [set]; exact bit, target.trans goes⟩
    · refine dividedWave_split_other h4 used ne hj (fun x mem => laneSet_ne_of_disjoint (dest := dest) ?_ nonempty apart)
      rw [e]
      exact List.mem_cons_of_mem _ mem

end Sys2Proof.Machine
end

section
/-! Branches, returns and calls (R207, R216, R217): what a transfer does with the lanes that fault and with the others, and the statements O22 and O23. -/

namespace Sys2Proof.Machine

open Sys2Proof.Spec

/-! ### A division changes the split table, the stack and SPLOVF alone -/

/-- A wave keeps what `KeepsWave` names, but for SPLOVF. -/
def KeepsButOverflow (w v : Wave) : Prop := KeepsWave { w with splovf := v.splovf } v

section
variable {u v w : Wave}

theorem keepsButOverflow_of (h : KeepsWave w v) : KeepsButOverflow w v := by
  unfold KeepsButOverflow KeepsWave at *; rw [h]
theorem keepsButOverflow_trans (h : KeepsButOverflow u v) (k : KeepsButOverflow v w) : KeepsButOverflow u w := by
  unfold KeepsButOverflow KeepsWave at *; rw [h] at k; exact k

theorem keeps_takeEntries (rpc : W64) (now : List (Mask × Addr)) (w : Wave) : KeepsWave w (takeEntries rpc now w) :=
  keeps_foldl _ (fun v _ => keeps_newSplit v _) now w
theorem keeps_arriveNew (k : Nat) (now : List (Mask × Addr)) (w : Wave) : KeepsWave w (arriveNew k now w) := by
  refine keeps_foldl _ (fun v j => ?_) _ w
  split
  · exact keeps_arrive v j _
  · exact keepsWave_refl v
theorem dividedWave_keeps (k : Nat) (rpc : W64) (first : Mask × Addr) (others : List (Mask × Addr)) (w : Wave) :
    KeepsButOverflow w (dividedWave k rpc first others w) := by
  have taken : KeepsWave w (takeEntries rpc (others.take w.freeEntries) (keepFirst k rpc first w)) :=
    keepsWave_trans (keeps_setSplit w k _) (keeps_takeEntries _ _ _)
  have pushed : ∀ v, KeepsButOverflow v (pushSets rpc (others.drop w.freeEntries) v) := fun _ => rfl
  exact keepsButOverflow_trans (keepsButOverflow_of taken) (keepsButOverflow_trans (pushed _) (keepsButOverflow_of (keeps_arriveNew _ _ _)))
end

theorem divide_keeps {s : State} {i : Issue} {w : Wave} (hw : s.wave i.u.w = some w) (dests : List (Nat × Addr)) (rpc : W64) :
    OnlyWave s (divide s i dests rpc) i.u.w ∧ ∃ v, (divide s i dests rpc).wave i.u.w = some v ∧ KeepsButOverflow w v := by
  match e : laneSets dests with
  | [] =>
    rw [divide_none e]
    exact ⟨onlyWave_refl s _, w, hw, keepsButOverflow_of (keepsWave_refl w)⟩
  | [(m, a)] =>
    rw [divide_one e]
    obtain ⟨only, same⟩ := updSplit_keeps s i.u (fun x => { x with st := .runnable, pc := a, hdr := a, hdrw := none, recheck := false })
    obtain ⟨v, hv, keeps⟩ := same w hw
    exact ⟨only, v, hv, keepsButOverflow_of keeps⟩
  | first :: y :: t =>
    rw [divide_many e hw]
    exact ⟨onlyWave_setWave _ _ _, _, wave_setWave_same _ _ _, dividedWave_keeps _ _ _ _ _⟩

/-! ### The cases of a transfer (R14, R207) -/

/-- The lanes of a list that fault. -/
def faultLanes (fs : List LaneA) : Mask := maskOf (fun l => fs.any (fun f => f.lane == l && f.cause != 0))

section
variable {s t : State} {i : Issue} {fs : List LaneA} {dest : Nat → Addr} {rpc : W64} {pre : State → Issue → State} {cap : Bool}
  {k : State → Issue → State}

theorem faultThen_nil : faultThen s i cap [] k = k s i := rfl
theorem not_all_unfaulted (faulty : ∀ f ∈ fs, f.cause ≠ 0) (ne : fs ≠ []) : ¬ fs.all (fun f => f.cause == 0) = true := by
  obtain ⟨f, hf⟩ := List.exists_mem_of_ne_nil fs ne
  exact fun clean => faulty f hf (by simpa using List.all_eq_true.1 clean f hf)
theorem faultThen_parked (faulty : ∀ f ∈ fs, f.cause ≠ 0) (ne : fs ≠ []) (h : parkLanes s i.u i.sp i.word cap fs 0 = .yes t) :
    faultThen s i cap fs k = k t { i with e := i.e &&& ~~~faultLanes fs } := by
  rw [faultThen, if_neg (not_all_unfaulted faulty ne), h]; rfl
theorem faultThen_held (faulty : ∀ f ∈ fs, f.cause ≠ 0) (ne : fs ≠ []) (h : parkLanes s i.u i.sp i.word cap fs 0 = .no t) :
    faultThen s i cap fs k = t := by
  rw [faultThen, if_neg (not_all_unfaulted faulty ne), h]

theorem transfer_overflows (h : divideBad s i (destsOf (i.sp.mask &&& ~~~faultLanes fs) dest) = true) :
    transfer s i fs dest rpc pre = trapIs s i 0x304 0 := if_pos h
theorem transfer_divides (h : divideBad s i (destsOf (i.sp.mask &&& ~~~faultLanes fs) dest) = false) :
    transfer s i fs dest rpc pre =
      faultThen s i false fs (fun s j => divide (pre s j) j (destsOf (i.sp.mask &&& ~~~faultLanes fs) dest) rpc) :=
  if_neg (ne_true_of_eq_false h)
end

/-- After an issue that adds writes and divides, nothing but its wave has changed, and there the writes are in flight. -/
theorem divide_finish_keeps {s : State} {cu : Cur} {w : Wave} (hw : s.wave cu.u.w = some w) {j : Issue} (hj : j.u = cu.u) (n : Nat) (ps : List Pend)
    (dests : List (Nat × Addr)) (rpc : W64) (c : Cm) :
    let t := finishIssue (divide (adds (s.advance cu.u n) cu.u.w ps) j dests rpc) cu.u c
    OnlyWave s t cu.u.w ∧ ∃ x, t.wave cu.u.w = some x ∧ KeepsButOverflow { w with pend := w.pend ++ ps } x := by
  obtain ⟨moved, same⟩ := advance_keeps s cu.u n
  obtain ⟨written, writes⟩ := adds_keeps (advance_wave hw n) ps
  obtain ⟨w', v, hw', hv, keeps⟩ := writes_after hw same writes
  cases hw.symm.trans hw'
  rw [← hj] at hv
  obtain ⟨divided, x, hx, keepsDivided⟩ := divide_keeps hv dests rpc
  rw [hj] at divided hx
  obtain ⟨finished, sameFinished⟩ := finishIssue_keeps (divide (adds (s.advance cu.u n) cu.u.w ps) j dests rpc) cu.u c
  obtain ⟨y, hy, keepsFinished⟩ := sameFinished x hx
  exact ⟨onlyWave_trans moved (onlyWave_trans written (onlyWave_trans divided finished)), y, hy,
    keepsButOverflow_trans (keepsButOverflow_of keeps) (keepsButOverflow_trans keepsDivided (keepsButOverflow_of keepsFinished))⟩

section
variable {s : State} {i : Instr} {c : Cm} {cu : Cur} {w : Wave} {n : Nat} {fs : List LaneA} {dest : Nat → Addr} {rpc : W64}
  {pre : State → Issue → State} {ps : List Pend}

/-- An instruction whose body is a transfer that adds writes before it divides. -/
theorem divides_of {body : State → Issue → Option State} (he : exec i s = issueOp s i c n body)
    (hb : body (s.advance cu.u n) (issueOf s c cu w) = some (transfer (s.advance cu.u n) (issueOf s c cu w) fs dest rpc pre))
    (faulty : ∀ f ∈ fs, f.cause ≠ 0)
    (hpre : s.cur = some cu → pre (s.advance cu.u n) (issueOf s c cu w) = adds (s.advance cu.u n) cu.u.w ps) :
    Divides s i c cu w n fs dest rpc pre ps := by
  unfold Divides
  intro a is fm dests j h
  have hu : is.u = cu.u := issueOf_u s c cu w
  have ends : ∀ t, transfer a is fs dest rpc pre = t → Completes i s c cu.u t := fun t ht => completes_of h he (hb.trans (congrArg some ht))
  refine ⟨fun full => ends _ (transfer_overflows full), fun room unfaulted => ?clean,
    fun t room ne parked => ends _ ?parked, fun t room ne held => ends _ ?held⟩
  case clean =>
    subst unfaulted
    have e := ends _ ((transfer_divides room).trans faultThen_nil)
    obtain ⟨only, x, hx, keeps⟩ := divide_finish_keeps h.wave hu n ps dests rpc c
    rw [← hpre h.cur] at only hx
    exact ⟨e, _, x, e, only, hx, keeps⟩
  case parked => exact (transfer_divides room).trans (faultThen_parked faulty ne (by rw [hu]; exact parked))
  case held => exact (transfer_divides room).trans (faultThen_held faulty ne (by rw [hu]; exact held))
/-- The same of an instruction of one word that never stalls. -/
theorem divides_issue1 {body : State → Issue → State} (he : exec i s = issue1 s i c body)
    (hb : body (s.advance cu.u 1) (issueOf s c cu w) = transfer (s.advance cu.u 1) (issueOf s c cu w) fs dest rpc pre)
    (faulty : ∀ f ∈ fs, f.cause ≠ 0)
    (hpre : s.cur = some cu → pre (s.advance cu.u 1) (issueOf s c cu w) = adds (s.advance cu.u 1) cu.u.w ps) :
    Divides s i c cu w 1 fs dest rpc pre ps :=
  divides_of he (congrArg some hb) faulty hpre
end

/-! ### The lanes that fault (R14, R216) -/

theorem faultMask_faulty {m : Mask} {cause : Nat} (h : cause ≠ 0) : ∀ f ∈ faultMask m cause, f.cause ≠ 0 := by
  intro f hf
  obtain ⟨l, -, rfl⟩ := List.mem_map.1 hf
  exact h
theorem offFaults_faulty {s : State} {i : Issue} {a : VSrc} : ∀ f ∈ offFaults s i a, f.cause ≠ 0 := by
  intro f hf
  obtain ⟨l, -, hl⟩ := List.mem_filterMap.1 hf
  split at hl
  · cases hl; exact Nat.succ_ne_zero _
  split at hl
  · cases hl
  dsimp only at hl
  split at hl
  · cases hl; exact Nat.succ_ne_zero _
  split at hl
  · cases hl; exact Nat.succ_ne_zero _
  · cases hl

/-! ### Targets do not look at where the split stands -/

section
variable {s : State} {w : Wave} (u : SplitRef) (n : Nat)

@[simp] theorem codeAddr_advance (off : W32) : codeAddr (s.advance u n) w off = codeAddr s w off := rfl
@[simp] theorem offFaults_advance (i : Issue) (a : VSrc) : offFaults (s.advance u n) i a = offFaults s i a := rfl
@[simp] theorem brmLane_advance (pc next : Addr) (l : Nat) (pairs : List (PReg × BitVec 16)) :
    brmLane (s.advance u n) w pc next l pairs = brmLane s w pc next l pairs := by
  induction pairs with
  | nil => rfl
  | cons p t ih =>
    simp only [brmLane, readP_advance, ih]
end

section
variable {s : State} {c : Cm} {cu : Cur} {w : Wave}

/-- The link write of a call is in flight before the split divides (R217). -/
theorem writeLink_adds (d : VDst) (h : s.cur = some cu) :
    let is := issueOf s c cu w
    writeLink d (s.advance cu.u 1) is = adds (s.advance cu.u 1) cu.u.w (vecW s (effV s w d) is.e
      (fun _ => ⟨BitVec.ofNat 32 ((nextHeader is.sp).toNat + 2 ^ 56 - codeVa s w % 2 ^ 56), false⟩) Config.linkCycles) := by
  simp only [writeLink, issueOf_u, issueOf_w, writeV_adds (cycleNow_of h 1)]
  rfl
end

section
variable (s : State) (c : Cm) (a : VSrc) (tgt rpc : BitVec 24)

theorem exec_bra : exec (.bra c tgt rpc) s = execBra c tgt rpc s := rfl
theorem exec_brm (pairs : List (PReg × BitVec 16)) : exec (.brm c pairs rpc) s = execBrm c pairs rpc s := rfl
theorem exec_brx : exec (.brx c a rpc) s = execBrx c a rpc s := rfl
theorem exec_ret : exec (.ret c a) s = execRet c a s := rfl
theorem exec_call (d : VDst) : exec (.call c d tgt) s = execCall c d tgt s := rfl
theorem exec_callx (d : VDst) : exec (.callx c d a) s = execCallx c d a s := rfl
end

/-- Settles O22: each of the four is a transfer that writes nothing before it divides. -/
theorem branchesDivide : Obligations.BranchesDivide := by
  unfold Obligations.BranchesDivide
  intro s c cu w tgt rpc pairs a is nx off pr
  refine ⟨divides_issue1 (exec_bra s c tgt rpc) rfl (faultMask_faulty (by decide)) (fun _ => rfl),
    divides_of (exec_brm s c rpc pairs) ?brm (faultMask_faulty (by decide)) (fun _ => rfl),
    divides_issue1 (exec_brx s c a rpc) ?brx offFaults_faulty (fun _ => rfl),
    divides_issue1 (exec_ret s c a) ?ret offFaults_faulty (fun _ => rfl)⟩
  case brm => simp only [issueOf_w, brmLane_advance]; rfl
  case brx => simp only [issueOf_w, offFaults_advance, codeAddr_advance, vsrc_advance]; rfl
  case ret => simp only [issueOf_w, offFaults_advance, codeAddr_advance, vsrc_advance]; rfl

/-- Settles O23: each of the two is a transfer that writes the link before it divides. -/
theorem callsWriteLink : Obligations.CallsWriteLink := by
  unfold Obligations.CallsWriteLink
  intro s c cu w d tgt a is nx link ps
  refine ⟨divides_issue1 (exec_call s c tgt d) rfl (faultMask_faulty (by decide)) (writeLink_adds d),
    divides_issue1 (exec_callx s c a d) ?callx offFaults_faulty (writeLink_adds d)⟩
  simp only [issueOf_w, offFaults_advance, codeAddr_advance, vsrc_advance]; rfl

end Sys2Proof.Machine
end

section
/-! exit, wsync, yield and sleep (R161, R199, R214, R218): what an issue of each does in each of its cases, and the statements O25 and O26. -/

namespace Sys2Proof.Machine

open Sys2Proof.Spec

section
variable (s : State) (c : Cm)

theorem exec_exit : exec (.exit c) s = execExit c s := rfl
theorem exec_wsync : exec (.wsync c) s = execWsync c s := rfl
theorem exec_yield (lve : Bool) (live : BitVec 6) : exec (.yield c lve live) s = execYield c lve live s := rfl
theorem exec_sleep (a : SSrc) : exec (.sleep c a) s = execSleep c a s := rfl
end

/-- What a change of a wave does is what it makes of the wave that is there. -/
theorem updWave_congr {s : State} {r : WaveRef} {w : Wave} {f g : Wave → Wave} (hw : s.wave r = some w) (h : f w = g w) :
    s.updWave r f = s.updWave r g := by
  have hw' : tfind s.waves r = some w := hw
  simp only [State.updWave, tupd, hw', h]

section
variable {s : State} {i : Instr} {c : Cm} {cu : Cur} {w : Wave}

/-! ### Issues of one word that never stall -/

section
variable {body : State → Issue → State} (h : Issues s i c cu w)
include h

theorem completes_issue1 {t : State} (he : exec i s = issue1 s i c body) (hb : body (s.advance cu.u 1) (issueOf s c cu w) = t) :
    Completes i s c cu.u t := completes_of h he (congrArg some hb)

/-! A split-scalar instruction does nothing with E empty, and its body else (R41). -/

theorem gives_issueS_empty (he : exec i s = issueS s i c body) (empty : exSet s c cu w = 0) : Gives i s c cu.u [] :=
  gives_issue1 h he (if_pos empty)
theorem gives_issueS_idle (he : exec i s = issueS s i c body) (idle : body (s.advance cu.u 1) (issueOf s c cu w) = s.advance cu.u 1) :
    Gives i s c cu.u [] := by
  refine gives_issue1 h he ?_
  rw [idle, ite_self]; rfl
theorem completes_issueS {t : State} (he : exec i s = issueS s i c body) (lane : exSet s c cu w ≠ 0)
    (hb : body (s.advance cu.u 1) (issueOf s c cu w) = t) : Completes i s c cu.u t :=
  completes_issue1 h he ((if_neg lane).trans hb)
end

/-! ### exit (R218, R221, R231, R244) -/

section
variable (h : Issues s (.exit c) c cu w)
include h

theorem exit_empty (empty : exSet s c cu w = 0) : Gives (.exit c) s c cu.u [] :=
  gives_of h (exec_exit s c) (if_pos empty)

variable (lane : exSet s c cu w ≠ 0)
include lane

theorem exit_waits (out : syncsOut (s.advance cu.u 1) w (fun _ => true) = true) : exec (.exit c) s = .next s := by
  refine (exec_exit s c).trans (issueOp_stall h 1 _ ?_)
  rw [issueOf_w, issueOf_e, if_neg lane, if_pos out]
theorem exit_retires (clear : syncsOut (s.advance cu.u 1) w (fun _ => true) = false) :
    Completes (.exit c) s c cu.u (exitLanes (s.advance cu.u 1) (issueOf s c cu w)) := by
  refine completes_of h (exec_exit s c) ?_
  rw [issueOf_w, issueOf_e, if_neg lane, if_neg (ne_true_of_eq_false clear)]
end

/-! ### wsync (R43, R214) -/

/-- The wave with the lanes of split k in WSM, at the word of the issue. -/
def gathered (c : Cm) (is : Issue) (k : Nat) (w : Wave) : Wave :=
  { w.freeSplit k .unused with
    wsm := w.wsm ||| is.sp.mask, wspc := is.sp.pc, wsNext := (wordAfter is.sp 1).1
    wsHdr := if (wordAfter is.sp 1).2 then (wordAfter is.sp 1).1 else is.sp.hdr
    wsTill := if c.s && !w.ilk then max w.wsTill (fixedTill w) else w.wsTill }
/-- The wave with split k held at the word of the issue. -/
def heldAtWsync (now : Nat) (is : Issue) (k : Nat) (w : Wave) : Wave :=
  w.setSplit k { is.sp with st := .waitMerge, last := now + 1 }

section
variable (h : Issues s (.wsync c) c cu w)
include h

theorem wsync_guarded (guard : c.pg ≠ 7 ∨ c.pn = true) :
    Completes (.wsync c) s c cu.u (trapIs (s.advance cu.u 1) (issueOf s c cu w) 0x002 0) :=
  completes_issue1 h (exec_wsync s c) (if_pos guard)

variable (pg : c.pg = 7) (pn : c.pn = false)
include pg pn

/-- Behind p7 a wsync changes the wave by what f makes of it, where f is what the model does with the WSM that is there. -/
theorem wsync_changes {f : Wave → Wave} (hf : let v := w.setSplit cu.u.k (advanceSplit (s.cyc cu.u.w.die) 1 (w.split cu.u.k))
      (if w.wsm ≠ 0 ∧ w.wspc ≠ (issueOf s c cu w).sp.pc then heldAtWsync (s.cyc cu.u.w.die) (issueOf s c cu w) cu.u.k v
        else gathered c (issueOf s c cu w) cu.u.k v) = f v) :
    Completes (.wsync c) s c cu.u ((s.advance cu.u 1).updWave cu.u.w f) := by
  refine completes_issue1 h (exec_wsync s c) ((if_neg (by simp [pg, pn])).trans ?_)
  rw [issueOf_u]
  exact updWave_congr (advance_wave h.wave 1) hf
theorem wsync_gathers (here : w.wsm = 0 ∨ w.wspc = (issueOf s c cu w).sp.pc) :
    Completes (.wsync c) s c cu.u ((s.advance cu.u 1).updWave cu.u.w (gathered c (issueOf s c cu w) cu.u.k)) :=
  wsync_changes h pg pn (if_neg fun elsewhere => here.elim elsewhere.1 elsewhere.2)
theorem wsync_holds (busy : w.wsm ≠ 0) (elsewhere : w.wspc ≠ (issueOf s c cu w).sp.pc) :
    Completes (.wsync c) s c cu.u ((s.advance cu.u 1).updWave cu.u.w (heldAtWsync (s.cyc cu.u.w.die) (issueOf s c cu w) cu.u.k)) :=
  wsync_changes h pg pn (if_pos ⟨busy, elsewhere⟩)
end

/-! ### yield (R161) -/

/-- The wave at rest after a yield of split k, with the live count that LVE gives. -/
def yielded (lve : Bool) (n k : Nat) (w : Wave) : Wave :=
  let v := if lve then { w with live := some (max n (w.live.getD 0)) } else w
  v.setSplit k { v.split k with hold := .yielded }

/-- The test that yield makes of its live count. -/
theorem not_overAllotted {lve : Bool} {n : Nat} (fits : lve = false ∨ n ≤ w.allot) : ¬ (lve && decide (w.allot < n)) = true := by
  rcases fits with off | le
  · simp [off]
  · simp [Nat.not_lt.2 le]

section
variable {lve : Bool} {live : BitVec 6} (h : Issues s (.yield c lve live) c cu w)
include h

theorem yield_overAllotted (lane : exSet s c cu w ≠ 0) (counts : lve = true) (above : w.allot < (live.toNat + 1) * 8) :
    Completes (.yield c lve live) s c cu.u (trapIs (s.advance cu.u 1) (issueOf s c cu w) 0x003 0) :=
  completes_issueS h (exec_yield s c lve live) lane (if_pos (by simp [counts, above]))

variable (fits : lve = false ∨ (live.toNat + 1) * 8 ≤ w.allot)
include fits

theorem yield_unasked (quiet : w.preq = false) : Gives (.yield c lve live) s c cu.u [] := by
  refine gives_issueS_idle h (exec_yield s c lve live) ?_
  rw [issueOf_w, if_neg (not_overAllotted fits), quiet]; rfl
theorem yield_rests (lane : exSet s c cu w ≠ 0) (asked : w.preq = true) :
    Completes (.yield c lve live) s c cu.u ((s.advance cu.u 1).updWave cu.u.w (yielded lve ((live.toNat + 1) * 8) cu.u.k)) := by
  refine completes_issueS h (exec_yield s c lve live) lane ?_
  rw [issueOf_w, issueOf_u, if_neg (not_overAllotted fits), asked]; rfl
end

/-! ### sleep (R199) -/

section
variable {a : SSrc} (h : Issues s (.sleep c a) c cu w)
include h

theorem sleep_poisoned (lane : exSet s c cu w ≠ 0) (psn : (ssrc s w a).psn = true) : Completes (.sleep c a) s c cu.u
    (faultThen (s.advance cu.u 1) (issueOf s c cu w) false (faultMask (exSet s c cu w) 0x104) (fun s _ => s)) := by
  refine completes_issueS h (exec_sleep s c a) lane ?_
  rw [issueOf_w, ssrc_advance, poisonGate, if_pos psn]; rfl

variable (clean : (ssrc s w a).psn = false)
include clean

theorem sleep_zero (zero : min (ssrc s w a).v.toNat (2 ^ 20) = 0) : Gives (.sleep c a) s c cu.u [] := by
  refine gives_issueS_idle h (exec_sleep s c a) ?_
  rw [issueOf_w, ssrc_advance, poisonGate, if_neg (ne_true_of_eq_false clean), if_pos zero]
theorem sleep_waits (lane : exSet s c cu w ≠ 0) (nonzero : min (ssrc s w a).v.toNat (2 ^ 20) ≠ 0) : Completes (.sleep c a) s c cu.u
    ((s.advance cu.u 1).updSplit cu.u (fun x => { x with st := .sleep (s.cyc cu.u.w.die + min (ssrc s w a).v.toNat (2 ^ 20)) })) := by
  refine completes_issueS h (exec_sleep s c a) lane ?_
  rw [issueOf_w, issueOf_u, ssrc_advance, poisonGate, if_neg (ne_true_of_eq_false clean), if_neg nonzero]; rfl
end
end

/-! ### The statements -/

/-- Settles O25: nothing with E empty; else it waits behind the wave's arrivals, and without one retires the lanes of E. -/
theorem exitRetiresLanes : Obligations.ExitRetiresLanes := by
  unfold Obligations.ExitRetiresLanes
  intro s c cu w h e
  refine ⟨exit_empty h, exit_waits h, fun lane clear => ?_⟩
  have retires := exit_retires h lane clear
  rw [exitLanes, issueOf_u] at retires
  exact retires

/-- Settles O26: each instruction in each of its cases. -/
theorem wavesPause : Obligations.WavesPause := by
  unfold Obligations.WavesPause
  refine ⟨fun s c cu w h => ⟨wsync_guarded h, wsync_gathers h, wsync_holds h⟩,
    fun s c cu w lve live a => ⟨fun h => ⟨?yieldNothing, yield_overAllotted h, ?yieldRests⟩,
    fun h => ⟨?sleepNothing, ?sleepWaits, sleep_poisoned h⟩⟩⟩
  case yieldNothing => exact fun idle => idle.elim (gives_issueS_empty h (exec_yield s c lve live)) fun ⟨fits, quiet⟩ => yield_unasked h fits quiet
  case yieldRests => exact fun lane fits => yield_rests h fits lane
  case sleepNothing => exact fun idle => idle.elim (gives_issueS_empty h (exec_sleep s c a)) fun ⟨clean, zero⟩ => sleep_zero h clean zero
  case sleepWaits => exact fun lane clean => sleep_waits h clean lane

end Sys2Proof.Machine
end
